-- ==== Sys2Proof/Word.lean ====
section
/-! DEFINITION. The word types of the model: the widths the PH7 manual gives its registers, addresses and codes. -/
namespace Sys2Proof

/-- One byte of memory. -/
abbrev Byte := BitVec 8
/-- A 16-bit element, half word or status code (R15). -/
abbrev W16 := BitVec 16
/-- A 32-bit lane or short word (R110). -/
abbrev W32 := BitVec 32
/-- A 64-bit scalar register, memory word or tick (R149, R369). -/
abbrev W64 := BitVec 64
/-- A vector register: 128 lanes of 32 bits, lane i in bits [32i+31:32i] (R110). -/
abbrev VReg := BitVec 4096
/-- A mask register: 128 bits (R149). -/
abbrev MReg := BitVec 128
/-- A tensor descriptor register (R151). -/
abbrev DReg := BitVec 256
/-- A status code (R15). -/
abbrev Status := BitVec 16

/-- The two builds (R1): PH7-T is the full stack, PH7-S the short one. -/
inductive Build where
  | t
  | s
  deriving DecidableEq, Repr

/-- A hardware thread: its logical tile and its number 0 to 23 on that tile (R18, R141). -/
structure TRef where
  tile : Nat
  th : Nat
  deriving DecidableEq, Repr

/-- Who issues an instruction that both profiles have (R27, R176): a tile thread (Idmon-T) or a core of a control
processor (Idmon-C; processor code as C_CORE bits [7:4], core as bits [3:0]). -/
inductive Who where
  | t (r : TRef)
  | c (proc core : Nat)
  deriving DecidableEq, Repr

/-- The fields of a format-S instruction (Table 6.1); `x` is the extension word when X = 1. -/
structure SForm where
  rd : BitVec 5 := 0
  ra : BitVec 5 := 0
  rb : BitVec 5 := 0
  rc : BitVec 5 := 0
  sub : BitVec 3 := 0
  i : Bool := false
  imm : BitVec 16 := 0
  x : Option W64 := none
  deriving DecidableEq, Repr

/-- The fields of a format-V instruction (Table 6.2). -/
structure VForm where
  vd : BitVec 4 := 0
  va : BitVec 4 := 0
  vb : BitVec 4 := 0
  vc : BitVec 4 := 0
  mm : BitVec 3 := 0
  z : Bool := false
  ef : BitVec 2 := 0
  i : Bool := false
  h : Bool := false
  mb : BitVec 3 := 0
  sr : BitVec 5 := 0
  imm : BitVec 16 := 0
  x : Option W64 := none
  deriving DecidableEq, Repr

/-- The fields of a format-D instruction (Table 6.3). -/
structure DForm where
  rd : BitVec 5 := 0
  ra : BitVec 5 := 0
  d1 : BitVec 3 := 0
  i10 : BitVec 5 := 0
  i11 : BitVec 5 := 0
  d2 : BitVec 3 := 0
  i20 : BitVec 5 := 0
  i21 : BitVec 5 := 0
  shape : BitVec 3 := 0
  x : Option W64 := none
  deriving DecidableEq, Repr

/-- A Neotte message: its header fields (Table 10.4) and its data bytes. `len` is LEN of an RD, which carries no data; the LEN of any
other message is the number of its data bytes. -/
structure Msg where
  mtype : Nat
  dst : Nat
  src : Nat
  hops : Nat := 0
  dn : Bool := false
  tag : Nat := 0
  addr : Nat := 0
  param : Nat := 0
  len : Nat := 0
  data : List Byte := []
  deriving DecidableEq, Repr

/-- A flit: its header (Table 10.2) and the 240 bytes of its payload. `msgs` are the messages that end in a flit that this device
sends, which it keeps with the flit until it is acknowledged. -/
structure Flit where
  kind : Nat
  vc : Nat := 0
  seq : Nat := 0
  ack : Nat := 0
  nak : Bool := false
  crv : Nat := 0
  crn : Nat := 0
  fmh : Nat := 31
  slots : List Byte := []
  msgs : List Msg := []
  deriving DecidableEq, Repr

/-- What a port receives of one flit (R289): the 32-bit words on its logical lanes, and the codewords that touch it: how many symbols of each
are wrong, and whether this flit is the first that it touches. -/
structure RxFlit where
  lanes : List (List W32)
  codewords : List (Nat × Bool) := []
  deriving DecidableEq, Repr

/-- Who ends a mirror relationship with CLOSE (R329): a primary, or the partner of this device's own. -/
inductive Closer where
  | primary (dev : Nat)
  | partner (dev : Nat)
  deriving DecidableEq, Repr

/-- What a start stage found (R398, R472): the DETAIL of its record, and what S6, S7 or S9 found failing: a row's address, a
pseudo-channel or a tile, and whether its spare passes. -/
structure StageFound where
  detail : W64
  failing : List (Nat × Bool) := []
  deriving DecidableEq, Repr

/-- What the check code of one 32-byte word found when the word was read (R204): the word's local address divided by
32, and whether the error was uncorrectable (true) or corrected (false). -/
structure Ecc where
  word : Nat
  bad : Bool
  deriving DecidableEq, Repr

/-- The rings of the host interface (R429, R437). -/
inductive RingId where
  | sq (n q : Nat)
  | cq (n : Nat)
  | eq
  | dma (k : Nat)
  deriving DecidableEq, Repr

/-- How a request to the host ended (R427): data or acknowledgement, data with EP set, or a failure (Unsupported
Request, Completer Abort). -/
inductive HostEnd where
  | ok
  | poisoned
  | abort
  deriving DecidableEq, Repr

/-- The read-modify-writes a bank engine performs on a cache line (R219): a SEM of a tile's memory operation, one step
of an RDW or a collective landing, or the release of the held line. -/
inductive Reduction where
  | sem (tile op : Nat)
  | rdw (op : Nat)
  | release
  deriving DecidableEq, Repr

/-- What Gaffer reads at the start of a period (R340, R357): the count of each activity counter over the period, in the order of
the fused weights, and the reading of every sensor in units of 0.25 degrees C. -/
structure GafferIn where
  counts : List Nat
  sensors : List Int
  deriving DecidableEq, Repr

/-- The DOE data object request that an SPDM or IDE_KM command carries, as far as the manual gives its content. -/
structure SpdmReq where
  session : Nat := 0
  data : List Byte := []
  signed : Bool := false
  slot : Nat := 0
  deriving DecidableEq, Repr

end Sys2Proof
end

