-- ==== Sys2Proof/Syntax.lean ====
section
/-! DEFINITION. The commands the device takes: one constructor per row of spec/opcode_table.json, with its operands. -/
namespace Sys2Proof

/-- The commands. An Idmon instruction carries who issues it and its fields; every other command is an access, a message,
a pin event or a step of one of the device's own engines. -/
inductive Instr where
  /-- NOP: Does nothing and completes with success (R177). -/
  | nop (w : Who) (f : SForm)
  /-- END: Ends the thread once every operation it started has completed (R142). -/
  | endT (w : Who) (f : SForm)
  /-- ECALL: Raises an exception with cause ECALL_TRAP (R193). -/
  | ecall (w : Who) (f : SForm)
  /-- ERET: Returns from an exception (R194). -/
  | eret (w : Who) (f : SForm)
  /-- WFI: Holds the core until an interrupt is pending (R194). -/
  | wfi (w : Who) (f : SForm)
  /-- FENCE: Orders the core's accesses at DEVICE scope and discards its fetched words (R191). -/
  | fence (w : Who) (f : SForm)
  /-- INTERRUPT: An interrupt of the core, arising now when a cause is given, is taken when R194 allows it. -/
  | interrupt (proc core : Nat) (cause : Option Status)
  /-- ADD: RD is RA + b modulo 2^64 (R177). -/
  | add (w : Who) (f : SForm)
  /-- SUB: RD is RA - b modulo 2^64 (R177). -/
  | sub (w : Who) (f : SForm)
  /-- AND: Bitwise AND (R177). -/
  | and (w : Who) (f : SForm)
  /-- OR: Bitwise OR (R177). -/
  | or (w : Who) (f : SForm)
  /-- XOR: Bitwise XOR (R177). -/
  | xor (w : Who) (f : SForm)
  /-- SLL: Shift left logical (R177). -/
  | sll (w : Who) (f : SForm)
  /-- SRL: Shift right logical (R177). -/
  | srl (w : Who) (f : SForm)
  /-- SRA: Shift right arithmetic (R177). -/
  | sra (w : Who) (f : SForm)
  /-- SLT: Signed set-less-than (R177). -/
  | slt (w : Who) (f : SForm)
  /-- SLTU: Unsigned set-less-than (R177). -/
  | sltu (w : Who) (f : SForm)
  /-- MIN: Signed minimum (R177). -/
  | min (w : Who) (f : SForm)
  /-- MAX: Signed maximum (R177). -/
  | max (w : Who) (f : SForm)
  /-- MUL: Low 64 bits of the product (R177). -/
  | mul (w : Who) (f : SForm)
  /-- MULHU: High 64 bits of the unsigned product (R177). -/
  | mulhu (w : Who) (f : SForm)
  /-- BEQ: Branch when equal (R177). -/
  | beq (w : Who) (f : SForm)
  /-- BNE: Branch when not equal (R177). -/
  | bne (w : Who) (f : SForm)
  /-- BLT: Branch when less, signed (R177). -/
  | blt (w : Who) (f : SForm)
  /-- BGE: Branch when greater or equal, signed (R177). -/
  | bge (w : Who) (f : SForm)
  /-- BLTU: Branch when less, unsigned (R177). -/
  | bltu (w : Who) (f : SForm)
  /-- BGEU: Branch when greater or equal, unsigned (R177). -/
  | bgeu (w : Who) (f : SForm)
  /-- J: Jump, relative or absolute (R177). -/
  | j (w : Who) (f : SForm)
  /-- JR: Jump to a register plus an offset (R177). -/
  | jr (w : Who) (f : SForm)
  /-- CSRR: Reads a control-state register (R179). -/
  | csrr (w : Who) (f : SForm)
  /-- CSRW: Writes a control-state register (R179). -/
  | csrw (w : Who) (f : SForm)
  /-- STBY_WRITE: The thread writes TIL_TCS.STBY (R147). -/
  | stbyWrite (r : TRef) (v : Bool)
  /-- RT_SWAP: A write of 1 to TIL_TBLCTL.RT_SWAP (R102). -/
  | rtSwap (tile : Nat)
  /-- CB_SWAP: A write of 1 to TIL_TBLCTL.CB_SWAP (R102). -/
  | cbSwap (tile : Nat)
  /-- TABLE_SWAP: The array reaches an instruction boundary: pending swaps are taken or refused (R102, R104). -/
  | tableSwap (tile : Nat)
  /-- LDX_B: Loads one byte (R181). -/
  | ldxB (w : Who) (f : SForm)
  /-- LDX_H: Loads two bytes (R181). -/
  | ldxH (w : Who) (f : SForm)
  /-- LDX_W: Loads four bytes (R181). -/
  | ldxW (w : Who) (f : SForm)
  /-- LDX_L: Loads eight bytes (R181). -/
  | ldxL (w : Who) (f : SForm)
  /-- LDX_D: Loads a 32-byte tensor descriptor into a d register (R151). -/
  | ldxD (w : Who) (f : SForm)
  /-- STX_B: Stores one byte (R181). -/
  | stxB (w : Who) (f : SForm)
  /-- STX_H: Stores two bytes (R181). -/
  | stxH (w : Who) (f : SForm)
  /-- STX_W: Stores four bytes (R181). -/
  | stxW (w : Who) (f : SForm)
  /-- STX_L: Stores eight bytes (R181). -/
  | stxL (w : Who) (f : SForm)
  /-- STX_D: Stores a d register as 32 bytes (R151). -/
  | stxD (w : Who) (f : SForm)
  /-- LDX_S: Stream load of 512 bytes of a C32 row (R233). -/
  | ldxS (w : Who) (f : DForm)
  /-- STX_S: Stream store of 512 bytes of a C32 row (R233). -/
  | stxS (w : Who) (f : DForm)
  /-- LDX_V: Vector load at consecutive addresses (R181). -/
  | ldxV (w : Who) (f : VForm)
  /-- LDX_VI: Indexed vector load (R181). -/
  | ldxVI (w : Who) (f : VForm)
  /-- STX_V: Vector store at consecutive addresses (R181). -/
  | stxV (w : Who) (f : VForm)
  /-- STX_VI: Indexed vector store, the highest lane winning (R181). -/
  | stxVI (w : Who) (f : VForm)
  /-- SLOT_WAIT_GRANT: A request of the thread that waits for a slot or cap receives it (R163). -/
  | slotWaitGrant (r : TRef)
  /-- LOAD_RESPONSE: The data of one sector request of a load returns, with what the check codes found (R162, R204). -/
  | loadResponse (tile op part : Nat) (ecc : List Ecc)
  /-- STORE_ACK: The acknowledgement of one sector request of a store or of a SEM returns (R162). -/
  | storeAck (tile op part : Nat)
  /-- INSTRUCTION_FETCH: The fetch path fetches the next word ahead of the thread (R172). -/
  | instructionFetch (r : TRef)
  /-- RUNAHEAD_FETCH: The sequencer issues the next run-ahead fetch along the stream of a descriptor register (R164). -/
  | runaheadFetch (r : TRef) (d : BitVec 3)
  /-- SEM_ADD: Atomic add at the word's home (R158). -/
  | semAdd (w : Who) (f : SForm)
  /-- SEM_SWAP: Atomic swap (R158). -/
  | semSwap (w : Who) (f : SForm)
  /-- SEM_CAS: Atomic compare and swap (R158). -/
  | semCas (w : Who) (f : SForm)
  /-- SEM_READ: Atomic read (R158). -/
  | semRead (w : Who) (f : SForm)
  /-- SEM_HOME_PERFORM: The home performs an arriving SEM in its single order (R158). -/
  | semHomePerform (tile op : Nat)
  /-- WAIT_TOK: Waits for one token (R161). -/
  | waitTok (w : Who) (f : SForm)
  /-- WAIT_TOKALL: Waits for every token (R161). -/
  | waitTokall (w : Who) (f : SForm)
  /-- WAIT_MEM: Waits for a condition on a memory word (R161). -/
  | waitMem (w : Who) (f : SForm)
  /-- WAIT_TIME: Waits for a tick (R161). -/
  | waitTime (w : Who) (f : SForm)
  /-- WAIT_MET: An event finds the condition of the thread's WAIT met (R161). -/
  | waitMet (r : TRef)
  /-- WAIT_EXPIRED: The limit of the thread's WAIT is reached with the condition unmet (R161). -/
  | waitExpired (r : TRef)
  /-- BAR: Orders earlier accesses before later ones at a scope (R157). -/
  | bar (w : Who) (f : SForm)
  /-- DSET: Writes one field of a descriptor register (R180). -/
  | dset (w : Who) (f : SForm)
  /-- CUE: Submits a cue declaration for admission (R376). -/
  | cue (w : Who) (f : SForm)
  /-- CUE_ADMISSION: The Director decides on the cue that the sequence submitted (R380 to R385). -/
  | cueAdmission (reel slot : Nat)
  /-- ENDCUE: Requests the end of the open cue (R378). -/
  | endcue (w : Who) (f : SForm)
  /-- CUE_END: The cue of the sequence ends with its status (R393). -/
  | cueEnd (reel slot : Nat)
  /-- CUE_EXPIRE: The cue has not ended by its deadline and expires (R389). -/
  | cueExpire (reel slot : Nat)
  /-- PHASE: Sets the reel's phase (R347). -/
  | phase (w : Who) (f : SForm)
  /-- CLAP: Requests a fabric-wide counter freeze (R498). -/
  | clap (w : Who) (f : SForm)
  /-- UPD: Issues a fused update, derive or audit (R241). -/
  | upd (w : Who) (f : SForm)
  /-- UPD_PRECHECK_CHUNK: A bank engine prechecks one chunk of the UPD (R244). -/
  | updPrecheckChunk (op chunk : Nat)
  /-- UPD_STAGE_CHUNK: A bank engine computes one chunk's update and stages it in the picked free slot (R250). -/
  | updStageChunk (op chunk slotPick : Nat)
  /-- DERIVE_CHUNK: A bank engine writes one chunk's working copy from its master (R246). -/
  | deriveChunk (op chunk : Nat)
  /-- AUDIT_CHUNK: A bank engine checks one chunk's working copy against its master (R247). -/
  | auditChunk (op chunk : Nat)
  /-- HELPER_START: The Director starts the reel's waiting update helper on free threads (R262). -/
  | helperStart (reel : Nat) (picks : List Nat)
  /-- HELPER_REFUSED: The helper's threads have not become free within 1 ms of the UPD (R262). -/
  | helperRefused (reel : Nat)
  /-- RDW: Issues a reduce-on-write (R263). -/
  | rdw (w : Who) (f : SForm)
  /-- RDW_SECTOR: The destination engine adds the source elements of the next destination sector (R264). -/
  | rdwSector (op : Nat)
  /-- COLL: Issues a collective (R310). -/
  | coll (w : Who) (f : SForm)
  /-- COLL_ENGINE_START: The collective engine starts a waiting COLL or PERM (R310). -/
  | collEngineStart (op : Nat)
  /-- PERM: Issues an in-place re-shard (R316). -/
  | perm (w : Who) (f : SForm)
  /-- PERM_PASS_ACKED: Every send of the current pass is acknowledged: the staged slices are written back (R318). -/
  | permPassAcked (op : Nat)
  /-- SCRUB: Zeroes a virtual range after checking every page (R165). -/
  | scrub (w : Who) (f : SForm)
  /-- SCRUB_ZERO: A home zeroes one 4 KiB page of the range, settling roll slots first (R266). -/
  | scrubZero (op page : Nat)
  /-- TOLL: Joins the local flag to a Toll group's step (R260). -/
  | toll (w : Who) (f : SForm)
  /-- TOLL_CONTRIBUTION_SEND: The device sends its contribution for the group (R258). -/
  | tollContributionSend (g : Nat)
  /-- TOLL_UP: A member receives a child's OR contribution (R320). -/
  | tollUp (digest : W64) (tag rank : Nat) (contrib : Bool) (leg : Nat)
  /-- TOLL_DOWN: A member receives the resolution of a step (R320). -/
  | tollDown (digest : W64) (tag : Nat) (set lost : Bool) (leg : Nat)
  /-- ROLL_COMMIT_CHUNK: A bank engine writes a ROLLED payload to its places (R251). -/
  | rollCommitChunk (layer col slot : Nat)
  /-- ROLL_RECOVERY: A restarting bank engine settles every slot by Table 8.8 (R255). -/
  | rollRecovery (layer col : Nat)
  /-- TOLL_QRY: A member receives a query for a step's resolution (R321). -/
  | tollQry (digest : W64) (tag src : Nat)
  /-- TOLL_ANS: An answer to a query: clear (some false), set (some true) or none held (R321, R256). -/
  | tollAns (digest : W64) (tag src : Nat) (ans : Option Bool)
  /-- TOLL_QUERY_TIMEOUT: No answer within 100 us settles the group's query (R256). -/
  | tollQueryTimeout (g : Nat)
  /-- TOLL_BIND: A write of BIND to GRP_TOLL_BIND_g (R319). -/
  | tollBind (g : Nat) (v : W64) (mcount : BitVec 13)
  /-- TOLL_BIND_APPLY: A pending binding takes effect or is refused (R319). -/
  | tollBindApply (g : Nat)
  /-- MMA_OPEN: Opens an output set and adds products (R82, R184). -/
  | mmaOpen (w : Who) (f : DForm)
  /-- MMA_CONT: Adds further products to an open handle (R82, R184). -/
  | mmaCont (w : Who) (f : DForm)
  /-- ARRAY_BEAT: One beat adds a k-step to each output of the handle that the array chooses (R81, R88). -/
  | arrayBeat (tile h : Nat)
  /-- MMA_COMPLETE: The last product of the oldest MMA on the handle has reached the pool (R106). -/
  | mmaComplete (tile h : Nat)
  /-- RSC: Issues a drain of a handle (R96, R185). -/
  | rsc (w : Who) (f : DForm)
  /-- RSC_DRAIN_START: The rescale stage starts the RSC of a handle (R83). -/
  | rscDrainStart (tile h : Nat)
  /-- RSC_COMPLETE: The rescale stage finishes writing the handle and frees it (R106). -/
  | rscComplete (tile h : Nat)
  /-- CPYL: Issues a layout or format copy (R186, R234). -/
  | cpyl (w : Who) (f : DForm)
  /-- CPYL_COMPLETE: The tile's CPYL finishes copying (R235). -/
  | cpylComplete (tile : Nat)
  /-- VADD: Vector add (R117). -/
  | vadd (w : Who) (f : VForm)
  /-- VSUB: Vector subtract (R117). -/
  | vsub (w : Who) (f : VForm)
  /-- VMUL: Vector multiply (R117). -/
  | vmul (w : Who) (f : VForm)
  /-- VMAX: Vector maximumNumber (R74). -/
  | vmax (w : Who) (f : VForm)
  /-- VMIN: Vector minimumNumber (R74). -/
  | vmin (w : Who) (f : VForm)
  /-- VFMA: Vector fused multiply-add (R117). -/
  | vfma (w : Who) (f : VForm)
  /-- VABS: Clears the sign bit of each element (R117). -/
  | vabs (w : Who) (f : VForm)
  /-- VNEG: Inverts the sign bit of each element (R117). -/
  | vneg (w : Who) (f : VForm)
  /-- VMOV: Moves a register or immediate into lanes (R49). -/
  | vmov (w : Who) (f : VForm)
  /-- VSEL: Selects lanes from two sources under a second mask (R113). -/
  | vsel (w : Who) (f : VForm)
  /-- VCMP_EQ: Compare equal (R119). -/
  | vcmpEq (w : Who) (f : VForm)
  /-- VCMP_NE: Compare not equal (R119). -/
  | vcmpNe (w : Who) (f : VForm)
  /-- VCMP_LT: Compare less (R119). -/
  | vcmpLt (w : Who) (f : VForm)
  /-- VCMP_LE: Compare less or equal (R119). -/
  | vcmpLe (w : Who) (f : VForm)
  /-- VCMP_GT: Compare greater (R119). -/
  | vcmpGt (w : Who) (f : VForm)
  /-- VCMP_GE: Compare greater or equal (R119). -/
  | vcmpGe (w : Who) (f : VForm)
  /-- VCMP_UN: Compare unordered (R119). -/
  | vcmpUn (w : Who) (f : VForm)
  /-- VAND: Lane AND (R110). -/
  | vand (w : Who) (f : VForm)
  /-- VOR: Lane OR (R110). -/
  | vor (w : Who) (f : VForm)
  /-- VXOR: Lane XOR (R110). -/
  | vxor (w : Who) (f : VForm)
  /-- VSHL: Lane shift left (R110). -/
  | vshl (w : Who) (f : VForm)
  /-- VSHR: Lane logical shift right (R110). -/
  | vshr (w : Who) (f : VForm)
  /-- VIADD: Lane addition modulo 2^32 (R110). -/
  | viadd (w : Who) (f : VForm)
  /-- VMAND: Mask AND (R113). -/
  | vmand (w : Who) (f : VForm)
  /-- VMOR: Mask OR (R113). -/
  | vmor (w : Who) (f : VForm)
  /-- VMXOR: Mask XOR (R113). -/
  | vmxor (w : Who) (f : VForm)
  /-- VMNOT: Mask NOT (R113). -/
  | vmnot (w : Who) (f : VForm)
  /-- VMPOP: Counts set mask bits into a scalar (R113). -/
  | vmpop (w : Who) (f : VForm)
  /-- VINS: Inserts a scalar into one lane (R130). -/
  | vins (w : Who) (f : VForm)
  /-- VEXT: Extracts one lane into a scalar (R130). -/
  | vext (w : Who) (f : VForm)
  /-- VIDX: Writes each lane's index (R113). -/
  | vidx (w : Who) (f : VForm)
  /-- VSHF: Shuffles lanes (R125). -/
  | vshf (w : Who) (f : VForm)
  /-- VCVT: Converts between formats (R122). -/
  | vcvt (w : Who) (f : VForm)
  /-- VSFN_EXP2: Base-2 exponential (R132). -/
  | vsfnExp2 (w : Who) (f : VForm)
  /-- VSFN_LOG2: Base-2 logarithm (R132). -/
  | vsfnLog2 (w : Who) (f : VForm)
  /-- VSFN_RSQRT: Reciprocal square root (R132). -/
  | vsfnRsqrt (w : Who) (f : VForm)
  /-- VSFN_RCP: Reciprocal (R132). -/
  | vsfnRcp (w : Who) (f : VForm)
  /-- VSFN_TANH: Hyperbolic tangent (R132). -/
  | vsfnTanh (w : Who) (f : VForm)
  /-- VSFN_ERF: Error function (R132). -/
  | vsfnErf (w : Who) (f : VForm)
  /-- OPEN_REQ: A write of DIR_REEL_CTL with OPEN_REQ (bit 2) set (R135). -/
  | openReq (reel : Nat) (v : W64)
  /-- CLOSE_REQ: A write of DIR_REEL_CTL with CLOSE_REQ (bit 3) set (R135). -/
  | closeReq (reel : Nat) (v : W64)
  /-- REEL_RELEASE: The Director releases a CLOSING reel whose last sequence has ended (R136). -/
  | reelRelease (reel : Nat)
  /-- SEED_WRITE: A write of DIR_REEL_SEED (R69). -/
  | seedWrite (reel : Nat) (v : W64)
  /-- LAUNCH_START: The Director takes the fetched launch record at the head of a submission queue; `picks` chooses among free hardware threads (R140, R141). -/
  | launchStart (reel q : Nat) (rec : List W64) (picks : List Nat)
  /-- COMPLETION_RECORD_WRITE: The oldest waiting completion record of the reel is written (R432). -/
  | completionRecordWrite (reel : Nat)
  /-- COMPLETION_WAIT_TIMEOUT: A completion of the reel has waited 1 ms (R432). -/
  | completionWaitTimeout (reel : Nat)
  /-- SQ_TAIL_DOORBELL: A submission tail doorbell (R430). -/
  | sqTailDoorbell (reel q : Nat) (v : W64)
  /-- CQ_HEAD_DOORBELL: A completion head doorbell (R430). -/
  | cqHeadDoorbell (reel : Nat) (v : W64)
  /-- EQ_HEAD_DOORBELL: An event-queue head doorbell (R430). -/
  | eqHeadDoorbell (v : W64)
  /-- DMA_TAIL_DOORBELL: A DMA tail doorbell (R437). -/
  | dmaTailDoorbell (k : Nat) (v : W64)
  /-- RING_ENABLE: A write of word 0 of a ring register (R429). -/
  | ringEnable (ring : RingId) (v : W64)
  /-- DMA_DESCRIPTOR_START: A DMA engine begins its next descriptor, as fetched (R437). -/
  | dmaDescriptorStart (k : Nat) (d : List W64)
  /-- DMA_DESCRIPTOR_DONE: The host side of the descriptor ends; `data` are the bytes read from the host (R437). -/
  | dmaDescriptorDone (k : Nat) (e : HostEnd) (data : List Byte)
  /-- MSIX_DELAY_EXPIRE: DELAY has passed since the ring's oldest unsignalled record (R436). -/
  | msixDelayExpire (ring : RingId)
  /-- SPLIT_MODE_WRITE: A write of SPL_FN_f (R37). -/
  | splitModeWrite (fn : Nat) (v : W64)
  /-- XLATE_FLUSH_COMPLETE: The full translation flush completes (R38). -/
  | xlateFlushComplete
  /-- TABLE_WALK_COMPLETE: The hardware walk for the page of the address ends (R223). -/
  | tableWalkComplete (va : Nat)
  /-- AMISS_TIMEOUT: AMISS_TMO has passed for the waiting page (R228). -/
  | amissTimeout (va : Nat)
  /-- INV_ALL: MEM_XOP_CTL GO with OP INV_ALL (R226). -/
  | invAll
  /-- INV_RANGE: MEM_XOP_CTL GO with OP INV_RANGE over MEM_XOP_ADDR and MEM_XOP_ARG (R227). -/
  | invRange
  /-- LOAD: MEM_XOP_CTL GO with OP LOAD (R228). -/
  | load (size : BitVec 2)
  /-- NACK: MEM_XOP_CTL GO with OP NACK (R228). -/
  | nack
  /-- XOP_INVALIDATE_COMPLETE: The invalidation in progress completes (R226). -/
  | xopInvalidateComplete
  /-- PIN: MEM_COP_CTL GO with OP PIN (R217). -/
  | pin (nlines : BitVec 16) (evt : Bool)
  /-- PINF: MEM_COP_CTL GO with OP PINF (R217). -/
  | pinf (nlines : BitVec 16) (evt : Bool)
  /-- UNPIN: MEM_COP_CTL GO with OP UNPIN (R218). -/
  | unpin (nlines : BitVec 16) (evt : Bool)
  /-- INVAL: MEM_COP_CTL GO with OP INVAL (R218). -/
  | inval (nlines : BitVec 16) (evt : Bool)
  /-- FLUSH: MEM_COP_CTL GO with OP FLUSH (R214). -/
  | flush (nlines : BitVec 16) (evt : Bool)
  /-- COP_COMPLETE: The MEM_COP operation in progress completes (R218). -/
  | copComplete
  /-- CACHE_FILL_RETURN: Sectors of a line's fill arrive; `data` is the 4 KiB of a peer or host line (R213). -/
  | cacheFillReturn (line : Nat) (sectors : BitVec 16) (data : List Byte)
  /-- CACHE_REDUCTION: A bank engine performs a read-modify-write holding a cache line, or releases the line (R219). -/
  | cacheReduction (line : Nat) (what : Reduction)
  /-- EVICTION_STALL_END: The stalled eviction for a missing line takes the way released first (R220). -/
  | evictionStallEnd (line : Nat)
  /-- QCFG_WRITE: A write of MEM_QCFG (R210). -/
  | qcfgWrite (v : W64)
  /-- QCFG_SWITCH: The quiet device switches to the pending partition (R210). -/
  | qcfgSwitch
  /-- BANK_REFRESH: A bank refreshes its rows (R203). -/
  | bankRefresh (layer col bank : Nat)
  /-- PATROL_SCRUB: A bank engine's patrol has read words of its column (R267). -/
  | patrolScrub (layer col : Nat) (ecc : List Ecc)
  /-- SOFT: MEM_RPR_CTL GO with OP SOFT (R404). -/
  | soft
  /-- FUSE: MEM_RPR_CTL GO with OP FUSE (R405). -/
  | fuse
  /-- RETIRE: MEM_RPR_CTL GO with OP RETIRE (R408). -/
  | retire
  /-- ROW_REPAIR_SWITCH: Every word of the row has been copied and the row switches to its spare (R404). -/
  | rowRepairSwitch (addr : Nat)
  /-- PC_RETIRE_LINE_MOVE: One line of the retiring pseudo-channel moves; `badLine` when it could not be read (R408). -/
  | pcRetireLineMove (badLine : Bool)
  /-- HBM_RSV_WRITE: A write of MEM_HBM_RSV.ROWS (R409). -/
  | hbmRsvWrite (v : W64)
  /-- HLOG_PERSIST: Staged health-log records persist to MRAM (R396). -/
  | hlogPersist
  /-- TSPARE_GO: A write of CON_TSPARE_CTL with GO (R398). -/
  | tspareGo (v : W64)
  /-- TILE_SWAP_START: Continuity begins the requested swap; `testPass` is the spare's built-in test (R399). -/
  | tileSwapStart (testPass : Bool)
  /-- TILE_SWAP_SWITCH: The tile is idle: its store and tables are copied and the spare takes its index (R399). -/
  | tileSwapSwitch
  /-- LANE_FAILURE: A physical lane fails, with its uncorrectable codewords in the last 1 ms (R402). -/
  | laneFailure (port lane cws : Nat)
  /-- PORT_RETRAIN_COMPLETE: A retrain completes (R291). -/
  | portRetrainComplete (port : Nat)
  /-- DIRECTOR_WATCHDOG_EXPIRY: An active Director core misses 10 us of watchdog signals (R410). -/
  | directorWatchdogExpiry (core : Nat)
  /-- DIRECTOR_TAKEOVER_COMPLETE: A standby core has taken the failed core's role (R410). -/
  | directorTakeoverComplete
  /-- FW_SWITCH_GO: A write of CON_FW_CTL with GO (R411). -/
  | fwSwitchGo (v : W64)
  /-- FW_SWITCH_POINT: A switch point is reached (R411). -/
  | fwSwitchPoint
  /-- FW_SWITCH_TIMEOUT: LIMIT passes without a switch point (R412). -/
  | fwSwitchTimeout
  /-- FW_SELF_CHECK_COMPLETE: The new images' self-checks finish; `failed` is the processor code of a failing one (R412). -/
  | fwSelfCheckComplete (failed : Option Nat)
  /-- GAFFER_PERIOD: One Gaffer period (R339). -/
  | gafferPeriod (o : GafferIn)
  /-- ORDERLY_STOP_FINAL: Step 4 of the orderly stop, at the end of the budget or early by prediction (R362, R363). -/
  | orderlyStopFinal (predicted : Bool)
  /-- THROTTLE_STEP: 1 ms has passed at or above 105 degrees C (R360). -/
  | throttleStep
  /-- K_CORRECTION: The 100 us power correction: VARR current in mA and voltage in mV as read over AVSBus (R341). -/
  | kCorrection (varrMa varrMv : Nat)
  /-- VARR_REQUEST_COMPLETE: The regulator reports a VARR transition complete (R337). -/
  | varrRequestComplete
  /-- AVS_RETRY: Gaffer retries the AVSBus (R338). -/
  | avsRetry (ack : Bool)
  /-- GAF_MISMATCH: The comparator finds a mismatch of the two retired results (R29). -/
  | gafMismatch (r0 r1 : W32)
  /-- SENSOR_SUSPECT: Sensor i has differed by over 6 degrees for 1 ms (R357). -/
  | sensorSuspect (sensor : Nat)
  /-- SENSOR_TRUSTED: Suspect sensor i has agreed within 3 degrees for 1 s (R357). -/
  | sensorTrusted (sensor : Nat)
  /-- HOST_CAP_WRITE: A write of GAF_CAP (R344). -/
  | hostCapWrite (v : W64)
  /-- PWR_LIMIT_ASSERT: PWR_LIMIT_N is recognised asserted (R522). -/
  | pwrLimitAssert
  /-- PWR_LIMIT_RELEASE: PWR_LIMIT_N is recognised released (R522). -/
  | pwrLimitRelease
  /-- EN_REQ: A write of GAF_DOM_CTL_n with EN_REQ (bit 0) set (R350). -/
  | enReq (n : Nat) (v : W64)
  /-- DIS_REQ: A write of GAF_DOM_CTL_n with DIS_REQ (bit 1) set (R350). -/
  | disReq (n : Nat) (v : W64)
  /-- DOMAIN_START_COMPLETE: A domain finishes starting (R350). -/
  | domainStartComplete (n : Nat)
  /-- DOMAIN_STOP_COMPLETE: A domain finishes stopping (R350). -/
  | domainStopComplete (n : Nat)
  /-- FOLEY_ENTER: The tile's array has issued no beat for 512 beats (R351). -/
  | foleyEnter (tile : Nat)
  /-- TCOEF_VALID: A write of GAF_TCOEF_CTL.VALID (R356). -/
  | tcoefValid (v : Bool)
  /-- LEGACY_TRIP: A physical sensor's raw reading in 0.25 degrees C (R365). -/
  | legacyTrip (sensor : Nat) (raw : Int)
  /-- TRIP_N_ASSERTED: The device sees TRIP_N low (R365). -/
  | tripNAsserted
  /-- TRIP_RELEASE: Every raw sensor has read below 80 degrees C for 10 s (R366). -/
  | tripRelease
  /-- TRIP_RESTART: TRIP_N is high on the net (R366). -/
  | tripRestart
  /-- WINDOW_WRITE_START: The oldest permanent write that waits for the writing window begins (R367). -/
  | windowWriteStart
  /-- IDLE_FLIT: A valid IDLE flit is received: its header, and its counts: the sender's at transmission, the last that the sender received from here, and its count then (R290, R370). -/
  | idleFlit (port : Nat) (f : Flit) (sent echo back : W64)
  /-- ALIGNED_SET: The offset has held within 0.5 ns for 1 ms (R371). -/
  | alignedSet
  /-- HEARTBEAT: The port sends an IDLE flit (R303, R370). -/
  | heartbeat (port : Nat)
  /-- FLOOR_WRITE: A write of DIR_FLOOR (R379). -/
  | floorWrite (v : W64)
  /-- RATE: A RATE message (R392). -/
  | rate (port : Nat) (m : Msg)
  /-- PORT_UP: A port completes training; `halfRtt` is half its link round trip in ns (R295, R320). -/
  | portUp (port halfRtt : Nat)
  /-- PORT_LOST: 8 us without a valid frame (R303). -/
  | portLost (port : Nat)
  /-- DATA_FLIT: A flit is received, valid or not, as the lanes and codewords bring it (R289, R291). -/
  | dataFlit (port : Nat) (rx : RxFlit)
  /-- HELLO: A HELLO is received (R295). -/
  | hello (port dev farPort bpos pair : Nat) (build : Build) (legacy : Bool) (tag : W64)
  /-- HELLO_REPEAT: 100 us have passed and the port repeats HELLO (R295). -/
  | helloRepeat (port : Nat)
  /-- CLAIM: A CLAIM is received (R297). -/
  | claim (port id hops : Nat) (tag : W64)
  /-- ID_CFG_WRITE: A write of GRP_ID_CFG with VALID (R296). -/
  | idCfgWrite (v : W64)
  /-- CLAIMED: 100 us after VALID with no conflict (R296). -/
  | claimed
  /-- ROUTE: A ROUTE message (R301). -/
  | route (port dst hops : Nat) (dn : Bool)
  /-- WITHDRAW: A WITHDRAW message (R301). -/
  | withdraw (port dst : Nat)
  /-- LOST: A LOST message, or the recompute, declares a device lost (R304). -/
  | lost (dev : Nat)
  /-- RD: A remote read request (R307). -/
  | rd (port : Nat) (m : Msg)
  /-- WR: A remote write request (R309). -/
  | wr (port : Nat) (m : Msg)
  /-- SEM: A remote SEM request (R158). -/
  | sem (port : Nat) (m : Msg)
  /-- WATCH: A remote watch registration (R309). -/
  | watch (port : Nat) (m : Msg)
  /-- ZERO: A remote SCRUB zeroing request (R166). -/
  | zero (port : Nat) (m : Msg)
  /-- RDATA: Read data arrives (R306). -/
  | rdata (port : Nat) (m : Msg)
  /-- ACK: A completion with status arrives (R309). -/
  | ack (port : Nat) (m : Msg)
  /-- NOTIFY: A watch report arrives (R309). -/
  | notify (port : Nat) (m : Msg)
  /-- REMOTE_REQUEST_TIMEOUT: A remote request passes REQ_TMO (R306). -/
  | remoteRequestTimeout (tag : Nat)
  /-- CDATA: Collective data arrives (R314). -/
  | cdata (port : Nat) (m : Msg)
  /-- PDATA: A PERM slice, or map entries of its opening, arrive (R317, R318). -/
  | pdata (port : Nat) (m : Msg)
  /-- COPEN: A collective opening arrives (R312). -/
  | copen (port : Nat) (m : Msg)
  /-- COLL_TIMEOUT: COLL_TMO passes without every opening (R312). -/
  | collTimeout (op : Nat)
  /-- CLAP_MSG: A CLAP message (R498). -/
  | clapMsg (port : Nat) (tick : W64)
  /-- FREEZE: The Slate count reaches the earliest pending freeze tick (R499). -/
  | freeze
  /-- FREEZE_REQUEST: A host write of DBG_FRZ_REQ (R498). -/
  | freezeRequest (tick : W64)
  /-- MIRROR_EN_WRITE: A write of CON_MIR_CTL_n (R324, R329). -/
  | mirrorEnWrite (reel : Nat) (v : W64)
  /-- PMIR_ARM_WRITE: A write of word 0 of CON_PMIR_k (R329). -/
  | pmirArmWrite (k : Nat) (v : W64)
  /-- TAKE: A write of CON_PMIR_k.TAKE (R327). -/
  | take (k : Nat)
  /-- PARTNER_TAKEOVER: The partner settles an unresolved frame with the query's answer, or, when `late`, without one, and enters HELD (R327). -/
  | partnerTakeover (k : Nat) (late : Bool)
  /-- MCTL_OPEN: A partner receives a mirror open with the image size (R324). -/
  | mctlOpen (primary reel tgrp size : Nat) (legacy : Bool) (pair : Nat)
  /-- MCTL_REFUSED: The primary receives PAIR_REFUSED (R324). -/
  | mctlRefused (reel : Nat)
  /-- MREC: A partner stores a mirror record (R325). -/
  | mrec (primary reel kind tag addr : Nat) (data : List Byte)
  /-- MCTL_SEAL: A partner receives a frame seal (R326). -/
  | mctlSeal (primary reel tag count wait : Nat)
  /-- MCTL_SACK: The primary receives SACK (R326). -/
  | mctlSack (reel tag : Nat)
  /-- MCTL_COMMIT: A partner receives COMMIT (R326). -/
  | mctlCommit (primary reel tag total : Nat)
  /-- MCTL_DROP: A partner receives DROP (R326). -/
  | mctlDrop (primary reel tag : Nat)
  /-- MCTL_CACK: The primary receives CACK (R326). -/
  | mctlCack (reel tag : Nat)
  /-- MCTL_CLOSE: A partner receives its primary's CLOSE, or a primary its partner's (R329). -/
  | mctlClose (who : Closer) (reel : Nat)
  /-- MCTL_STOPPING: A partner learns that its primary is in an orderly stop (R362). -/
  | mctlStopping (primary : Nat)
  /-- MIRROR_CLEAR_COMPLETE: The image and frame area of a slot are zeroed (R329). -/
  | mirrorClearComplete (k : Nat)
  /-- EXPORT_GO: A write of CON_EXP_CTL.GO (R331). -/
  | exportGo
  /-- EXPORT_START: The next commit of the export's group has completed (R331). -/
  | exportStart
  /-- EXPORT_COMPLETE: The export's data and digest are written, or the host failed (R331). -/
  | exportComplete (e : HostEnd)
  /-- PCIE_LINK_UP: The link settles at a rate and width (R416). -/
  | pcieLinkUp (rate width : Nat) (flit : Bool)
  /-- PCIE_HOT_RESET: A hot or link-down reset (R419). -/
  | pcieHotReset
  /-- CONFIG_REQUEST: A configuration read, or a write of four bytes (R420). -/
  | configRequest (off : Nat) (wr : Option W32)
  /-- BAR2_READ: A BAR2 read (R425). -/
  | bar2Read (off len : Nat)
  /-- BAR2_WRITE: A BAR2 write; `ep` when it carries EP or fails ECRC (R425, R426). -/
  | bar2Write (off : Nat) (data : List Byte) (ep : Bool)
  /-- REGISTER_WRITE: A BAR0 write of 4 or 8 bytes to a register that has no row of its own (R12). -/
  | registerWrite (off size : Nat) (v : W64)
  /-- HOST_COMPLETION: A host completion returns for a host-window request (R427). -/
  | hostCompletion (tag : Nat) (e : HostEnd) (data : List Byte)
  /-- HOST_COMPLETION_TIMEOUT: The Completion Timeout expires (R427). -/
  | hostCompletionTimeout (tag : Nat)
  /-- D3HOT: A write of D3hot (R465). -/
  | d3hot
  /-- D0: A write of D0 (R464). -/
  | d0
  /-- RETENTION_ENTER: No cue is admitted after D3hot: the device enters Retention (R465). -/
  | retentionEnter
  /-- OFF_ENTER: A pending power-off request is performed (R464). -/
  | offEnter
  /-- LC_PROVISION: SPR_LC GO with OP PROVISION; `secret` is the SP's random draw (R442). -/
  | lcProvision (secret : BitVec 256)
  /-- LC_CERTIFY: SPR_LC GO with OP CERTIFY (R447). -/
  | lcCertify
  /-- LC_CLAIM: SPR_LC GO with OP CLAIM (R442). -/
  | lcClaim
  /-- LC_TRANSFER: SPR_LC GO with OP TRANSFER (R442). -/
  | lcTransfer
  /-- LC_RETURN: SPR_LC GO with OP RETURN (R442). -/
  | lcReturn
  /-- LC_VOID: SPR_LC GO with OP VOID (R442). -/
  | lcVoid
  /-- SVN_COMMIT: SPR_SVN.COMMIT (R450). -/
  | svnCommit
  /-- IMG_GO: SPR_IMG_CTL.GO (R451). -/
  | imgGo
  /-- IMAGE_VERIFY_COMPLETE: The SP finishes verifying the copied image (R449). -/
  | imageVerifyComplete
  /-- CHAL: DBG_SESS.CHAL; `nonce` is the SP's random draw (R459). -/
  | chal (nonce : BitVec 256)
  /-- OPEN: DBG_SESS.OPEN at REQ (R459). -/
  | dbgOpen (req : BitVec 3)
  /-- DEBUG_OPEN_CHECK: The SP checks the pending opening (R460). -/
  | debugOpenCheck
  /-- CLOSE: DBG_SESS.CLOSE (R462). -/
  | dbgClose
  /-- DEBUG_SESSION_EXPIRE: EXPIRY passes (R462). -/
  | debugSessionExpire
  /-- HALT: DBG_THR_CTL with HALT for the thread it selects (R463). -/
  | dbgHalt (tile th : Nat)
  /-- STEP: DBG_THR_CTL with STEP (R463). -/
  | dbgStep (tile th : Nat)
  /-- RESUME: DBG_THR_CTL with RESUME (R463). -/
  | dbgResume (tile th : Nat)
  /-- THREAD_WINDOW_WRITE: A host write of 8 bytes to the thread window (R463). -/
  | threadWindowWrite (off : Nat) (v : W64)
  /-- DOE_DISCOVERY: A DOE Discovery request (R419). -/
  | doeDiscovery (index : Nat)
  /-- GET_VERSION: SPDM GET_VERSION (R452). -/
  | getVersion (q : SpdmReq)
  /-- GET_CAPABILITIES: SPDM GET_CAPABILITIES (R452). -/
  | getCapabilities (q : SpdmReq)
  /-- NEGOTIATE_ALGORITHMS: SPDM NEGOTIATE_ALGORITHMS (R452). -/
  | negotiateAlgorithms (q : SpdmReq)
  /-- GET_DIGESTS: SPDM GET_DIGESTS (R452). -/
  | getDigests (q : SpdmReq)
  /-- GET_CERTIFICATE: SPDM GET_CERTIFICATE (R447). -/
  | getCertificate (q : SpdmReq) (off len : Nat)
  /-- CHALLENGE: SPDM CHALLENGE (R452). -/
  | challenge (q : SpdmReq)
  /-- GET_MEASUREMENTS: SPDM GET_MEASUREMENTS; index 0xFF asks for all (R455). -/
  | getMeasurements (q : SpdmReq) (index : Nat)
  /-- KEY_EXCHANGE: SPDM KEY_EXCHANGE (R454). -/
  | keyExchange (q : SpdmReq)
  /-- FINISH: SPDM FINISH (R452). -/
  | finish (q : SpdmReq)
  /-- END_SESSION: SPDM END_SESSION (R452). -/
  | endSession (q : SpdmReq)
  /-- KEY_PROG: IDE_KM KEY_PROG (R457). -/
  | keyProg (session stream keyset sub : Nat) (key : BitVec 256)
  /-- K_SET_GO: IDE_KM K_SET_GO (R457). -/
  | kSetGo (session stream keyset : Nat)
  /-- K_SET_STOP: IDE_KM K_SET_STOP (R457). -/
  | kSetStop (session stream keyset : Nat)
  /-- ALWAYS_ON_START: VAO and V1P8 are in range: the island starts and samples the straps and TRIP_N (R469, R523). -/
  | alwaysOnStart (bpos pair : Nat) (legacy trip : Bool)
  /-- RAIL_OUT_OF_RANGE: A rail has been outside its tolerance for 2 us (R517). -/
  | railOutOfRange (rail : Nat)
  /-- REFCLK_LOSS: REFCLK is absent for 1 us (R518). -/
  | refclkLoss
  /-- REFCLK_RETURN: REFCLK returns (R518). -/
  | refclkReturn
  /-- STAGE_END: The running start stage ends with a status (R472). -/
  | stageEnd (status : Status) (found : StageFound)
  /-- STAGE_TIMEOUT: The running start stage exceeds its bound (R472). -/
  | stageTimeout
  /-- TAKE_RETRY: 100 ms after a failed stage a cold take starts (R473). -/
  | takeRetry
  /-- PERST_ASSERT: PERST# is asserted (R479). -/
  | perstAssert
  /-- PERST_DEASSERT: PERST# is deasserted (R470). -/
  | perstDeassert
  /-- JNL_TAKE: SPR_JNL.TAKE (R478). -/
  | jnlTake
  /-- CLRSEL: SPR_JNL.CLRSEL (R474). -/
  | clrsel
  /-- JOURNAL_PLAN_WRITE: A write of 8 bytes through the journal window (R476). -/
  | journalPlanWrite (off : Nat) (v : W64)
  /-- RESET_COLD: GAF_RST_CTL GO with KIND 5 (R479). -/
  | resetCold
  /-- RESET_WARM: GAF_RST_CTL GO with KIND 4 (R480). -/
  | resetWarm
  /-- RESET_DOMAIN: GAF_RST_CTL GO with KIND 0 (R479). -/
  | resetDomain (n : Nat)
  /-- RESET_TILE: GAF_RST_CTL GO with KIND 1 (R481). -/
  | resetTile (tile : Nat)
  /-- RESET_REEL: GAF_RST_CTL GO with KIND 2 (R482). -/
  | resetReel (reel : Nat)
  /-- RESET_IO: GAF_RST_CTL GO with KIND 3 (R484). -/
  | resetIo
  /-- IO_RESET_RELEASE: 1 us after assertion the I/O reset releases (R484). -/
  | ioResetRelease
  /-- INTERFACE_RETRAINED: An interface is back: 0 to 11 ports, 12 HBM, 13 PCIe (R485). -/
  | interfaceRetrained (iface : Nat)
  /-- IO_RESET_LIMIT: 1 s after the release (R485). -/
  | ioResetLimit
  /-- CLR: DBG_OBS_CTL.CLR (R493). -/
  | clr
  /-- OBS_ENABLE_WRITE: A write of DBG_OBS_CTL (R492). -/
  | obsEnableWrite (v : W64)
  /-- DAILIES_SAMPLE: A Dailies sample is due (R502). -/
  | dailiesSample
  /-- TRACE_DRAIN: The trace fabric drains one record of a FIFO; `e` is how a write to a host ring ended (R503). -/
  | traceDrain (src : Nat) (e : HostEnd)
  /-- SET_BOARD_CAP: MCTP SET_BOARD_CAP (R343). -/
  | setBoardCap (watts : BitVec 16)
  /-- SET_PHASE_CAPS: MCTP SET_PHASE_CAPS (R343). -/
  | setPhaseCaps (caps : List (BitVec 16))
  /-- RAIL_POWER: MCTP RAIL_POWER (R341). -/
  | railPower (mw : W32)
  /-- INLET_TEMP: MCTP INLET_TEMP (R355). -/
  | inletTemp (code : BitVec 16)
  /-- INLET_TEMP_TIMEOUT: No INLET_TEMP for 10 s (R525). -/
  | inletTempTimeout
  /-- RESET: MCTP RESET (R525). -/
  | mctpReset (kind : Nat)
  /-- POWER_OFF: MCTP POWER_OFF (R464). -/
  | powerOff
  /-- READ: MCTP READ (R525). -/
  | mctpRead (off len : Nat)
  /-- MCTP_UNKNOWN_COMMAND: An unlisted MCTP command code (R525). -/
  | mctpUnknownCommand (code : Byte)
  /-- BYPASS: JTAG BYPASS (R526). -/
  | jtagBypass
  /-- IDCODE: JTAG IDCODE (R526). -/
  | jtagIdcode
  /-- SAMPLE_PRELOAD: JTAG SAMPLE/PRELOAD, shifting in the preload value (R526). -/
  | jtagSamplePreload (v : W32)
  /-- EXTEST: JTAG EXTEST (R526). -/
  | jtagExtest
  /-- CLAMP: JTAG CLAMP (R526). -/
  | jtagClamp
  /-- HIGHZ: JTAG HIGHZ (R526). -/
  | jtagHighz
  /-- AVS_NO_ACKNOWLEDGE: An AVSBus transaction ends without acknowledgement (R338). -/
  | avsNoAcknowledge
  /-- RAILS_IN_RANGE: Every rail is in range (R469). -/
  | railsInRange
  /-- TRIP_N_HIGH_10S: TRIP_N has been high for 10 s (R522). -/
  | tripNHigh10s
  /-- TRANSLATION_DISPLACEMENT: The device displaces an entry of a tile's cache, or of the base die's (R226). -/
  | translationDisplacement (cache : Option Nat) (va : Nat)
  /-- MCTL_ACCEPT: The primary learns that its partner accepted (R324). -/
  | mctlAccept (reel : Nat)
  /-- SETDASA: The I3C controller assigns a dynamic address through a static one (R525). -/
  | setdasa (static dyn : BitVec 7)
  deriving DecidableEq, Repr

end Sys2Proof
end

