-- ==== Sys2Proof/Decode.lean ====
section
/-! DEFINITION. The decoding of an Idmon word (Tables 6.1 to 6.4), which a STEP of a debug session needs, and the reading
of an opcode-table word: the table gives no row any bits, so a word spells no command. -/
namespace Sys2Proof

/-- The bits [hi:lo] of an instruction word (R168). -/
def wordField (w : W64) (hi lo n : Nat) : BitVec n := BitVec.ofNat n ((w.toNat >>> lo) % 2 ^ (hi + 1 - lo))
def wordBit (w : W64) (k : Nat) : Bool := (w.toNat >>> k) % 2 == 1

/-- X = 1: an extension word follows (R168). -/
def wordHasExt (w : W64) : Bool := wordBit w 8

/-- Fields of format S (Table 6.1). -/
def formS (w : W64) (x : Option W64) : SForm :=
  { rd := wordField w 20 16 5, ra := wordField w 25 21 5, rb := wordField w 30 26 5, rc := wordField w 35 31 5,
    sub := wordField w 39 37 3, i := wordBit w 36, imm := wordField w 63 48 16, x := x }

/-- Fields of format V (Table 6.2). -/
def formV (w : W64) (x : Option W64) : VForm :=
  { vd := wordField w 19 16 4, va := wordField w 23 20 4, vb := wordField w 27 24 4, vc := wordField w 31 28 4,
    mm := wordField w 34 32 3, z := wordBit w 35, ef := wordField w 37 36 2, i := wordBit w 38, h := wordBit w 39,
    mb := wordField w 42 40 3, sr := wordField w 47 43 5, imm := wordField w 63 48 16, x := x }

/-- Fields of format D (Table 6.3). -/
def formD (w : W64) (x : Option W64) : DForm :=
  { rd := wordField w 20 16 5, ra := wordField w 25 21 5, d1 := wordField w 28 26 3, i10 := wordField w 33 29 5,
    i11 := wordField w 38 34 5, d2 := wordField w 41 39 3, i20 := wordField w 46 42 5, i21 := wordField w 51 47 5,
    shape := wordField w 54 52 3, x := x }

/-- Functions of opcode 0x00 (Table 6.4). -/
def decode00 (who : Who) (fn : Nat) (f : SForm) : Option Instr :=
  match fn with
  | 0 => some (.nop who f)
  | 1 => some (.endT who f)
  | 2 => some (.ecall who f)
  | 3 => some (.eret who f)
  | 4 => some (.wfi who f)
  | 5 => some (.fence who f)
  | _ => none

/-- Functions of opcode 0x01 (Table 6.4). -/
def decode01 (who : Who) (fn : Nat) (f : SForm) : Option Instr :=
  match fn with
  | 0 => some (.add who f)
  | 1 => some (.sub who f)
  | 2 => some (.and who f)
  | 3 => some (.or who f)
  | 4 => some (.xor who f)
  | 5 => some (.sll who f)
  | 6 => some (.srl who f)
  | 7 => some (.sra who f)
  | 8 => some (.slt who f)
  | 9 => some (.sltu who f)
  | 10 => some (.min who f)
  | 11 => some (.max who f)
  | 12 => some (.mul who f)
  | 13 => some (.mulhu who f)
  | _ => none

/-- Functions of opcode 0x02 (Table 6.4). -/
def decode02 (who : Who) (fn : Nat) (f : SForm) : Option Instr :=
  match fn with
  | 0 => some (.beq who f)
  | 1 => some (.bne who f)
  | 2 => some (.blt who f)
  | 3 => some (.bge who f)
  | 4 => some (.bltu who f)
  | 5 => some (.bgeu who f)
  | 8 => some (.j who f)
  | 9 => some (.jr who f)
  | _ => none

/-- Functions of opcode 0x03 (Table 6.4). -/
def decode03 (who : Who) (fn : Nat) (f : SForm) : Option Instr :=
  match fn with
  | 0 => some (.csrr who f)
  | 1 => some (.csrw who f)
  | _ => none

/-- Functions of opcode 0x04 (Table 6.4). -/
def decode04 (who : Who) (fn : Nat) (f : SForm) : Option Instr :=
  match fn with
  | 0 => some (.ldxB who f)
  | 1 => some (.ldxH who f)
  | 2 => some (.ldxW who f)
  | 3 => some (.ldxL who f)
  | 4 => some (.ldxD who f)
  | _ => none

/-- Functions of opcode 0x05 (Table 6.4). -/
def decode05 (who : Who) (fn : Nat) (f : SForm) : Option Instr :=
  match fn with
  | 0 => some (.stxB who f)
  | 1 => some (.stxH who f)
  | 2 => some (.stxW who f)
  | 3 => some (.stxL who f)
  | 4 => some (.stxD who f)
  | _ => none

/-- Functions of opcode 0x06 (Table 6.4). -/
def decode06 (who : Who) (fn : Nat) (f : SForm) : Option Instr :=
  match fn with
  | 0 => some (.semAdd who f)
  | 1 => some (.semSwap who f)
  | 2 => some (.semCas who f)
  | 3 => some (.semRead who f)
  | _ => none

/-- Functions of opcode 0x07 (Table 6.4). -/
def decode07 (who : Who) (fn : Nat) (f : SForm) : Option Instr :=
  match fn with
  | 0 => some (.waitTok who f)
  | 1 => some (.waitTokall who f)
  | 2 => some (.waitMem who f)
  | 3 => some (.waitTime who f)
  | _ => none

/-- Functions of opcode 0x08 (Table 6.4). -/
def decode08 (who : Who) (fn : Nat) (f : SForm) : Option Instr :=
  match fn with
  | 0 => some (.bar who f)
  | _ => none

/-- Functions of opcode 0x09 (Table 6.4). -/
def decode09 (who : Who) (fn : Nat) (f : SForm) : Option Instr :=
  match fn with
  | 0 => some (.dset who f)
  | _ => none

/-- Functions of opcode 0x10 (Table 6.4). -/
def decode10 (who : Who) (fn : Nat) (f : SForm) : Option Instr :=
  match fn with
  | 0 => some (.cue who f)
  | 1 => some (.endcue who f)
  | 2 => some (.phase who f)
  | 3 => some (.clap who f)
  | _ => none

/-- Functions of opcode 0x11 (Table 6.4). -/
def decode11 (who : Who) (fn : Nat) (f : SForm) : Option Instr :=
  match fn with
  | 0 => some (.upd who f)
  | 1 => some (.rdw who f)
  | 2 => some (.coll who f)
  | 3 => some (.perm who f)
  | 4 => some (.scrub who f)
  | 5 => some (.toll who f)
  | _ => none

/-- Functions of opcode 0x20 (Table 6.4). -/
def decode20 (who : Who) (fn : Nat) (f : DForm) : Option Instr :=
  match fn with
  | 0 => some (.mmaOpen who f)
  | 1 => some (.mmaCont who f)
  | _ => none

/-- Functions of opcode 0x21 (Table 6.4). -/
def decode21 (who : Who) (fn : Nat) (f : DForm) : Option Instr :=
  match fn with
  | 0 => some (.rsc who f)
  | _ => none

/-- Functions of opcode 0x22 (Table 6.4). -/
def decode22 (who : Who) (fn : Nat) (f : DForm) : Option Instr :=
  match fn with
  | 0 => some (.cpyl who f)
  | _ => none

/-- Functions of opcode 0x23 (Table 6.4). -/
def decode23 (who : Who) (fn : Nat) (f : DForm) : Option Instr :=
  match fn with
  | 0 => some (.ldxS who f)
  | _ => none

/-- Functions of opcode 0x24 (Table 6.4). -/
def decode24 (who : Who) (fn : Nat) (f : DForm) : Option Instr :=
  match fn with
  | 0 => some (.stxS who f)
  | _ => none

/-- Functions of opcode 0x30 (Table 6.4). -/
def decode30 (who : Who) (fn : Nat) (f : VForm) : Option Instr :=
  match fn with
  | 0 => some (.ldxV who f)
  | 1 => some (.ldxVI who f)
  | _ => none

/-- Functions of opcode 0x31 (Table 6.4). -/
def decode31 (who : Who) (fn : Nat) (f : VForm) : Option Instr :=
  match fn with
  | 0 => some (.stxV who f)
  | 1 => some (.stxVI who f)
  | _ => none

/-- Functions of opcode 0x40 (Table 6.4). -/
def decode40 (who : Who) (fn : Nat) (f : VForm) : Option Instr :=
  match fn with
  | 0 => some (.vadd who f)
  | 1 => some (.vsub who f)
  | 2 => some (.vmul who f)
  | 3 => some (.vmax who f)
  | 4 => some (.vmin who f)
  | 5 => some (.vfma who f)
  | 6 => some (.vabs who f)
  | 7 => some (.vneg who f)
  | 8 => some (.vmov who f)
  | 9 => some (.vsel who f)
  | _ => none

/-- Functions of opcode 0x41 (Table 6.4). -/
def decode41 (who : Who) (fn : Nat) (f : VForm) : Option Instr :=
  match fn with
  | 0 => some (.vcmpEq who f)
  | 1 => some (.vcmpNe who f)
  | 2 => some (.vcmpLt who f)
  | 3 => some (.vcmpLe who f)
  | 4 => some (.vcmpGt who f)
  | 5 => some (.vcmpGe who f)
  | 6 => some (.vcmpUn who f)
  | _ => none

/-- Functions of opcode 0x42 (Table 6.4). -/
def decode42 (who : Who) (fn : Nat) (f : VForm) : Option Instr :=
  match fn with
  | 0 => some (.vand who f)
  | 1 => some (.vor who f)
  | 2 => some (.vxor who f)
  | 3 => some (.vshl who f)
  | 4 => some (.vshr who f)
  | 5 => some (.viadd who f)
  | _ => none

/-- Functions of opcode 0x43 (Table 6.4). -/
def decode43 (who : Who) (fn : Nat) (f : VForm) : Option Instr :=
  match fn with
  | 0 => some (.vmand who f)
  | 1 => some (.vmor who f)
  | 2 => some (.vmxor who f)
  | 3 => some (.vmnot who f)
  | 4 => some (.vmpop who f)
  | _ => none

/-- Functions of opcode 0x44 (Table 6.4). -/
def decode44 (who : Who) (fn : Nat) (f : VForm) : Option Instr :=
  match fn with
  | 0 => some (.vins who f)
  | 1 => some (.vext who f)
  | 2 => some (.vidx who f)
  | _ => none

/-- Functions of opcode 0x45 (Table 6.4). -/
def decode45 (who : Who) (fn : Nat) (f : VForm) : Option Instr :=
  match fn with
  | 0 => some (.vshf who f)
  | _ => none

/-- Functions of opcode 0x46 (Table 6.4). -/
def decode46 (who : Who) (fn : Nat) (f : VForm) : Option Instr :=
  match fn with
  | 0 => some (.vcvt who f)
  | _ => none

/-- Functions of opcode 0x47 (Table 6.4). -/
def decode47 (who : Who) (fn : Nat) (f : VForm) : Option Instr :=
  match fn with
  | 0 => some (.vsfnExp2 who f)
  | 1 => some (.vsfnLog2 who f)
  | 2 => some (.vsfnRsqrt who f)
  | 3 => some (.vsfnRcp who f)
  | 4 => some (.vsfnTanh who f)
  | 5 => some (.vsfnErf who f)
  | _ => none

/-- The instruction that a base word and its extension word spell for who fetched them; none where OPC is reserved or FN
is not listed (R169). -/
def decodeIdmon (who : Who) (w : W64) (x : Option W64) : Option Instr :=
  let fn := (wordField w 15 9 7).toNat
  match (wordField w 7 0 8).toNat with
  | 0x00 => decode00 who fn (formS w x)
  | 0x01 => decode01 who fn (formS w x)
  | 0x02 => decode02 who fn (formS w x)
  | 0x03 => decode03 who fn (formS w x)
  | 0x04 => decode04 who fn (formS w x)
  | 0x05 => decode05 who fn (formS w x)
  | 0x06 => decode06 who fn (formS w x)
  | 0x07 => decode07 who fn (formS w x)
  | 0x08 => decode08 who fn (formS w x)
  | 0x09 => decode09 who fn (formS w x)
  | 0x10 => decode10 who fn (formS w x)
  | 0x11 => decode11 who fn (formS w x)
  | 0x20 => decode20 who fn (formD w x)
  | 0x21 => decode21 who fn (formD w x)
  | 0x22 => decode22 who fn (formD w x)
  | 0x23 => decode23 who fn (formD w x)
  | 0x24 => decode24 who fn (formD w x)
  | 0x30 => decode30 who fn (formV w x)
  | 0x31 => decode31 who fn (formV w x)
  | 0x40 => decode40 who fn (formV w x)
  | 0x41 => decode41 who fn (formV w x)
  | 0x42 => decode42 who fn (formV w x)
  | 0x43 => decode43 who fn (formV w x)
  | 0x44 => decode44 who fn (formV w x)
  | 0x45 => decode45 who fn (formV w x)
  | 0x46 => decode46 who fn (formV w x)
  | 0x47 => decode47 who fn (formV w x)
  | _ => none

/-! ### The words of an instruction, from the same tables -/

/-- The base word of a format-S instruction (R168, Table 6.1); X says that an extension word follows. -/
def packS (opc fn : Nat) (f : SForm) : W64 :=
  BitVec.ofNat 64 (opc + (if f.x.isSome then 1 else 0) * 2 ^ 8 + fn * 2 ^ 9 + f.rd.toNat * 2 ^ 16 + f.ra.toNat * 2 ^ 21 +
    f.rb.toNat * 2 ^ 26 + f.rc.toNat * 2 ^ 31 + (if f.i then 1 else 0) * 2 ^ 36 + f.sub.toNat * 2 ^ 37 + f.imm.toNat * 2 ^ 48)

/-- The base word of a format-V instruction (Table 6.2). -/
def packV (opc fn : Nat) (f : VForm) : W64 :=
  BitVec.ofNat 64 (opc + (if f.x.isSome then 1 else 0) * 2 ^ 8 + fn * 2 ^ 9 + f.vd.toNat * 2 ^ 16 + f.va.toNat * 2 ^ 20 +
    f.vb.toNat * 2 ^ 24 + f.vc.toNat * 2 ^ 28 + f.mm.toNat * 2 ^ 32 + (if f.z then 1 else 0) * 2 ^ 35 + f.ef.toNat * 2 ^ 36 +
    (if f.i then 1 else 0) * 2 ^ 38 + (if f.h then 1 else 0) * 2 ^ 39 + f.mb.toNat * 2 ^ 40 + f.sr.toNat * 2 ^ 43 +
    f.imm.toNat * 2 ^ 48)

/-- The base word of a format-D instruction (Table 6.3). -/
def packD (opc fn : Nat) (f : DForm) : W64 :=
  BitVec.ofNat 64 (opc + (if f.x.isSome then 1 else 0) * 2 ^ 8 + fn * 2 ^ 9 + f.rd.toNat * 2 ^ 16 + f.ra.toNat * 2 ^ 21 +
    f.d1.toNat * 2 ^ 26 + f.i10.toNat * 2 ^ 29 + f.i11.toNat * 2 ^ 34 + f.d2.toNat * 2 ^ 39 + f.i20.toNat * 2 ^ 42 +
    f.i21.toNat * 2 ^ 47 + f.shape.toNat * 2 ^ 52)

/-- No row of the opcode table gives bits: a word spells no command. -/
def decodeTableWord (_nbits _w : Nat) : Option Instr := none

end Sys2Proof
end

