-- ==== Sys2Proof/Machine/Bits.lean ====
section
/-! DEFINITION. Bit fields, byte order and sparse maps: the small operations every other file of the machine uses. -/
namespace Sys2Proof.Machine

/-- The bits [hi:lo] of a word, as a number (R7). -/
def bitsOf {n : Nat} (w : BitVec n) (hi lo : Nat) : Nat := (w.toNat >>> lo) % 2 ^ (hi + 1 - lo)

/-- Bit i of a word. -/
def bitOf {n : Nat} (w : BitVec n) (i : Nat) : Bool := (w.toNat >>> i) % 2 == 1

/-- The bits [hi:lo] of a number. -/
def natBits (w hi lo : Nat) : Nat := (w >>> lo) % 2 ^ (hi + 1 - lo)

/-- A flag as a number. -/
def b2n (b : Bool) : Nat := if b then 1 else 0

/-- `w` with bits [hi:lo] replaced by the low bits of `v`. -/
def setBits {n : Nat} (w : BitVec n) (hi lo v : Nat) : BitVec n :=
  let m := (2 ^ (hi + 1 - lo) - 1) * 2 ^ lo
  BitVec.ofNat n (w.toNat - (w.toNat &&& m) + (v % 2 ^ (hi + 1 - lo)) * 2 ^ lo)

/-- A write-one-to-clear field of a register: a 1 written to a bit clears it (Table 0.5). -/
def clearBits (old w : Nat) : Nat := old - (old &&& w)

/-- Sign extension of a 16-bit immediate to 64 bits (R173). -/
def sext16 (v : BitVec 16) : W64 := v.signExtend 64

/-- Two's complement reading of an n-bit number. -/
def signedOf (n v : Nat) : Int := if v % 2 ^ n < 2 ^ (n - 1) then (v % 2 ^ n : Nat) else ((v % 2 ^ n : Nat) : Int) - 2 ^ n

/-- The n-bit two's-complement pattern of an integer. -/
def patternOf (n : Nat) (v : Int) : Nat := (v % (2 ^ n : Nat)).toNat

/-- Little-endian bytes of a number (R7). -/
def leBytes : Nat → Nat → List Byte
  | 0, _ => []
  | n + 1, v => BitVec.ofNat 8 v :: leBytes n (v / 256)

/-- The number that little-endian bytes spell (R7). -/
def leNat : List Byte → Nat
  | [] => 0
  | b :: bs => b.toNat + 256 * leNat bs

/-- Ceiling of a quotient. -/
def ceilDiv (a b : Nat) : Nat := (a + b - 1) / b

/-- Sum of a list of numbers. -/
def sumN : List Nat → Nat
  | [] => 0
  | x :: xs => x + sumN xs

/-- Largest of a list of numbers, 0 when empty. -/
def maxN : List Nat → Nat
  | [] => 0
  | x :: xs => Nat.max x (maxN xs)

/-- Insert a key and value before the first larger key. -/
def minsert {α : Type} : List (Nat × α) → Nat → α → List (Nat × α)
  | [], k, v => [(k, v)]
  | p :: m, k, v => if k < p.1 then (k, v) :: p :: m else p :: minsert m k v

/-- Remove every entry of a key. -/
def mdel {α : Type} (m : List (Nat × α)) (k : Nat) : List (Nat × α) := m.filter (fun p => p.1 != k)

/-- A sparse map with one key written. -/
def mput {α : Type} (m : List (Nat × α)) (k : Nat) (v : α) : List (Nat × α) := minsert (mdel m k) k v

/-- The entry of a key, when there is one. -/
def mfind {α : Type} : List (Nat × α) → Nat → Option α
  | [], _ => none
  | p :: m, k => if p.1 == k then some p.2 else mfind m k

/-- The value of a key, `d` where none is listed. -/
def mget {α : Type} (d : α) (m : List (Nat × α)) (k : Nat) : α := (mfind m k).getD d

/-- The first element of a list that meets a condition, with the rest of the list. -/
def takeFirst {α : Type} (p : α → Bool) : List α → Option (α × List α)
  | [] => none
  | x :: xs => if p x then some (x, xs) else (takeFirst p xs).map (fun r => (r.1, x :: r.2))

/-- Change every element that meets a condition. -/
def mapIf {α : Type} (p : α → Bool) (f : α → α) (l : List α) : List α := l.map (fun x => if p x then f x else x)

/-- The elements of a list without repeats, first occurrences kept. -/
def nub : List Nat → List Nat
  | [] => []
  | x :: xs => x :: (nub xs).filter (fun y => y != x)

end Sys2Proof.Machine
end

