-- ==== Sys2Proof/Machine/Flit.lean ====
section
/-! DEFINITION. Flits and messages as bits on a port (R289 to R294): the lanes, the CRC, the flit header, and the message header. -/
namespace Sys2Proof.Machine

/-! ### The CRC (R290) -/

/-- One bit of CRC-64/XZ: the ECMA-182 polynomial, reflected. -/
def crcBit (c : Nat) : Nat := if c % 2 == 1 then (c / 2) ^^^ 0xC96C5795D7870F42 else c / 2

def crcByte (c : Nat) (b : Byte) : Nat := (List.range 8).foldl (fun c _ => crcBit c) (c ^^^ b.toNat)

/-- CRC-64/XZ of bytes: initial value all ones, and the result inverted. -/
def crc64 (bs : List Byte) : Nat := bs.foldl crcByte (2 ^ 64 - 1) ^^^ (2 ^ 64 - 1)

/-! ### Messages (R294) -/

def mtRD : Nat := 0x01

/-- Bytes that follow a message's header in its flits. -/
def bodyLen (m : Msg) : Nat := if m.mtype == mtRD then 0 else m.data.length

/-- LEN of a message. -/
def lenField (m : Msg) : Nat := if m.mtype == mtRD then m.len else m.data.length

/-- A message as its slots: the header of Table 10.4, and the data padded to whole slots. -/
def msgBytes (m : Msg) : List Byte :=
  let lo := m.mtype % 2 ^ 8 + m.dst % 2 ^ 12 * 2 ^ 8 + m.src % 2 ^ 12 * 2 ^ 20 + m.hops % 16 * 2 ^ 32 + b2n m.dn * 2 ^ 36 + lenField m % 2 ^ 9 * 2 ^ 37 +
    m.tag % 2 ^ 16 * 2 ^ 46
  leBytes 8 lo ++ leBytes 8 (m.addr % 2 ^ 44 + m.param % 2 ^ 20 * 2 ^ 44) ++ m.data.take (bodyLen m) ++ List.replicate (16 * ceilDiv (bodyLen m) 16 - bodyLen m) 0

/-- The header of a message, without its data. -/
def headOf (bs : List Byte) : Msg :=
  let lo := leNat (bs.take 8)
  let hi := leNat ((bs.drop 8).take 8)
  { mtype := natBits lo 7 0, dst := natBits lo 19 8, src := natBits lo 31 20, hops := natBits lo 35 32, dn := natBits lo 36 36 == 1
    len := natBits lo 45 37, tag := natBits lo 61 46, addr := natBits hi 43 0, param := natBits hi 63 44 }

/-- The messages that whole slots hold, and the bytes of one that goes on in the channel's next flit. A slot whose MTYPE is 0, which no
message has, begins the padding of the flit (DESIGN CHOICE, log 99). -/
def msgsIn : Nat → List Byte → List Msg × List Byte
  | 0, _ => ([], [])
  | k + 1, bs =>
    let h := headOf bs
    if bs.length < 16 || h.mtype == 0 then ([], [])
    else
      let body := if h.mtype == mtRD then 0 else h.len
      let n := 16 + 16 * ceilDiv body 16
      if bs.length < n then ([], bs)
      else
        let m := if h.mtype == mtRD then h else { h with len := 0, data := (bs.drop 16).take body }
        let r := msgsIn k (bs.drop n)
        (m :: r.1, r.2)

/-! ### Flits (R289, R290) -/

/-- The flit header (Table 10.2). -/
def headerBits (f : Flit) : Nat :=
  f.kind % 4 + f.vc % 4 * 2 ^ 2 + f.seq % 2 ^ 12 * 2 ^ 4 + f.ack % 2 ^ 12 * 2 ^ 16 + b2n f.nak * 2 ^ 28 + f.crv % 4 * 2 ^ 29 + f.crn % 2 ^ 8 * 2 ^ 31 +
    f.fmh % 2 ^ 5 * 2 ^ 39

/-- The 256 bytes of a flit: header, payload and CRC. -/
def flitBytes (f : Flit) : List Byte :=
  let l := leBytes 8 (headerBits f) ++ (f.slots ++ List.replicate (240 - f.slots.length) 0).take 240
  l ++ leBytes 8 (crc64 l)

/-- The flit on its port's logical lanes: 32-bit word w on lane w mod 8 (R289). -/
def flitLanes (f : Flit) : List (List W32) :=
  let w := fun (k : Nat) => BitVec.ofNat 32 (leNat (((flitBytes f).drop (4 * k)).take 4))
  (List.range 8).map (fun l => (List.range 8).map (fun j => w (8 * j + l)))

/-- The bytes that the lanes bring. -/
def laneBytes (lanes : List (List W32)) : List Byte :=
  (List.range 64).flatMap (fun w => leBytes 4 ((lanes.getD (w % 8) []).getD (w / 8) 0).toNat)

/-- A codeword with more symbol errors than its code corrects (R289). -/
def uncorrectable (e : Nat) : Bool := e > 15

/-- The flit that the lanes bring; none where it is not valid, because its CRC fails or an uncorrectable codeword touches it. A codeword
comes with its symbol errors, and whether the flit is the first that it touches. -/
def flitOf (lanes : List (List W32)) (cws : List (Nat × Bool)) : Option Flit :=
  let bs := laneBytes lanes
  if cws.any (fun c => uncorrectable c.1) || leNat (bs.drop 248) != crc64 (bs.take 248) then none
  else
    let h := leNat (bs.take 8)
    some { kind := natBits h 1 0, vc := natBits h 3 2, seq := natBits h 15 4, ack := natBits h 27 16, nak := natBits h 28 28 == 1
           crv := natBits h 30 29, crn := natBits h 38 31, fmh := natBits h 43 39, slots := (bs.drop 8).take 240 }

end Sys2Proof.Machine
end

