-- ==== Sys2Proof/Config.lean ====
section
/-! DEFINITION. What the two builds fix (R1, Tables 1.7, 5.18 and 7.11), and the values the manual leaves open: opaque
constants, so that no proof can lean on a value of them. -/
namespace Sys2Proof.Config

/-- A value that the manual leaves open, one per use: the machine applies it to a counter that each use advances. -/
opaque freeNat : Nat → Nat

/-- A byte of memory whose contents became undefined: by the event that made it so, and its address (R210, R409). -/
opaque freeByte : Nat → Nat → BitVec 8

/-- A value that the manual leaves open within one event: by the event's number and an index. -/
opaque freeIn : Nat → Nat → Nat

/-- Spare rows of an HBM pseudo-channel, as its stack provides (Table 13.1). -/
opaque hbmSpares : Nat

/-- SHAKE256 of a byte string, with the digest length in bytes (R441): its algorithm stands outside the manual. -/
opaque shake256 : List Byte → Nat → List Byte

/-- Verification of an SLH-DSA signature over a message by the key whose SHAKE256 digest is given (R441). -/
opaque slhVerify : List Byte → List Byte → List Byte → Bool

/-- The public identity key that the device secret derives (R446). -/
opaque identityKey : BitVec 256 → List Byte

/-- A certificate chain ends in a certificate for an identity public key (R447): X.509 stands outside the manual. -/
opaque chainFor : List Byte → List Byte → Bool

/-- What the SP answers to an SPDM request, as bytes, from the request's kind and content (R452). -/
opaque spdmAnswer : Nat → List Byte → List Byte

/-- Digests of the SP ROM and the Gaffer ROM, fused in BLANK (R471). -/
opaque romDigest : Nat → List Byte

/-- Bits [11:1] of the JTAG identification code: Bernufort's manufacturer identity (R526). -/
opaque manufacturer : Nat

/-- Weight of an activity counter (R340), fused per die: the power of one event in a period, in uW. -/
opaque weight : Nat → Nat

/-- The model node in whose region the events of a counter arise (R355). -/
opaque counterNode : Nat → Nat

/-- Static power of a node's region in uW, fused per die (R340): by the node, VARR in mV and the node's temperature. -/
opaque staticPower : Nat → Nat → Int → Nat

/-- The fused coefficients of the thermal model, in the order of the host's set (R356). -/
opaque fusedCoef : Nat → BitVec 32

/-- Temperature of the package under the base die, at a time in ns, in units of 2^-32 degrees C (R355). -/
opaque packageTemp : Nat → Int

/-- The region of its layer that a sensor is placed in (R357). -/
opaque sensorRegion : Nat → Nat

/-- Which of the results that Table 4.7 permits a special function gives: a number the machine takes modulo their count,
by the function, the format's width and the operand's magnitude (R132). -/
opaque sfnPick : Nat → Nat → Nat → Nat

/-- Logical tiles of the build (R19). -/
def tiles : Build → Nat
  | .t => 256
  | .s => 64

/-- Logic layers. -/
def llayers : Build → Nat
  | .t => 4
  | .s => 1

/-- Memory layers (R21). -/
def mlayers : Build → Nat
  | .t => 5
  | .s => 2

/-- Populated near memory in bytes (R199). -/
def nearTop : Build → Nat
  | .t => 0xF00000000
  | .s => 0x600000000

/-- HBM pseudo-channels P (R205). -/
def pcs : Build → Nat
  | .t => 512
  | .s => 256

/-- Populated HBM bytes, MEM_HBM_TOP (Table 7.2). -/
def hbmTop : Build → Nat
  | .t => 287999787008
  | .s => 143999893504

/-- HBM stacks. -/
def hbmStacks : Build → Nat
  | .t => 8
  | .s => 4

/-- Neotte ports (Table 1.7). -/
def ports : Build → Nat
  | .t => 12
  | .s => 6

/-- The PCIe Device ID (Table 0.1). -/
def deviceId : Build → Nat
  | .t => 0x0710
  | .s => 0x0711

/-- The PCIe Revision ID of stepping B0 (R3, Table 0.1). -/
def revisionId : Nat := 0x10

end Sys2Proof.Config
end

