-- ==== Sys2Proof/Machine/Codes.lean ====
section
/-! DEFINITION. The status codes of the manual (R15, R16, Tables 0.7, 6.14, 12.9, 14.14 and those the chapters name). -/
namespace Sys2Proof.Machine

def stOk : Status := 0x0000
def stRejectCapacity : Status := 0x0101
def stRejectDeadline : Status := 0x0102
def stReelClosed : Status := 0x0103
def stLaunchInvalid : Status := 0x0104
def stCueOpen : Status := 0x0105
def stQueueInvalid : Status := 0x0106
def stAdmitHeld : Status := 0x0107
def stHelperRefused : Status := 0x0108
def stLate : Status := 0x0201
def stAborted : Status := 0x0202
def stWaitExpired : Status := 0x0203
def stOverrun : Status := 0x0204
def stCueHalted : Status := 0x0205
def stUncorrectable : Status := 0x0301
def stXlateFault : Status := 0x0302
def stPermFault : Status := 0x0303
def stPinRefused : Status := 0x0304
def stStandbyAccess : Status := 0x0305
def stMisaligned : Status := 0x0306
def stNoTarget : Status := 0x0307
def stRepairExhausted : Status := 0x0308
def stHostAbort : Status := 0x0309
def stTollSet : Status := 0x0401
def stLedgerRange : Status := 0x0402
def stPoolFull : Status := 0x0403
def stFormMismatch : Status := 0x0404
def stIllegalOp : Status := 0x0405
def stDrift : Status := 0x0406
def stMemberLost : Status := 0x0501
def stCollSplitMismatch : Status := 0x0502
def stIdConflict : Status := 0x0503
def stPairRefused : Status := 0x0504
def stNoRoute : Status := 0x0505
def stLinkLost : Status := 0x0506
def stCollTimeout : Status := 0x0507
def stMirrorBehind : Status := 0x0508
def stDeferred : Status := 0x0601
def stWindowWait : Status := 0x0602
def stDomainBusy : Status := 0x0603
def stAvsFault : Status := 0x0604
def stPrivFault : Status := 0x0701
def stEcallTrap : Status := 0x0702
def stDebugDenied : Status := 0x0703
def stTokenInvalid : Status := 0x0704
def stImageInvalid : Status := 0x0705
def stRollback : Status := 0x0706
def stLcDenied : Status := 0x0707
def stTileReset : Status := 0x0801
def stReelReset : Status := 0x0802
def stIoReset : Status := 0x0803
def stStageTimeout : Status := 0x0804
def stFwNotVerified : Status := 0x0810
def stFwSwitchTimeout : Status := 0x0811
def stFwReverted : Status := 0x0812

/-- The class of a status, bits [15:8] (R15). -/
def statusClass (st : Status) : Nat := st.toNat / 256

end Sys2Proof.Machine
end

