-- ==== Sys2Proof/Machine/State.lean ====
section
/-! DEFINITION. The state of the device: every register, queue, buffer, mode and pin the manual gives it, as plain data,
each field's default being its value at reset. -/
namespace Sys2Proof.Machine

/-- A sparse map from numbers: keys rising, an unlisted key reading as the default its accessor names. -/
abbrev SMap (α : Type) := List (Nat × α)

/-- Why an instruction that a thread has reached cannot issue or complete yet (R143). -/
inductive Why where
  | regs | order | slot | tokens | bar | stby | cue | endcue | wait | endOps | fwSwitch | desc
  | page (vpage : Nat)
  deriving DecidableEq, Repr

/-- An instruction held at its thread (R143). -/
structure Held where
  i : Instr
  why : Why
  deriving DecidableEq, Repr

/-- A token of a thread: its number and, once its operation has completed, that operation's status (R160). -/
structure Token where
  n : Nat
  done : Option Status := none
  deriving DecidableEq, Repr

/-- The condition of a WAIT in progress (Table 5.14). -/
inductive Cond where
  | tok (n : Nat)
  | tokall (held : List Nat)
  | mem (pa : Nat) (cmp : Nat) (v : W64)
  | time (t : W64)
  deriving DecidableEq, Repr

/-- A WAIT in progress: destination, condition, limit tick (0 none), and for a memory WAIT the report of the word that it goes by
(its value, or the poison found) and the word's virtual address (R161). -/
structure WaitSt where
  rd : Nat
  cond : Cond
  limit : W64
  seen : Option W64 := none
  poisoned : Bool := false
  len : Nat := 8
  va : Nat := 0
  deriving DecidableEq, Repr

/-- A descriptor stream of a thread that run-ahead follows (R164): its stretches as (next address to fetch, end), the next one first,
and the sectors fetched ahead that demand has not met. -/
structure RaStream where
  rows : List (Nat × Nat) := []
  ahead : Nat := 0
  deriving DecidableEq, Repr

/-- A hardware thread (R149, Tables 5.4 to 5.8). `desc` holds the stretches of a descriptor at a peer or in host memory that
have arrived for the instruction it holds, `descRead` those that its reads through the cache have met (R197, R212);
`fetchFill` is the address whose fill an instruction fetch waits for. -/
structure Thread where
  live : Bool := false
  halted : Bool := false
  dbgHalt : Bool := false
  reel : Nat := 0
  slot : Nat := 0
  helper : Bool := false
  pc : W64 := 0
  s : SMap W64 := []
  v : SMap VReg := []
  m : SMap MReg := []
  d : SMap DReg := []
  stby : Bool := false
  haltm : BitVec 8 := 0x44
  last : Status := 0
  first : Status := 0
  fv : Bool := false
  flags : BitVec 4 := 0
  toks : List Token := []
  held : Option Held := none
  wait : Option WaitSt := none
  fetched : List W64 := []
  stream : SMap RaStream := []
  fetchPage : Option Nat := none
  fetchFill : Option Nat := none
  desc : List (Nat × Status × List Byte) := []
  descRead : List Nat := []
  deriving DecidableEq, Repr

/-- One request of a memory operation: at most one 256-byte sector of one slot target (R162). `segs` lists the bytes it
moves as (physical address, offset in the operation's data, length); `ca` is the translation's cache attribute. -/
structure Part where
  sector : Nat
  va : Nat
  ca : Nat := 0
  segs : List (Nat × Nat × Nat)
  hit : Bool := false
  issued : Bool := false
  done : Bool := false
  sent : Bool := false
  deriving DecidableEq, Repr

/-- The kinds of memory operation of a tile. -/
inductive MKind where
  | load | store | sem | runahead
  deriving DecidableEq, Repr

/-- Where the data of a load goes; `job` is a stream of an MMA, an RSC or a CPYL. -/
inductive Dst where
  | none
  | scalar (rd n : Nat)
  | desc (rd : Nat)
  | lanes (vd : Nat) (z : Bool) (mask : MReg)
  | stream (vd valid : Nat)
  | job
  deriving DecidableEq, Repr

/-- A memory operation of a tile in progress, with the slots its issued parts hold (R162). For a SEM, `semOp` is the
operation of Table 5.13, `a` and `b` its operands, and `old` the word's previous value once performed. `data` is what a
store writes, or what a load has gathered, `bad` the offsets of its bytes that could not be read; `pc` the instruction's
address. -/
structure MemOp where
  id : Nat
  th : Nat
  kind : MKind
  dst : Dst := .none
  parts : List Part := []
  data : List Byte := []
  bad : List Nat := []
  pc : W64 := 0
  status : Status := 0
  semOp : Nat := 0
  a : W64 := 0
  b : W64 := 0
  old : Option W64 := none
  acq : Bool := false
  reel : Nat := 0
  slot : Nat := 0
  deriving DecidableEq, Repr

/-- One output of an output set: the ledger integer, its header fields (Table 3.5), its count of counted products, and
the tally's F32 partial with the window in progress (R87, R92). -/
structure Output where
  l : Int := 0
  anchor : Int := 0
  spread : Nat := 0
  v : Bool := false
  tag : Nat := 0
  rng : Bool := false
  nvg : Bool := false
  count : Nat := 0
  part : W32 := 0
  win : Int := 0
  tof : Bool := false
  deriving DecidableEq, Repr

/-- An output set in flight under a handle (R82). `tcols` marks the tally columns fixed at the open (R85). -/
structure OutSet where
  shape : Nat
  fmtA : Nat
  fmtB : Nat
  rbase : Nat
  th : Nat
  reel : Nat
  slot : Nat
  tcols : BitVec 128 := 0
  outs : SMap Output := []
  rsc : Bool := false
  deriving DecidableEq, Repr

/-- The translated 64 KiB pages of a tensor: virtual page number, fabric physical address of its first byte, cache
attribute. -/
abbrev PageMap := List (Nat × Nat × Nat)

/-- The operands of one beat in staging, or on their way there (R80, R81): the operation that fetches them, the stretches
as (virtual address, offset, length), and the bytes, `bad` being the offsets that could not be read. -/
structure Staged where
  beat : Nat
  op : Option Nat := none
  segs : List (Nat × Nat × Nat)
  data : List Byte := []
  bad : List Nat := []
  deriving DecidableEq, Repr

/-- An MMA in progress (R81): its operands, start indices, extent and progress. -/
structure ArrOp where
  h : Nat
  th : Nat
  reel : Nat
  slot : Nat
  da : DReg
  db : DReg
  sa : List Nat
  sb : List Nat
  k : Nat
  at_ : Nat := 0
  cb : Option Nat := none
  pages : PageMap := []
  staged : List Staged := []
  rangeEv : Bool := false
  st : Status := 0
  pc : W64 := 0
  spans : List (Nat × Nat) := []
  deriving DecidableEq, Repr

/-- An RSC issued and not yet complete (R83): `op` is the store that writes its outputs. -/
structure RscOp where
  h : Nat
  th : Nat
  tok : Nat
  reel : Nat
  slot : Nat
  d : DReg
  start : List Nat
  rt : Nat := 0
  pages : PageMap := []
  started : Bool := false
  op : Option Nat := none
  st : Status := 0
  spans : List (Nat × Nat) := []
  deriving DecidableEq, Repr

/-- A CPYL in progress (R235): the operation that reads its source, then the one that writes its destination. -/
structure CpylOp where
  th : Nat
  tok : Nat
  reel : Nat
  slot : Nat
  src : DReg
  dst : DReg
  s0 : List Nat
  s1 : List Nat
  cb : Option Nat := none
  spages : PageMap := []
  dpages : PageMap := []
  segs : List (Nat × Nat × Nat) := []
  data : List Byte := []
  bad : List Nat := []
  op : Option Nat := none
  stored : Bool := false
  st : Status := 0
  spans : List (Nat × Nat) := []
  deriving DecidableEq, Repr

/-- A translation held in a cache (Table 7.6): the virtual base, the page size in bytes and the leaf entry. -/
structure XEntry where
  va : Nat
  size : Nat
  leaf : W64
  deriving DecidableEq, Repr

/-- A sector in a tile's run-ahead buffer, or on its way there (R164). `data` holds the bytes of a sector of peer or host memory;
`stale` marks one that is to leave the buffer as soon as it arrives. -/
structure RaSector where
  op : Nat
  th : Nat
  reel : Nat
  d : Nat
  pa : Nat
  arrived : Bool := false
  poisoned : Bool := false
  stale : Bool := false
  data : List Byte := []
  deriving DecidableEq, Repr

/-- A logical tile (R18): its threads, its array's handles and operations, its tables, requests and counters; `lastIssue` is the thread
that its sequencer granted last (R143). -/
structure Tile where
  threads : SMap Thread := []
  sets : SMap OutSet := []
  mmas : List ArrOp := []
  rscs : List RscOp := []
  cpyl : Option CpylOp := none
  cpylWait : List CpylOp := []
  rt0 : SMap (BitVec 128) := []
  rt1 : SMap (BitVec 128) := []
  cb0 : SMap Byte := []
  cb1 : SMap Byte := []
  rtActive : Nat := 0
  cbActive : Nat := 0
  rtPend : Bool := false
  cbPend : Bool := false
  rtRefused : Bool := false
  lastBeat : Nat := 7
  lrValid : Bool := false
  lrHandle : Nat := 0
  lrRow : Nat := 0
  lrCol : Nat := 0
  lrThread : Nat := 0
  raEn : Bool := true
  raDist : Nat := 16
  raSlots : Nat := 16
  ra : List RaSector := []
  ops : List MemOp := []
  xc : List XEntry := []
  foley : Bool := false
  lastIssue : Nat := 23
  fix : SMap W64 := []
  fixF : SMap W64 := []
  pmc : SMap W64 := []
  pmcF : SMap W64 := []
  pmcSel : SMap W64 := []
  unc : List Nat := []
  deriving DecidableEq, Repr

/-- A core of a control processor (R150, Table 5.10). -/
structure Core where
  s : SMap W64 := []
  pc : W64 := 0
  priv : Nat := 3
  ie : Bool := false
  pie : Bool := false
  ppriv : Nat := 3
  cause : Status := 0
  epc : W64 := 0
  tvecS : W64 := 0
  tvecF : W64 := 0
  scratch : W64 := 0
  pend : List Status := []
  wfi : Bool := false
  busy : Bool := false
  fetched : List W64 := []
  deriving DecidableEq, Repr

/-- The lifecycle of a cue (R375, R389). -/
inductive CueSt where
  | awaiting | admitted | expired
  deriving DecidableEq, Repr

/-- A cue of a sequence: its declaration (Table 12.2), and once accepted its number, admission floor, mode, bank-engine
rate class, recorded bound, acceptance order, counted service and the exception that has affected it. -/
structure Cue where
  st : CueSt := .awaiting
  r : TRef
  rd : Nat
  decl : List W64
  members : List Nat := []
  deadline : Nat
  num : Nat := 0
  floor : Nat := 1
  aMode : Bool := false
  bkeOp : Nat := 1
  bound : Nat := 0
  order : Nat := 0
  servArr : SMap Nat := []
  servVec : SMap Nat := []
  servNear : SMap Nat := []
  servHbm : Nat := 0
  servBke : SMap Nat := []
  servSend : SMap Nat := []
  servRecv : SMap Nat := []
  servTicks : Nat := 0
  affected : Bool := false
  ending : Option TRef := none
  deriving DecidableEq, Repr

/-- A live sequence (R138). -/
structure Seq where
  cid : Nat
  q : Nat
  t : Nat
  tiles : List Nat
  live : List TRef
  pc : W64
  halt : Option Status := none
  ended : Bool := false
  cue : Option Cue := none
  deriving DecidableEq, Repr

/-- A completion record that the Director holds until its ring has room (R432). -/
structure ComplRec where
  cid : Nat
  status : Status
  slot : Option Nat
  q : Nat
  tick : W64
  told : Bool := false
  deriving DecidableEq, Repr

/-- A ring register pair (Table 14.6). -/
structure Ring where
  en : Bool := false
  logn : Nat := 0
  base : Nat := 0
  head : Nat := 0
  tail : Nat := 0
  vec : Nat := 0
  ien : Bool := false
  cnt : Nat := 1
  delay : Nat := 0
  phase : Bool := false
  unsig : Nat := 0
  deriving DecidableEq, Repr

/-- A waiting or running A-mode update helper of a reel (R262). -/
structure Helper where
  op : Nat
  running : List TRef := []
  halt : Option Status := none
  pc : W64
  threads : Nat
  deriving DecidableEq, Repr

/-- A reel context (R133, Table 5.1). -/
structure Reel where
  state : Nat := 0
  openPend : Bool := false
  allot : Nat := 0
  seed : W64 := 0
  draws : SMap Nat := []
  aqEn : Bool := false
  aqLimit : Nat := 0
  aqUsed : Nat := 0
  qrej : Bool := false
  seqs : SMap Seq := []
  waiting : List ComplRec := []
  phase : Nat := 0
  gens : SMap Nat := []
  helper : Option Helper := none
  helperQ : List Helper := []
  sq0 : Ring := {}
  sq1 : Ring := {}
  cq : Ring := {}
  cnt : SMap W64 := []
  cntF : SMap W64 := []
  deriving DecidableEq, Repr

/-- A domain of Table 11.6: STATE of Table 11.8 and its pending states. -/
structure Dom where
  st : Nat := 0
  pendOn : Bool := false
  pendOff : Bool := false
  evt : Bool := false
  status : Status := 0
  deriving DecidableEq, Repr

/-- A permanent write that waits for the writing window (R367): a label and its data. -/
inductive WinWrite where
  | lc (op : Nat) (arg : List Byte) (secret : BitVec 256)
  | svn (v : Nat)
  | certify (chain : List Byte)
  | plan (off : Nat) (v : W64)
  | journal
  | clrsel
  | altmode (v : Bool)
  | fuse
  | fwslot (slot : Nat)
  | life
  deriving DecidableEq, Repr

/-- Power and thermal state (chapter 11). Temperatures are in units of 0.25 degrees C, powers in mW unless said; `eff` names the
caps that have taken effect, `req` a VARR request in progress in mV, k is kNum / kDen. -/
structure Power where
  cap : Nat := 2500
  urgentCap : Nat := 1800
  board : Nat := 0
  inforce : Nat := 2500
  capDue : Bool := false
  boardDue : Bool := false
  phaseDue : Bool := false
  capNext : Option Nat := none
  boardNext : Option Nat := none
  phaseNext : Option (List Nat) := none
  phaseCaps : Option (List Nat) := none
  effCap : Nat := 2500
  effBoard : Nat := 0
  effPhase : List Nat := []
  op : Nat := 1
  target : Nat := 1
  comp : Bool := false
  thr : Bool := false
  thrPoint : Nat := 3
  capx : Bool := false
  capxRun : Bool := false
  avsf : Bool := false
  avsNak : Nat := 0
  avsHit : Bool := false
  duty : Nat := 16
  varrMv : Nat := 660
  req : Option Nat := none
  map : BitVec 16 := 0xAAAA
  foleyEn : Bool := true
  foleyEnDue : Option Bool := none
  foleyJ : Nat := 0
  dyn : Nat := 0
  stat : Nat := 0
  kSum : Nat := 0
  kCount : Nat := 0
  kNum : Nat := 1
  kDen : Nat := 1
  railMw : Option Nat := none
  tg : Int := 0
  tmodel : Int := 0
  tsens : Int := 0
  temps : List Int := []
  sensors : List Int := []
  senseOff : List Nat := []
  senseOn : List Nat := []
  warn : Bool := false
  shut : Bool := false
  shutThr : Bool := false
  suspect : List Nat := []
  tcoef : SMap W32 := []
  tcoefValid : Bool := false
  tcoefUse : SMap W32 := []
  inlet : Int := 160
  doms : SMap Dom := []
  refreshFast : List Nat := []
  refreshed : SMap Nat := []
  winQ : List WinWrite := []
  winLater : List WinWrite := []
  tripped : Bool := false
  tripDrive : Bool := false
  tripCool : Bool := false
  mismatches : Nat := 0
  lastMismatch : Option Nat := none
  eqh : Nat := 0
  eqhFrac : Nat := 0
  poh : Nat := 0
  pohFrac : Nat := 0
  eqhMram : Nat := 0
  pohMram : Nat := 0
  lifeAt : Nat := 0
  urgent : Bool := false
  urgentLatch : Bool := false
  deriving DecidableEq, Repr

/-- The Slate timebase (R369, Table 12.1). `ref` counts REFCLK-timed ns since cold start, which no step moves (R371). -/
structure Time where
  tmb : W64 := 0
  ref : Nat := 0
  aligned : Bool := false
  root : Bool := true
  parent : Nat := 0
  stepped : Bool := false
  offset : Int := 0
  hadAlign : Bool := false
  goodSince : Nat := 0
  slew : Int := 0
  slewAt : Nat := 0
  deriving DecidableEq, Repr

/-- The committed floor (Table 12.3). -/
structure Floor where
  req : Nat := 1
  adm : Nat := 1
  held : Nat := 1
  pend : Bool := false
  refused : Bool := false
  deriving DecidableEq, Repr

/-- A page whose translation is being found: by a walk in H mode, or awaited from the host in A mode (R223, R228). -/
structure Walk where
  va : Nat
  aMode : Bool
  root : Nat := 0
  again : Bool := false
  deriving DecidableEq, Repr

/-- Translation state (chapter 7). `bad` names a page whose waiting accesses complete now, with their status. -/
structure Xlate where
  tmo : Nat := 100
  root : Nat := 0
  pkey : W32 := 0
  op : Nat := 0
  size : Nat := 0
  busy : Bool := false
  status : Status := 0
  addr : W64 := 0
  arg : W64 := 0
  base : List XEntry := []
  walks : List Walk := []
  flush : Bool := false
  invLo : Nat := 0
  invHi : Nat := 0
  bad : Option (Nat × Status) := none
  deriving DecidableEq, Repr

/-- A way of the cache that holds a line (R211). `data` holds the bytes of a peer or host line; an HBM line's bytes
stand in memory, whose one copy every agent sees (R212). `victim` marks a line whose way a stalled eviction takes (R220). -/
structure CLine where
  line : Nat
  valid : BitVec 16 := 0
  dirty : List Nat := []
  pinned : Bool := false
  held : Bool := false
  victim : Bool := false
  ca : Nat := 0
  data : List (Nat × Byte) := []
  way : Nat := 0
  deriving DecidableEq, Repr

/-- A fill in progress (R213), and whether it waits for a way (R220). -/
structure Fill where
  line : Nat
  sectors : BitVec 16
  alloc : Nat
  stalled : Bool := false
  deriving DecidableEq, Repr

/-- Cache and partition state (chapter 7). `runOp` to `runEvt` are those of the operation in progress. -/
structure Cache where
  quarters : BitVec 20 := 0
  qpend : Option (BitVec 20) := none
  lines : List CLine := []
  plru : SMap Nat := []
  fills : List Fill := []
  copOp : Nat := 0
  copBusy : Bool := false
  copEvt : Bool := false
  copN : Nat := 0
  copStatus : Status := 0
  copAddr : W64 := 0
  runOp : Nat := 0
  runN : Nat := 0
  runAddr : W64 := 0
  runEvt : Bool := false
  deriving DecidableEq, Repr

/-- A health-log record (Table 13.2). -/
structure HlogRec where
  tick : W64
  seq : Nat
  kind : Nat
  perm : Bool
  status : Status
  unit : W64
  detail : W64
  deriving DecidableEq, Repr

/-- A row repaired or being repaired: its first address, its spare, and whether copied, switched and fused (R404). -/
structure RowRep where
  addr : Nat
  spare : Nat
  switched : Bool := false
  fused : Bool := false
  deriving DecidableEq, Repr

/-- Repair state (chapter 13), and of the Director the submission queue whose head it considered last, as 2 x reel + queue (R140). `runOp` and
`runAddr` are those of the repair in progress. -/
structure Repair where
  rprOp : Nat := 0
  rprBusy : Bool := false
  rprStatus : Status := 0
  rprAddr : W64 := 0
  runOp : Nat := 0
  runAddr : W64 := 0
  rows : List RowRep := []
  exhausted : List Nat := []
  badRows : List Nat := []
  failPcs : List Nat := []
  corrAt : SMap Nat := []
  rsvRows : Nat := 0
  retired : List Nat := []
  retiring : Option Nat := none
  retNext : Nat := 0
  retPoison : Nat := 0
  moved : SMap Nat := []
  rsvStatus : Status := 0
  hlog : List HlogRec := []
  staged : List HlogRec := []
  stageWait : List HlogRec := []
  persistAt : Option Nat := none
  nextSeq : Nat := 0
  drops : Nat := 0
  pfull : Bool := false
  spareOf : SMap Nat := []
  absent : List Nat := []
  usedSpare : List Nat := []
  tspTile : Nat := 0
  tspBusy : Bool := false
  tspRetiring : Bool := false
  tspStatus : Status := 0
  tspQueue : List Nat := []
  deadLanes : List (Nat × Nat) := []
  laneWait : List (Nat × Nat × Nat) := []
  failedPorts : List Nat := []
  dirActive : List Nat := [0, 1]
  dirStandby : List Nat := [2, 3]
  dirFailed : List Nat := []
  dirQueue : Nat := 31
  fwBusy : Bool := false
  fwSwitching : Bool := false
  fwVerified : Bool := false
  fwJpend : Bool := false
  fwStatus : Status := 0
  fwLimit : Nat := 0
  fwActive : Nat := 0
  deriving DecidableEq, Repr

/-- A roll slot that has been staged into (R248, Table 8.5): its header and payload, which stay when it is freed. Places are
local physical addresses in the order master, first-moment elements and scales, second-moment elements and scales, working
elements and scales; a place that is not there is 0. `query` marks a slot that awaits a query (R255); the commit's beats count to the
cue `cue` of sequence slot `cueSlot` of the reel, none when the chunk's UPD had no cue (R533). -/
structure RollSlot where
  layer : Nat
  col : Nat
  slot : Nat
  mark : Nat
  group : Nat
  step : Nat
  wf : Bool
  second : Bool
  places : List Nat
  payload : List Byte
  query : Bool := false
  reel : Nat := 0
  cueSlot : Nat := 8
  cue : Option Nat := none
  deriving DecidableEq, Repr

/-- A commit word (Table 8.6). -/
structure CommitWord where
  sent : Nat := 0
  done : Nat := 0
  res : Bool := false
  v : Bool := false
  deriving DecidableEq, Repr

/-- A Toll group of the device (R249, R257, R319, R320). `lossAsk` says that a member was lost after this device's contribution went up,
and the others are asked whether the step had resolved (R259). -/
structure Group where
  src : Bool := false
  nrmEn : Bool := false
  busy : Bool := false
  last : Bool := false
  step : Nat := 0
  nb : W32 := 0
  ns : W32 := 0
  joined : List Nat := []
  joinedFlag : Bool := false
  later : List Nat := []
  resolving : List Nat := []
  contrib : Bool := false
  kids : List Nat := []
  kidsOr : Bool := false
  leg : Nat := 0
  sentUp : Bool := false
  mlist : W64 := 0
  mcount : Nat := 0
  pend : Bool := false
  valid : Bool := false
  members : List Nat := []
  digest : W64 := 0
  bound : Nat := 0
  history : List (Nat × Bool) := []
  queryTag : Option Nat := none
  lossAsk : Bool := false
  deriving DecidableEq, Repr

/-- The operations that return a token and run on the device (R160). -/
inductive BKind where
  | upd | rdw | coll | perm | scrub | toll
  deriving DecidableEq, Repr

/-- A token operation in progress. `words` is its descriptor, `pages` the translations its check found, `tag` and
`group` its Toll step, `done` the chunks, pages or slices finished, `members` its member list, `opens` the ranks whose
openings have arrived, `sched` an A-mode schedule or a PERM map, `buf` staged data by index; `job` is the stream that fetches
its source, `bad` the offsets that it could not read, `resolved` how the step of a UPD has resolved (R254). -/
structure BOp where
  id : Nat
  tile : Nat
  th : Nat
  tok : Nat
  dead : Bool := false
  kind : BKind
  reel : Nat
  slot : Nat
  addr : Nat := 0
  words : List W64 := []
  pages : PageMap := []
  group : Nat := 0
  tag : Nat := 0
  status : Status := 0
  flags : BitVec 4 := 0
  count : Nat := 0
  first : Option Nat := none
  pre : List Nat := []
  done : List Nat := []
  aMode : Bool := false
  helperOk : Bool := false
  members : List Nat := []
  rank : Nat := 0
  opens : List Nat := []
  digest : W64 := 0
  split : Bool := false
  alg : Nat := 0
  phase : Nat := 0
  idx : Nat := 0
  acks : Nat := 0
  sched : List W64 := []
  smap : SMap Nat := []
  buf : SMap (List Byte) := []
  bad : List Nat := []
  job : Option Nat := none
  resolved : Option Bool := none
  deriving DecidableEq, Repr

/-- Toll, roll and bank-engine state (chapter 8). -/
structure Bank where
  groups : SMap Group := []
  commit : SMap CommitWord := []
  roll : List RollSlot := []
  ops : List BOp := []
  nextOp : Nat := 0
  updPc : W64 := 0
  updThreads : Nat := 0
  updValid : Bool := false
  deriving DecidableEq, Repr

/-- A Neotte port (Table 10.1, R291, R292). `cur` holds, by channel, the message that goes on in its next flit, with the bytes yet to go, and
`rx` the bytes of the message that goes on in the next flit to come; `naks` counts the replays asked for since the last flit taken, and
`seen` is the last SEQ discarded. `adv` holds the routes that the far end has announced, and `said` those announced to it: the length of
the shortest route that starts up, and of the shortest whose hops are all down (R301). -/
structure Port where
  st : Nat := 0
  peer : Nat := 0
  peerPort : Nat := 0
  peerV : Bool := false
  peerBpos : Nat := 0
  peerPair : Nat := 0
  peerLegacy : Bool := false
  peerTag : W64 := 0
  spare : Nat := 15
  loss : Bool := false
  retry : Nat := 0
  retraining : Bool := false
  txSeq : Nat := 0
  rxSeq : Nat := 4095
  nakWait : Bool := false
  naks : Nat := 0
  seen : Option Nat := none
  queue : List Msg := []
  cur : SMap (Msg × List Byte) := []
  rx : SMap (List Byte) := []
  turn : Bool := false
  replay : List Flit := []
  replays : Nat := 0
  credits : List Nat := [192, 192, 384, 64]
  owed : List Nat := [0, 0, 0, 0]
  halfRtt : Nat := 0
  rxCount : W64 := 0
  txEcho : W64 := 0
  adv : SMap (Option Nat × Option Nat) := []
  said : SMap (Option Nat × Option Nat) := []
  deriving DecidableEq, Repr

/-- An entry of the routing table (Table 10.7). -/
structure Rt where
  v : Bool := false
  port : Nat := 0
  alt : Nat := 0
  av : Bool := false
  hops : Nat := 0
  dn : Bool := false
  hw : Bool := false
  deriving DecidableEq, Repr

/-- Who waits for a remote or host request (R306, R427): a part of a tile's memory operation, a watch of a thread, a
page of a SCRUB, a DMA engine at an offset of its transfer, a thread's instruction fetch, a stretch of a
descriptor that a thread's instruction names, a core's access (a load of n bytes into rd, its instruction `len` words long), a
peer's request to this device's host window, a message of a bank operation, a sector of a cache fill, or nobody. -/
inductive RemOwner where
  | part (tile op part : Nat)
  | watch (r : TRef)
  | scrub (op page : Nat)
  | dma (k off : Nat)
  | fetch (r : TRef) (va : Nat)
  | desc (r : TRef) (va : Nat)
  | core (proc core rd n len : Nat)
  | peer (dev tag : Nat)
  | msg (op : Nat)
  | fill (line sector : Nat)
  | nobody
  deriving DecidableEq, Repr

/-- A remote request outstanding, with its message: whether it waits for the requests on its home's earlier route (R308), and whether it
was sent again after an I/O reset (R306, R485). -/
structure RemReq where
  tag : Nat
  dst : Nat
  port : Nat
  mtype : Nat
  owner : RemOwner
  msg : Msg
  waiting : Bool := false
  again : Bool := false
  deriving DecidableEq, Repr

/-- A watch registered at this device as home (R161, R309): a local thread's, or a remote device's with its tag. -/
structure Watch where
  addr : Nat
  src : Nat
  tag : Nat
  owner : Option TRef
  deriving DecidableEq, Repr

/-- Links state (chapter 10). `tx` is every flit sent with its port and `idle` every IDLE flit with its counts, oldest
first; `homeQ` are the requests that wait at this device, their home, with their ports (R308); `from_` is the port on which a device's
messages last came (R305); `early` are messages of operations not yet begun. -/
structure Links where
  ports : SMap Port := []
  rt : SMap Rt := []
  board : Nat := 0
  idValid : Bool := false
  devid : Nat := 0xFFF
  claimed : Bool := false
  conflict : Bool := false
  claims : List (Nat × Nat) := []
  reqTmo : Nat := 100
  collTmo : Nat := 1000
  reqs : List RemReq := []
  nextTag : Nat := 0
  watches : List Watch := []
  lost : List Nat := []
  announced : SMap (Nat × Nat) := []
  early : List Msg := []
  homeQ : List (Nat × Msg) := []
  from_ : SMap Nat := []
  tx : List (Nat × Flit) := []
  idle : List (Nat × W64 × W64 × W64) := []
  discarded : Nat := 0
  deriving DecidableEq, Repr

/-- The primary's side of a mirror relationship (Table 10.16): the register's fields, and the partner `peer` and group `grp` of the
relationship in progress; `host` says that host software encodes the frame in progress (R330), `toOpen` that OPEN awaits the end of a
translation flush (R38). -/
structure Mirror where
  en : Bool := false
  partner : Nat := 0
  tgrp : Nat := 0
  st : Nat := 0
  refused : Bool := false
  step : Nat := 0
  list : W64 := 0
  count : Nat := 0
  regions : List (Nat × Nat) := []
  stale : List Nat := []
  records : Nat := 0
  sealed_ : Option Nat := none
  sacked : Bool := false
  unacked : Bool := false
  peer : Nat := 0
  grp : Nat := 0
  host : Bool := false
  toOpen : Bool := false
  deriving DecidableEq, Repr

/-- A mirror record in a partner's frame area (R325). -/
structure MRec where
  kind : Nat
  tag : Nat
  addr : Nat
  data : List Byte
  deriving DecidableEq, Repr

/-- A partner's slot (Table 10.17). `due` is a COMMIT, its tag and record count, whose records have not all arrived; `taking` a takeover
begun and not settled, and `ans` the first answer to its query; `from_` is the primary of the relationship in progress. -/
structure PMirror where
  arm : Bool := false
  primary : Nat := 0
  auto : Bool := true
  st : Nat := 0
  reel : Nat := 0
  step : Nat := 0
  size : Nat := 0
  base : Nat := 0
  image : Nat := 0
  tgrp : Nat := 0
  frame : List MRec := []
  sealed_ : Option (Nat × Nat × Nat) := none
  sacked : Bool := false
  taking : Bool := false
  due : Option (Nat × Nat) := none
  stopping : Bool := false
  from_ : Nat := 0
  ans : Option Bool := none
  deriving DecidableEq, Repr

/-- The staged chunks of a commit that host software encodes for a reel's mirror: their slots' addresses (R330). -/
structure MList where
  reel : Nat
  group : Nat
  tag : Nat
  slots : List Nat
  deriving DecidableEq, Repr

/-- Mirroring and export state (chapter 10). The CON_MLIST window shows a part of the list that `mlistReel`, `mlistGroup` and `mlistTag`
name while `mlistOn`; `mlistNext` is the rest of it, and `mlists` the lists that wait for the window (R434). `expPlaces`
holds the stretches that a running export has yet to take (R331). -/
structure Pairs where
  mir : SMap Mirror := []
  pmir : SMap PMirror := []
  mlistWin : SMap W64 := []
  mlistNext : List Nat := []
  mlistOn : Bool := false
  mlists : List MList := []
  mlistAt : Nat := 0
  mlistTag : Nat := 0
  mlistReel : Nat := 0
  mlistGroup : Nat := 0
  expDesc : W64 := 0
  expBusy : Bool := false
  expStatus : Status := 0
  expWords : List W64 := []
  expRun : Bool := false
  expPlaces : List (Nat × Nat) := []
  expTag : Nat := 0
  deriving DecidableEq, Repr

/-- A request outstanding at the host (R427). -/
structure HostReq where
  tag : Nat
  owner : RemOwner
  addr : Nat
  len : Nat
  deriving DecidableEq, Repr

/-- A DMA engine (R437): its ring, the descriptor in progress with the first failure of its requests to a peer, and whether the
host's data has come. -/
structure Dma where
  ring : Ring := {}
  cur : Option (List W64) := none
  status : Status := 0
  hostDone : Bool := false
  deriving DecidableEq, Repr

/-- What the device has sent toward the host, oldest first: posted writes to host memory, MSI-X messages, completions of
requests, and the responses of the management and debug interfaces. -/
inductive Out where
  | write (addr : Nat) (data : List Byte)
  | msix (vec : Nat)
  | readReq (tag addr len : Nat)
  | data (bytes : List Byte) (ep : Bool)
  | ur
  | retry
  | mctp (status : Status) (data : List Byte)
  | doe (kind : Nat) (data : List Byte)
  | tdo (v : W32)
  | avs (mv : Nat)
  | i3cAck (addr : Nat)
  deriving DecidableEq, Repr

/-- One split register (Table 14.13). -/
structure Split where
  req : Bool := false
  act : Bool := false
  pend : Bool := false
  refused : Bool := false
  status : Status := 0
  deriving DecidableEq, Repr

/-- PCIe host interface state (chapter 14). -/
structure HostIf where
  rate : Nat := 0
  width : Nat := 0
  flit : Bool := false
  degraded : Bool := false
  hwinEn : Bool := false
  hwinBase : Nat := 0
  bar2Base : Nat := 0x10
  bar2Size : Nat := 512
  bme : Bool := false
  mse : Bool := false
  cfg : SMap W32 := []
  eq : Ring := {}
  eqDrops : Nat := 0
  eqOwed : Nat := 0
  dma : SMap Dma := []
  msix : SMap W32 := []
  pba : List Nat := []
  reqs : List HostReq := []
  nextTag : Nat := 0
  splits : SMap Split := []
  out : List Out := []
  deriving DecidableEq, Repr

/-- A secured session, and its IDE streams with their keys (R453, R457). -/
structure IdeStream where
  session : Nat
  stream : Nat
  keys : List (Nat × Nat × BitVec 256) := []
  active : Option Nat := none
  deriving DecidableEq, Repr

/-- Security state (chapter 15). -/
structure Sec where
  lc : Nat := 0
  next : Nat := 7
  slot : Nat := 0
  nextSlot : Nat := 0
  lcOp : Nat := 0
  lcBusy : Bool := false
  lcStatus : Status := 0
  ownerDig : SMap (List Byte) := []
  imageDig : SMap (List Byte) := []
  bernDig : List Byte := []
  uds : BitVec 256 := 0
  unitTag : W64 := 0
  pk : List Byte := []
  idTag : W64 := 0
  minSvn : Nat := 0
  chain : List Byte := []
  tokWin : SMap Byte := []
  certWin : SMap Byte := []
  imgSrc : W64 := 0
  imgBusy : Bool := false
  imgWait : Bool := false
  imgStatus : Status := 0
  imgA : List Byte := []
  imgB : List Byte := []
  sessions : List Nat := []
  opening : List Nat := []
  secDig : SMap (List Byte) := []
  ide : List IdeStream := []
  level : Nat := 0
  req : Nat := 0
  /-- The level that the OPEN in progress asked for. -/
  openReq : Nat := 0
  dbgBusy : Bool := false
  susp : Bool := false
  debugged : Bool := false
  maxdbg : Nat := 0
  dbgStatus : Status := 0
  nonce : BitVec 256 := 0
  nonceOk : Bool := false
  expiry : W64 := 0
  thrTile : Nat := 0
  thrTh : Nat := 0
  d3hot : Bool := false
  retention : Bool := false
  offPend : Bool := false
  deriving DecidableEq, Repr

/-- Where the device is between power-off and service (R469 to R478). -/
inductive Phase where
  | off
  | tripHold
  | clockHold
  | take
  | failed
  | run
  | safe
  | down
  deriving DecidableEq, Repr

/-- A start-journal record (Table 16.5). -/
structure JRec where
  take : Nat
  stage : Nat
  path : Nat
  result : Nat
  tkind : Nat
  status : Status
  tick : W64
  detail : W64
  deriving DecidableEq, Repr

/-- Start and reset state (chapter 16). `runKind` and `runTarget` are those of the reset in progress. -/
structure Start where
  phase : Phase := .off
  stage : Nat := 0
  warm : Bool := false
  fromSafe : Bool := false
  railsOk : Bool := false
  perst : Bool := true
  takeNo : Nat := 0
  altmode : Bool := false
  slot : Nat := 0
  planv : Bool := false
  takes : Nat := 0
  counts : SMap (Nat × Nat) := []
  sel : SMap Nat := []
  next : Nat := 0
  plan : SMap Byte := []
  ring : SMap JRec := []
  staged : List JRec := []
  jstatus : Status := 0
  rstKind : Nat := 0
  rstBusy : Bool := false
  rstTarget : Nat := 0
  runKind : Nat := 0
  runTarget : Nat := 0
  rstStatus : Status := 0
  faultN : Bool := true
  alert : Bool := true
  cause : Nat := 6
  ioAssert : Bool := false
  ioPend : Bool := false
  ioDown : List Nat := []
  recover : List (Nat × Nat) := []
  tileWait : Option Nat := none
  deriving DecidableEq, Repr

/-- A trace FIFO (R503 to R505): its records, one or two words each, oldest first; the records dropped since the last
LOSS; and the tick of its last record, none when the next record is long. -/
structure Fifo where
  recs : List (List W64) := []
  lost : Nat := 0
  last : Option W64 := none
  deriving DecidableEq, Repr

/-- Observability state (chapter 17). -/
structure Obs where
  cntEn : Bool := false
  trcEn : Bool := false
  trcAddr : Bool := false
  dlyEn : Bool := false
  armWarm : Bool := false
  status : Status := 0
  base : SMap W64 := []
  baseF : SMap W64 := []
  epoch : Nat := 0
  late : Bool := false
  nalign : Bool := false
  drop : Nat := 0
  ftick : Nat := 0
  pending : List Nat := []
  dlyBase : Nat := 0
  dlyGroups : Nat := 0
  dlyWrap : Bool := false
  dlyInterval : Nat := 1000
  dlySize : Nat := 0
  dlyNext : Nat := 0
  dlySkip : Nat := 0
  dlyFull : Bool := false
  dlyT0 : Option W64 := none
  dlyJ : Nat := 0
  dlyGap : Bool := false
  trcDest : Bool := false
  trcWrap : Bool := false
  trcBase : Nat := 0
  trcSize : Nat := 0
  trcWr : Nat := 0
  trcLosses : Nat := 0
  trcRd : Nat := 0
  fifos : SMap Fifo := []
  deriving DecidableEq, Repr

/-- Straps, pins and the management and test ports (chapter 18). -/
structure Pins where
  bpos : Nat := 0
  pair : Nat := 0
  legacy : Bool := false
  tripIn : Bool := false
  plim : Bool := false
  plimSeen : Bool := false
  i3c : Option Nat := none
  jtagIr : Nat := 1
  clkreq : Bool := false
  jtagBsr : W32 := 0
  jtagMode : Nat := 0
  deriving DecidableEq, Repr

/-- The reasons a command can stop with a fault. The manual gives every command an effect or a status, so no meaning of
this model raises one: a command that cannot act leaves a status or changes nothing. -/
inductive Fault where
  /-- Raised by no command: kept so that the type has a reason to name. Safe. -/
  | unreachable
  deriving DecidableEq, Repr

/-- The reasons a command can be refused. -/
inductive Refusal where
  /-- Raised by exec's arm of a row that has no meaning yet. Safe: nothing is claimed of such a command. -/
  | notModelled (mnemonic : String)
  deriving DecidableEq, Repr

/-- The whole device, with the queue of commands that wait, first in, first out. `mem` lists the bytes of memory that differ
from what an unlisted address reads as; `undef` the ranges whose contents became undefined (a number: the free values
that an unlisted byte of it reads as) or were cleared since (none), newest first. -/
structure State where
  pending : List Instr := []
  build : Build := .t
  freeCtr : Nat := 0
  mem : List Host.Cell := []
  undef : List (Nat × Nat × Option Nat) := []
  poison : List Nat := []
  tiles : SMap Tile := []
  cores : SMap Core := []
  reels : SMap Reel := []
  bank : Bank := {}
  xl : Xlate := {}
  cache : Cache := {}
  rep : Repair := {}
  links : Links := {}
  pairs : Pairs := {}
  pow : Power := {}
  time : Time := {}
  floor : Floor := {}
  host : HostIf := {}
  sec : Sec := {}
  start : Start := {}
  obs : Obs := {}
  pins : Pins := {}
  cueOrder : Nat := 0
  opSeq : Nat := 0
  deriving DecidableEq, Repr

/-- The device right after reset: unpowered islands apart, every register at its reset value, nothing listed in memory,
no command waiting. -/
def State.reset : State := {}

/-- The result type of every meaning. -/
abbrev Res := Host.Outcome State Fault Refusal

end Sys2Proof.Machine
end

