-- ==== Sys2Proof/Machine/Ops.lean ====
section
/-! DEFINITION. The shared operations: reading and writing the parts of the state, counters and trace, the event queue, cues,
and the local physical map. -/
namespace Sys2Proof.Machine

/-! ### Reading and writing the parts of the state -/

def State.tile (s : State) (t : Nat) : Tile := mget {} s.tiles t
def State.setTile (s : State) (t : Nat) (x : Tile) : State := { s with tiles := mput s.tiles t x }
def State.modTile (s : State) (t : Nat) (f : Tile → Tile) : State := s.setTile t (f (s.tile t))

def State.thread (s : State) (r : TRef) : Thread := mget {} (s.tile r.tile).threads r.th
def State.setThread (s : State) (r : TRef) (x : Thread) : State :=
  s.modTile r.tile (fun T => { T with threads := mput T.threads r.th x })
def State.modThread (s : State) (r : TRef) (f : Thread → Thread) : State := s.setThread r (f (s.thread r))

/-- The key of a core: the processor code and the core number as C_CORE gives them (Table 5.10). The two cores of Gaffer run
one instruction stream in lockstep (R29), so one core's state stands for both, under the number 0 (DESIGN CHOICE, log 92). -/
def coreKey (proc core : Nat) : Nat := if proc == 4 then 64 else 16 * proc + core
/-- Cores of each processor code (Tables 1.3 and 15.6). -/
def coresOf : Nat → Nat
  | 1 => 4
  | 2 => 2
  | 3 => 2
  | 4 => 2
  | 5 => 1
  | _ => 0
def State.core (s : State) (p c : Nat) : Core := mget {} s.cores (coreKey p c)
def State.setCore (s : State) (p c : Nat) (x : Core) : State := { s with cores := mput s.cores (coreKey p c) x }
def State.modCore (s : State) (p c : Nat) (f : Core → Core) : State := s.setCore p c (f (s.core p c))

def State.reel (s : State) (n : Nat) : Reel := mget {} s.reels n
def State.setReel (s : State) (n : Nat) (x : Reel) : State := { s with reels := mput s.reels n x }
def State.modReel (s : State) (n : Nat) (f : Reel → Reel) : State := s.setReel n (f (s.reel n))

def State.seq (s : State) (reel slot : Nat) : Option Seq := mfind (s.reel reel).seqs slot
def State.modSeq (s : State) (reel slot : Nat) (f : Seq → Seq) : State :=
  match s.seq reel slot with
  | none => s
  | some q => s.modReel reel (fun R => { R with seqs := mput R.seqs slot (f q) })

def State.dom (s : State) (n : Nat) : Dom := mget {} s.pow.doms n
def State.modDom (s : State) (n : Nat) (f : Dom → Dom) : State :=
  { s with pow := { s.pow with doms := mput s.pow.doms n (f (s.dom n)) } }

def State.port (s : State) (n : Nat) : Port := mget {} s.links.ports n
def State.modPort (s : State) (n : Nat) (f : Port → Port) : State :=
  { s with links := { s.links with ports := mput s.links.ports n (f (s.port n)) } }

def State.route (s : State) (d : Nat) : Rt := mget {} s.links.rt d
def State.setRoute (s : State) (d : Nat) (x : Rt) : State := { s with links := { s.links with rt := mput s.links.rt d x } }

def State.split (s : State) (f : Nat) : Split := mget {} s.host.splits f
def State.modSplit (s : State) (f : Nat) (g : Split → Split) : State :=
  { s with host := { s.host with splits := mput s.host.splits f (g (s.split f)) } }
/-- A function of Table 1.5 is active in A mode. -/
def State.aMode (s : State) (f : Nat) : Bool := (s.split f).act

def State.group (s : State) (g : Nat) : Group := mget {} s.bank.groups g
def State.modGroup (s : State) (g : Nat) (f : Group → Group) : State :=
  { s with bank := { s.bank with groups := mput s.bank.groups g (f (s.group g)) } }

def State.bop (s : State) (id : Nat) : Option BOp := s.bank.ops.find? (fun o => o.id == id)
def State.modBop (s : State) (id : Nat) (f : BOp → BOp) : State :=
  { s with bank := { s.bank with ops := mapIf (fun o => o.id == id) f s.bank.ops } }
def State.dropBop (s : State) (id : Nat) : State :=
  { s with bank := { s.bank with ops := s.bank.ops.filter (fun o => o.id != id) } }

def State.dma (s : State) (k : Nat) : Dma := mget {} s.host.dma k
def State.modDma (s : State) (k : Nat) (f : Dma → Dma) : State :=
  { s with host := { s.host with dma := mput s.host.dma k (f (s.dma k)) } }

/-- The own ID of the device (R531). -/
def State.ownId (s : State) : Nat :=
  if s.links.claimed then s.links.devid
  else if s.links.idValid && !s.links.conflict then 8 * s.links.board + s.pins.bpos
  else 0xFFF

/-- A value the manual leaves open, and the state with the counter of such values advanced. -/
def State.fresh (s : State) : Nat × State := (Config.freeNat s.freeCtr, { s with freeCtr := s.freeCtr + 1 })

/-- A logical tile of the build that serves (R19, R401). -/
def State.tileThere (s : State) (t : Nat) : Bool := t < Config.tiles s.build && !s.rep.absent.contains t

/-- A BAR0 write outside what SAFE serves: ignored in SAFE (R478). -/
def hostWrite (k : State → State) (s : State) : State := if s.start.phase == .safe then s else k s

/-! ### Register files -/

/-- A scalar register of a thread; s0 reads as 0 (Table 5.8). -/
def Thread.sreg (t : Thread) (n : Nat) : W64 := if n == 0 then 0 else mget 0 t.s n
/-- A write of a scalar register; a write of s0 is ignored (Table 5.8). -/
def Thread.setS (t : Thread) (n : Nat) (v : W64) : Thread := if n == 0 then t else { t with s := mput t.s n v }
def Thread.vreg (t : Thread) (n : Nat) : VReg := mget 0 t.v n
def Thread.setV (t : Thread) (n : Nat) (v : VReg) : Thread := { t with v := mput t.v n v }
/-- A mask register; m0 reads as all ones (R129). -/
def Thread.mreg (t : Thread) (n : Nat) : MReg := if n == 0 then BitVec.allOnes 128 else mget 0 t.m n
/-- A write of a mask register; a write of m0 is ignored (R129). -/
def Thread.setM (t : Thread) (n : Nat) (v : MReg) : Thread := if n == 0 then t else { t with m := mput t.m n v }
def Thread.dreg (t : Thread) (n : Nat) : DReg := mget 0 t.d n
def Thread.setD (t : Thread) (n : Nat) (v : DReg) : Thread := { t with d := mput t.d n v }
def Core.sreg (c : Core) (n : Nat) : W64 := if n == 0 then 0 else mget 0 c.s n
def Core.setS (c : Core) (n : Nat) (v : W64) : Core := if n == 0 then c else { c with s := mput c.s n v }

/-- Add numeric flags to a thread's sticky flags (R72). -/
def State.addFlags (s : State) (r : TRef) (f : BitVec 4) : State := s.modThread r (fun t => { t with flags := t.flags ||| f })

/-! ### Counters and trace (chapter 17) -/

def bump (m : SMap W64) (k n : Nat) : SMap W64 := mput m k (mget 0 m k + BitVec.ofNat 64 n)

/-- Counting is on: CNT_EN, and not in Retention (Table 17.1). -/
def State.counting (s : State) : Bool := s.obs.cntEn && !s.sec.retention

/-- Count n of fixed event k of a tile (Table 17.4). -/
def cntFix (t k n : Nat) (s : State) : State :=
  if s.counting then s.modTile t (fun T => { T with fix := bump T.fix k n }) else s

/-- Count n of programmable event `ev` of a reel on every counter of the tile that selects it (Tables 17.5, 17.6). -/
def cntPmc (t ev reel n : Nat) (s : State) : State :=
  if s.counting then
    s.modTile t (fun T =>
      { T with pmc := (List.range 8).foldl (fun m k =>
          let sel := mget 0 T.pmcSel k
          if bitsOf sel 5 0 == ev && (!bitOf sel 6 || bitsOf sel 10 7 == reel) then bump m k n else m) T.pmc })
  else s

/-- The base-die counter index exists on the build (Table 17.13). -/
def baseThere (b : Build) (i : Nat) : Bool :=
  if i < 96 then i / 8 < Config.ports b else if i < 128 then (i - 96) / 4 < Config.hbmStacks b else i < 140

/-- Count n of a base-die counter (Table 17.7). -/
def cntBase (i n : Nat) (s : State) : State :=
  if s.counting && baseThere s.build i then { s with obs := { s.obs with base := bump s.obs.base i n } } else s

/-- Count n of word w of a reel's counters (R497). -/
def cntReel (reel w n : Nat) (s : State) : State :=
  if s.counting then s.modReel reel (fun R => { R with cnt := bump R.cnt w n }) else s

/-- Bytes that a FIFO holds. -/
def Fifo.size (f : Fifo) : Nat := sumN (f.recs.map (fun r => 8 * r.length))

/-- Word 0 of a trace record (Table 17.10). -/
def trWord (long : Bool) (typ pos th reel src dt arg : Nat) : W64 :=
  let low := b2n long + 2 * typ + pos * 2 ^ 8 + th * 2 ^ 13 + reel * 2 ^ 18 + src * 2 ^ 22
  BitVec.ofNat 64 (if long then low + (arg % 2 ^ 32) * 2 ^ 32 else low + dt * 2 ^ 27 + arg * 2 ^ 42)

/-- One record into a FIFO, in the short form when H mode permits it (R504), or dropped when it does not fit (R505). -/
def Fifo.push (f : Fifo) (aMode : Bool) (typ pos th reel src arg : Nat) (now : W64) : Fifo :=
  let short := match f.last with
    | none => none
    | some l =>
      if !aMode && l.toNat ≤ now.toNat && now.toNat - l.toNat ≤ 32767 && arg < 2 ^ 22 then some (now.toNat - l.toNat) else none
  let rec' := match short with
    | some dt => [trWord false typ pos th reel src dt arg]
    | none => [trWord true typ pos th reel src 0 arg, now]
  if f.size + 8 * rec'.length ≤ 16384 then { f with recs := f.recs ++ [rec'], last := some now }
  else { f with lost := f.lost + 1 }

/-- The LOSS record that precedes the next event once there is room for a long record (R505). -/
def Fifo.loss (f : Fifo) (pos src : Nat) (now : W64) : Fifo × Bool :=
  if f.lost == 0 then (f, false)
  else if f.size + 16 ≤ 16384 then
    ({ f with recs := f.recs ++ [[trWord true 0x7F pos 31 0 src 0 (Nat.min f.lost (2 ^ 32 - 1)), now]], lost := 0, last := none }, true)
  else (f, false)

/-- Capture a trace event (R503, Table 17.11) of a tile, or of the base die. -/
def trace (typ : Nat) (tile : Option Nat) (th reel arg : Nat) (s : State) : State :=
  if !s.obs.trcEn || s.sec.retention || (typ == 0x40 && !s.obs.trcAddr) then s
  else
    let src := match tile with
      | none => 16
      | some t => t / 16
    let pos := match tile with
      | none => 31
      | some t => if (mfind s.rep.spareOf t).isSome then 16 else t % 16
    let now := s.time.tmb
    let r := (mget {} s.obs.fifos src : Fifo).loss pos src now
    let f := if r.1.lost == 0 then r.1.push (s.aMode 7) typ pos th reel src arg now else { r.1 with lost := r.1.lost + 1 }
    { s with obs := { s.obs with
        fifos := mput s.obs.fifos src f
        trcLosses := if r.2 then Nat.min (s.obs.trcLosses + 1) 0xFFFF else s.obs.trcLosses } }

/-- Sectors leave a tile's run-ahead buffer unused, and are counted (R495); one still in flight leaves as soon as it arrives. -/
def raDrop (t : Nat) (p : RaSector → Bool) (s : State) : State :=
  let hit := (s.tile t).ra.filter (fun x => p x && x.arrived)
  hit.foldl (fun s x => cntPmc t 0x15 x.reel 1 s) (s.modTile t (fun T => { T with
    ra := mapIf p (fun x => { x with stale := true }) (T.ra.filter (fun x => !(p x && x.arrived))) }))

/-- The tile leaves Foley: a thread of it goes on or stops, or its array takes a beat of real work (R351, R353). -/
def foleyLeave (t : Nat) (s : State) : State :=
  if (s.tile t).foley then trace 0x0D (some t) 31 0 0 (s.modTile t (fun T => { T with foley := false })) else s

/-- The thread waits in WAIT or BAR. -/
def Thread.waitsBar (t : Thread) : Bool := t.wait.isSome || t.held.any (fun h => h.why == .bar)

/-! ### What the device sends to the host (chapter 14) -/

def State.send (s : State) (o : Out) : State := { s with host := { s.host with out := s.host.out ++ [o] } }

def Ring.size (r : Ring) : Nat := 2 ^ r.logn
/-- A record would leave the ring full (R432). -/
def Ring.full (r : Ring) : Bool := (r.tail + 1) % r.size == r.head
/-- TAIL moves on, and PHASE inverts when it wraps to 0 (R432). -/
def Ring.advance (r : Ring) : Ring :=
  let t := (r.tail + 1) % r.size
  { r with tail := t, phase := if t == 0 then !r.phase else r.phase }

/-- Count a record toward the ring's signal; true when the ring signals now (R436, Table 14.6). -/
def Ring.count (r : Ring) : Ring × Bool :=
  let n := r.unsig + 1
  if r.ien && (n ≥ Nat.max r.cnt 1 || r.delay == 0) then ({ r with unsig := 0 }, true)
  else ({ r with unsig := n }, false)

/-- An MSI-X message on a vector, or its pending bit while the vector or the function is masked (R436). -/
def msixFire (vec : Nat) (s : State) : State :=
  if bitOf (mget (1 : W32) s.host.msix (4 * vec + 3)) 0 || bitOf (mget (0 : W32) s.host.cfg 0x14) 30 then
    { s with host := { s.host with pba := if s.host.pba.contains vec then s.host.pba else s.host.pba ++ [vec] } }
  else s.send (.msix vec)

def bytesOfWords : List W64 → List Byte
  | [] => []
  | w :: ws => leBytes 8 w.toNat ++ bytesOfWords ws

/-- The four words of an event record (Table 14.10). -/
def eventWords (st : Status) (typ : Nat) (p : Bool) (reel slot tile th : Nat) (tick a0 a1 : W64) : List W64 :=
  [BitVec.ofNat 64 (st.toNat + typ * 2 ^ 16 + b2n p * 2 ^ 24 + (reel % 16) * 2 ^ 25 + (slot % 8) * 2 ^ 29 +
    (tile % 256) * 2 ^ 32 + (th % 32) * 2 ^ 40), tick, a0, a1]

/-- Write one record to the event queue's ring, and signal (R433, R436). -/
def eqWrite (words : Bool → List W64) (s : State) : State :=
  let r := s.host.eq
  let s1 := s.send (.write (r.base * 4096 + r.tail * 32) (bytesOfWords (words r.phase)))
  let c := r.advance.count
  let s2 : State := { s1 with host := { s1.host with eq := c.1 } }
  if c.2 then msixFire r.vec s2 else s2

/-- A record dropped by the event queue (R435). -/
def eqDrop (s : State) : State :=
  { s with host := { s.host with eqDrops := Nat.min (s.host.eqDrops + 1) 0x7F, eqOwed := s.host.eqOwed + 1 } }

/-- The OVERFLOW record that precedes any new record once room returns (R435). -/
def eqOverflow (s : State) : State :=
  if s.host.eqOwed != 0 && s.host.eq.en && !s.host.eq.full then
    let n := s.host.eqOwed
    eqWrite (fun p => eventWords 0 0x0F p 0 0 0 0 s.time.tmb (BitVec.ofNat 64 n) 0) { s with host := { s.host with eqOwed := 0 } }
  else s

/-- Place a record on the event queue: dropped and counted when the ring is full or disabled (R429, R435). -/
def event (st : Status) (typ reel slot tile th : Nat) (a0 a1 : W64) (s : State) : State :=
  let s := eqOverflow s
  if s.host.eq.en && !s.host.eq.full then eqWrite (fun p => eventWords st typ p reel slot tile th s.time.tmb a0 a1) s else eqDrop s

/-- A QUEUE event record (Table 14.11). -/
def queueEvent (st : Status) (reel queue arg1 : Nat) (s : State) : State :=
  event st 0x0D 0 0 0 0 (BitVec.ofNat 64 (reel % 16 + (queue % 8) * 16)) (BitVec.ofNat 64 arg1) s

/-- DROPS of SPR_HLOG_STAT counts a displaced record, saturating (Table 13.4). -/
def dropCount (s : State) : State := { s with rep := { s.rep with drops := Nat.min (s.rep.drops + 1) 0xFF } }

/-- Append a record to the health log's staging, assigning its sequence number (R396). When staging is full the oldest
staged record with PERM = 0 makes room; a record that finds none is, with PERM = 0, the one displaced, and waits for room with
PERM = 1, for such a record is never dropped (R397). -/
def hlogStage (r : HlogRec) (s : State) : State :=
  let put := fun (l : List HlogRec) (s : State) =>
    ({ s with rep := { s.rep with staged := l ++ [{ r with seq := s.rep.nextSeq % 2 ^ 32 }], nextSeq := s.rep.nextSeq + 1 } } : State)
  if s.rep.staged.length < 256 then put s.rep.staged s
  else match takeFirst (fun r => !r.perm) s.rep.staged with
    | some (_, l) => put l (dropCount s)
    | none => if r.perm then { s with rep := { s.rep with stageWait := s.rep.stageWait ++ [r] } } else dropCount s

/-- A record of the health log, as of now. -/
def hlog (kind : Nat) (perm : Bool) (st : Status) (unit detail : W64) (s : State) : State :=
  hlogStage { tick := s.time.tmb, seq := 0, kind, perm, status := st, unit, detail } s

/-- Staging has no room for a record with PERM = 1: what needs one waits (R397). -/
def State.permWait (s : State) : Bool := (s.rep.staged.filter (fun r => r.perm)).length ≥ 256

/-! ### Cues (chapter 12) -/

/-- Every cue of the device with its reel and slot. -/
def State.cues (s : State) : List (Nat × Nat × Cue) :=
  s.reels.flatMap (fun R => R.2.seqs.filterMap (fun q => q.2.cue.map (fun c => (R.1, q.1, c))))

/-- The admitted cues (R384, R389). -/
def State.admitted (s : State) : List (Nat × Nat × Cue) := s.cues.filter (fun c => c.2.2.st == .admitted)

/-- HELD of DIR_FLOOR: the highest admission floor among admitted cues, ADM when there are none (Table 12.3). -/
def State.heldFloor (s : State) : Nat :=
  match s.admitted with
  | [] => s.floor.adm
  | l => maxN (l.map (fun c => c.2.2.floor))

/-- The status with which a cue ends now (Table 12.7); a reset of its tiles or its reel is an exception under which the device ends
it (Table 12.8). -/
def cueStatus (now : W64) (halt : Option Status) (c : Cue) : Status :=
  match halt with
  | some h => if h == stUncorrectable || h == stTileReset || h == stReelReset then stAborted else stCueHalted
  | none => if now.toNat ≤ c.deadline then stOk else if c.affected then stLate else stOverrun

/-- A field of the declaration (Table 12.2). -/
def Cue.word (c : Cue) (i : Nat) : W64 := c.decl.getD i 0

/-- A cue boundary passes: the caps written before it are due in the next Gaffer period (R344). -/
def Power.boundary (p : Power) : Power :=
  { p with
    capNext := if p.capDue then some p.cap else p.capNext
    boardNext := if p.boardDue then some p.board else p.boardNext
    phaseNext := if p.phaseDue then p.phaseCaps else p.phaseNext
    capDue := false
    boardDue := false
    phaseDue := false }

/-- The cue of a sequence ends with a status: its activation free leaves USED (R271), a boundary passes (R390), and the
counters and the trace see it (R497, Table 17.11). -/
def cueClose (reel slot : Nat) (st : Status) (s : State) : State :=
  match s.seq reel slot with
  | none => s
  | some q =>
    match q.cue with
    | none => s
    | some c =>
      let s1 := s.modSeq reel slot (fun q => { q with cue := none })
      if c.st == .awaiting then s1
      else
        let s2 := s1.modReel reel (fun R => { R with aqUsed := R.aqUsed - bitsOf (c.word 6) 23 0 })
        let s3 : State := { s2 with pow := s2.pow.boundary }
        let s4 := if st == 0 then s3 else cntReel reel 3 1 s3
        trace 0x03 none 31 reel (c.num + st.toNat * 2 ^ 16) s4

/-- The admitted cue of a sequence (R387). -/
def State.cueIn (s : State) (reel slot : Nat) : Option Cue :=
  match s.seq reel slot with
  | none => none
  | some q => q.cue.bind (fun c => if c.st == .admitted then some c else none)

/-- Declared demands of a cue (Table 12.2). -/
def Cue.near (c : Cue) : Nat := bitsOf (c.word 3) 39 0
def Cue.hbm (c : Cue) : Nat := bitsOf (c.word 4) 47 0
def Cue.send (c : Cue) (n : Nat) : Nat := bitsOf (c.word (9 + n)) 31 0 * 256
def Cue.recv (c : Cue) (n : Nat) : Nat := bitsOf (c.word (9 + n)) 63 32 * 256
def Cue.array (c : Cue) : Nat := bitsOf (c.word 1) 31 0 + bitsOf (c.word 1) 63 32 + bitsOf (c.word 2) 31 0
/-- Vector demand: VEC times 72 / t, as a number of 1/t beats times 72 (R381). -/
def Cue.vec (c : Cue) : Nat := bitsOf (c.word 2) 63 32
def Cue.bke (c : Cue) : Nat := bitsOf (c.word 5) 23 0 * 64

/-- Two byte ranges overlap. -/
def rangesMeet (a n b m : Nat) : Bool := a < b + m && b < a + n && n != 0 && m != 0

/-- Mark every admitted cue that meets a condition as affected, and tell the host (R393, R394): `row` counts the rows of
Table 12.8 from 1. -/
def affectCues (row : Nat) (p : Nat → Nat → Seq → Bool) (s : State) : State :=
  s.reels.foldl (fun s R => R.2.seqs.foldl (fun s q =>
    match q.2.cue with
    | some c =>
      if c.st != .awaiting && p R.1 q.1 q.2 then
        event 0 0x0B R.1 q.1 0 0 (BitVec.ofNat 64 c.num) (BitVec.ofNat 64 row)
          (s.modSeq R.1 q.1 (fun q => { q with cue := q.cue.map (fun c => { c with affected := true }) }))
      else s
    | none => s) s) s

/-- Data of a thread's work was uncorrectable: the exception affects its cue (Table 12.8). -/
def cueHit (r : TRef) (st : Status) (s : State) : State :=
  let t := s.thread r
  if st == stUncorrectable && !t.helper then affectCues 8 (fun reel slot _ => reel == t.reel && slot == t.slot) s else s

/-! ### The local physical map (Table 7.3) -/

inductive Win where
  | near
  | store
  | table
  | reg
  | hbm
  | host
  | none
  deriving DecidableEq, Repr

def storeBase : Nat := 0x1000000000
def tableBase : Nat := 0x1020000000
def regBase : Nat := 0x2000000000
def hbmBase : Nat := 0x10000000000
def hostBase : Nat := 0x40000000000

def winOf (o : Nat) : Win :=
  if o < storeBase then .near
  else if o < tableBase then .store
  else if o < 0x1040000000 then .table
  else if o < regBase then .none
  else if o < 0x2010000000 then .reg
  else if o < hbmBase then .none
  else if o < 0x18000000000 then .hbm
  else if o < hostBase then .none
  else if o < 0x80000000000 then .host
  else .none

/-- A poisoned word meets a range of local addresses (R204). -/
def State.poisoned (s : State) (o n : Nat) : Bool := s.poison.any (fun w => w * 32 < o + n && o < w * 32 + 32)

/-- Add counted service to a cue (R533). -/
def serveCue (reel slot : Nat) (f : Cue → Cue) (s : State) : State :=
  match s.cueIn reel slot with
  | none => s
  | some _ => s.modSeq reel slot (fun q => { q with cue := q.cue.map f })

/-! ### Mirror relationships -/

def State.mir (s : State) (reel : Nat) : Mirror := mget {} s.pairs.mir reel
def State.modMir (s : State) (reel : Nat) (f : Mirror → Mirror) : State :=
  { s with pairs := { s.pairs with mir := mput s.pairs.mir reel (f (s.mir reel)) } }

end Sys2Proof.Machine
end

