-- ==== Sys2Proof/Machine/Mem.lean ====
section
/-! DEFINITION. Memory (chapter 7): the local physical map, the bytes behind it with their poison, and the tables' windows. -/
namespace Sys2Proof.Machine

/-! ### Memory as a sparse list in one canonical form -/

/-- What an address that nothing has written reads as. The manual gives memory no contents at power-on. -/
def memDefault : Byte := 0

/-- The listed byte at an address. -/
def memFind : List Host.Cell → Nat → Option Byte
  | [], _ => none
  | p :: m, a => if p.1 == a then some p.2 else memFind m a

/-- The byte at an address of a list whose unlisted bytes read as the default. -/
def memGet (m : List Host.Cell) (a : Nat) : Byte := (memFind m a).getD memDefault

/-- One byte written; a byte equal to the default is listed only where `keep` says so. -/
def memPut (keep : Bool) : List Host.Cell → Nat → Byte → List Host.Cell
  | [], a, b => if b == memDefault && !keep then [] else [(a, b)]
  | p :: m, a, b =>
    if a < p.1 then (if b == memDefault && !keep then p :: m else (a, b) :: p :: m)
    else if a == p.1 then (if b == memDefault && !keep then m else (a, b) :: m)
    else p :: memPut keep m a b

/-- The canonical form: addresses strictly rising from `lo`, no entry equal to the default but where `keep` says so. -/
def memWfFrom (keep : Nat → Bool) : Nat → List Host.Cell → Bool
  | _, [] => true
  | lo, p :: m => lo ≤ p.1 && (p.2 != memDefault || keep p.1) && memWfFrom keep (p.1 + 1) m

/-- What has last been said of an unlisted byte: a number of free values, cleared, or nothing. -/
def undefAt : List (Nat × Nat × Option Nat) → Nat → Option Nat
  | [], _ => none
  | g :: gs, a => if g.1 ≤ a && a < g.1 + g.2.1 then g.2.2 else undefAt gs a

/-- An unlisted byte of memory: free where its contents are undefined, the default elsewhere. -/
def State.unlisted (s : State) (a : Nat) : Byte :=
  match undefAt s.undef a with
  | some k => Config.freeByte k a
  | none => memDefault

/-- The form of the whole memory. -/
def Memory.wf (s : State) : Bool := memWfFrom (fun a => (undefAt s.undef a).isSome) 0 s.mem

/-! ### Near memory and HBM -/

/-- Layer, column, bank and column offset of a near-memory address (R198). -/
def nearLayer (a : Nat) : Nat := a / 0x300000000
def nearCol (a : Nat) : Nat := a % 0x300000000 / 0xC000000
def nearBank (a : Nat) : Nat := a % 0xC000000 / 0x600000
def colOffset (a : Nat) : Nat := a % 0xC000000
/-- First address of a column. -/
def colBase (layer col : Nat) : Nat := layer * 0x300000000 + col * 0xC000000

/-- The column lies in a cache quarter (R209). -/
def State.cacheQuarter (s : State) (layer col : Nat) : Bool := bitOf s.cache.quarters (4 * layer + col / 16)

/-- The address lies in a roll region (R200). -/
def State.inRoll (s : State) (a : Nat) : Bool :=
  winOf a == .near && a < Config.nearTop s.build && colOffset a ≥ 0xBD00000 && !s.cacheQuarter (nearLayer a) (nearCol a)

/-- End of the populated HBM below the reserve, as an HBM offset (R205, R407). -/
def State.hbmEnd (s : State) : Nat := (137329 - s.rep.rsvRows) * Config.pcs s.build * 4096

/-- The address is populated (R199, R205, R207, R209, R401), and its memory layer is on (R349). -/
def State.populated (s : State) (a : Nat) : Bool :=
  match winOf a with
  | .near => a < Config.nearTop s.build && !s.cacheQuarter (nearLayer a) (nearCol a) && (s.dom (64 + nearLayer a)).st == 2
  | .store => s.tileThere ((a - storeBase) / 0x200000)
  | .table => s.tileThere ((a - tableBase) / 0x10000)
  | .hbm => a - hbmBase < s.hbmEnd
  | .host => true
  | .reg => true
  | .none => false

/-- Scratch near memory: populated, in a scratch quarter, outside the roll region. -/
def State.scratch (s : State) (a : Nat) : Bool := winOf a == .near && s.populated a && !s.inRoll a

/-- Line and row of an HBM offset, and its pseudo-channel (R205). -/
def hbmPcOf (b : Build) (o : Nat) : Nat :=
  let l := o / 4096
  let P := Config.pcs b
  (l % P) ^^^ (l / P % P)

/-- The pseudo-channel that holds an HBM line now: that of the line it was moved to by retirement, if it was (R408). -/
def State.hbmPc (s : State) (o : Nat) : Nat :=
  match mfind s.rep.moved (o / 4096) with
  | some l => hbmPcOf s.build (l * 4096)
  | none => hbmPcOf s.build o

/-! ### The places of roll slots (R248, R253) -/

/-- Lengths of the places of a slot, in their order; the working copy of E2M1 has half the bytes. -/
def placeLens (wf : Bool) : List Nat := [4096, 1024, 32, 1024, 32, if wf then 512 else 1024, 32]

/-- The places that a slot holds, as (address, length). -/
def RollSlot.spans (x : RollSlot) : List (Nat × Nat) :=
  ((x.places.zip (placeLens x.wf)).zipIdx.filter (fun p => x.second || (p.2 != 3 && p.2 != 4))).map (fun p => p.1)

/-- Accesses to the slot's places wait: it is ROLLED, or awaits a query (R253, R255). -/
def RollSlot.holds (x : RollSlot) : Bool := x.mark == 2 || x.query

/-- An access to n bytes of a local address waits at its column: for a roll slot, or for the column's recovery (R253, R255). -/
def State.rollHeld (s : State) (o n : Nat) : Bool :=
  s.bank.roll.any (fun x => x.holds && x.spans.any (fun p => rangesMeet p.1 p.2 o n)) ||
  (winOf o == .near && s.start.recover.contains (nearLayer o, nearCol o))

/-! ### Poison (R204) -/

/-- Mark the words that hold the n bytes from o. -/
def State.mark (s : State) (o n : Nat) : State :=
  let ws := (List.range (ceilDiv (o % 32 + n) 32)).map (fun k => o / 32 + k)
  { s with poison := s.poison ++ ws.filter (fun w => !s.poison.contains w) }

/-- A full overwrite of a word clears its poison. -/
def State.unmark (s : State) (o n : Nat) : State :=
  { s with poison := s.poison.filter (fun w => !(o ≤ w * 32 && w * 32 + 32 ≤ o + n)) }

/-! ### Bytes -/

def memPutAll (keep : Nat → Bool) : List Host.Cell → Nat → List Byte → List Host.Cell
  | m, _, [] => m
  | m, a, b :: bs => memPutAll keep (memPut (keep a) m a b) (a + 1) bs

/-- The entries of a tile's rescale tables: the shadow copy and the active one. -/
def Tile.rtShadow (T : Tile) : SMap (BitVec 128) := if T.rtActive == 0 then T.rt1 else T.rt0
def Tile.rtLive (T : Tile) : SMap (BitVec 128) := if T.rtActive == 0 then T.rt0 else T.rt1
def Tile.rtCopy (T : Tile) (k : Nat) : SMap (BitVec 128) := if k == 0 then T.rt0 else T.rt1
def Tile.cbShadow (T : Tile) : SMap Byte := if T.cbActive == 0 then T.cb1 else T.cb0
def Tile.cbCopy (T : Tile) (k : Nat) : SMap Byte := if k == 0 then T.cb0 else T.cb1

/-- A byte of a tile's table slot, from the shadow copies; the rest of the slot reads as zero (R101, R207). -/
def Tile.tableByte (T : Tile) (o : Nat) : Byte :=
  if o < 0x4000 then BitVec.ofNat 8 ((mget 0 T.rtShadow (o / 16)).toNat >>> (8 * (o % 16)))
  else if o < 0x5000 then mget 0 T.cbShadow (o - 0x4000)
  else 0

/-- A byte stored to a tile's table slot (R207). -/
def Tile.tablePut (T : Tile) (o : Nat) (b : Byte) : Tile :=
  if o < 0x4000 then
    let v := setBits (mget 0 T.rtShadow (o / 16)) (8 * (o % 16) + 7) (8 * (o % 16)) b.toNat
    if T.rtActive == 0 then { T with rt1 := mput T.rt1 (o / 16) v } else { T with rt0 := mput T.rt0 (o / 16) v }
  else if o < 0x5000 then
    if T.cbActive == 0 then { T with cb1 := mput T.cb1 (o - 0x4000) b } else { T with cb0 := mput T.cb0 (o - 0x4000) b }
  else T

/-- One byte at a local address behind the local map's memory windows. -/
def State.byte (s : State) (o : Nat) : Byte :=
  if winOf o == .table then (s.tile ((o - tableBase) / 0x10000)).tableByte ((o - tableBase) % 0x10000) else (memFind s.mem o).getD (s.unlisted o)

def State.bytes (s : State) (o n : Nat) : List Byte := (List.range n).map (fun k => s.byte (o + k))

/-- A 64-bit word, little-endian. -/
def State.word (s : State) (o : Nat) : W64 := BitVec.ofNat 64 (leNat (s.bytes o 8))

def tablePutAll : Tile → Nat → List Byte → Tile
  | T, _, [] => T
  | T, o, b :: bs => tablePutAll (T.tablePut o b) (o + 1) bs

/-- Bytes stored at a local address: to a table window's shadow copy, or to memory, where a full overwrite of a 32-byte
word clears its poison (R204). -/
def State.put (s : State) (o : Nat) (bs : List Byte) : State :=
  if winOf o == .table then
    s.modTile ((o - tableBase) / 0x10000) (fun T => tablePutAll T ((o - tableBase) % 0x10000) bs)
  else { s with mem := memPutAll (fun a => (undefAt s.undef a).isSome) s.mem o bs }.unmark o bs.length

def State.putWord (s : State) (o : Nat) (w : W64) : State := s.put o (leBytes 8 w.toNat)

/-- The cells outside a range. -/
def memOutside (m : List Host.Cell) (o n : Nat) : List Host.Cell := m.filter (fun c => c.1 < o || o + n ≤ c.1)

/-- Zero a range. -/
def State.zero (s : State) (o n : Nat) : State :=
  { s with
    mem := memOutside s.mem o n
    undef := if s.undef.isEmpty then [] else (o, n, none) :: s.undef }.unmark o n

/-- The contents of a range become undefined. -/
def State.undefine (s : State) (o n : Nat) : State :=
  { s with mem := memOutside s.mem o n, undef := (o, n, some s.freeCtr) :: s.undef, freeCtr := s.freeCtr + 1 }

/-- The device finds a word uncorrectable: it is poisoned and recorded, once while poisoned (R204). The local physical
address of the word goes into the MEMERR record. -/
def memErr (w : Nat) (s : State) : State :=
  if s.poison.contains w then s
  else event stUncorrectable 0x04 0 0 0 0 (BitVec.ofNat 64 (w * 32)) 0 { s with poison := s.poison ++ [w] }

end Sys2Proof.Machine
end

