-- ==== Sys2Proof/Machine/Net.lean ====
section
/-! DEFINITION. Sending over the Neotte ports (chapter 10): channels, credits and the replay buffer, routing, forwarding,
and remote requests. -/
namespace Sys2Proof.Machine

/-- Virtual channel of a message type (Table 10.5). -/
def vcOf (mtype : Nat) : Nat :=
  if mtype ≥ 0x30 then 3 else if mtype ≥ 0x21 then 2 else if mtype ≥ 0x11 then 1 else 0

def mtWR : Nat := 0x02
def mtSEM : Nat := 0x03
def mtWATCH : Nat := 0x04
def mtZERO : Nat := 0x05
def mtRDATA : Nat := 0x11
def mtACK : Nat := 0x12
def mtNOTIFY : Nat := 0x13
def mtCDATA : Nat := 0x21
def mtPDATA : Nat := 0x22
def mtMREC : Nat := 0x23
def mtHELLO : Nat := 0x30
def mtCLAIM : Nat := 0x31
def mtROUTE : Nat := 0x32
def mtWITHDRAW : Nat := 0x33
def mtTOLLUP : Nat := 0x34
def mtTOLLDOWN : Nat := 0x35
def mtTOLLQRY : Nat := 0x36
def mtTOLLANS : Nat := 0x37
def mtLOST : Nat := 0x38
def mtCLAP : Nat := 0x39
def mtRATE : Nat := 0x3A
def mtCOPEN : Nat := 0x3B
def mtMCTL : Nat := 0x3C

/-- The port's STATE is UP (Table 10.1). -/
def portIsUp (s : State) (n : Nat) : Bool := n < Config.ports s.build && (s.port n).st == 2
def upPorts (s : State) : List Nat := (List.range (Config.ports s.build)).filter (portIsUp s)

/-- Full credit of each channel (Table 10.3). -/
def fullCredits : List Nat := [192, 192, 384, 64]

/-- A channel has something to send: a message waiting, or one that goes on. -/
def portHas (p : Port) (vc : Nat) : Bool := (mfind p.cur vc).isSome || p.queue.any (fun m => vcOf m.mtype == vc)

/-- The channel that sends next (R293): control, then response, then request and collective in alternation; a channel with
nothing to send or no credit is skipped. -/
def nextVc (p : Port) : Option Nat :=
  let can := fun vc => portHas p vc && p.credits.getD vc 0 != 0
  if can 3 then some 3
  else if can 1 then some 1
  else
    let a := if p.turn then 2 else 0
    let b := if p.turn then 0 else 2
    if can a then some a else if can b then some b else none

/-- One credit to return, oldest channel first (R292). -/
def owedCredit (p : Port) : Nat × Nat :=
  match (List.range 4).find? (fun vc => p.owed.getD vc 0 != 0) with
  | some vc => (vc, Nat.min 255 (p.owed.getD vc 0))
  | none => (0, 0)

/-- What ranks first in an arbiter's choice: a deadline before none, the earlier deadline, then turn (R372, R388). -/
def beforeSet (a b : Option Nat × Nat) : Bool :=
  match a.1, b.1 with
  | some x, some y => x < y || (x == y && a.2 < b.2)
  | some _, none => true
  | none, some _ => false
  | none, none => a.2 < b.2

/-- The channel's next message and the queue without it: the most urgent, and among those of equal urgency the one that came first. -/
def nextMsg (urg : Msg → Option Nat) (vc : Nat) (q : List Msg) : Option (Msg × List Msg) :=
  let best := (q.filter (fun m => vcOf m.mtype == vc)).foldl (fun (b : Option Msg) m => match b with
    | none => some m
    | some x => if beforeSet (urg m, 0) (urg x, 0) then some m else b) none
  best.bind (fun m => takeFirst (fun x => x == m) q)

/-- The payload of a DATA flit of a channel: the message that goes on, then as many others as there is room for, the last of which may go
on in the next; a control message never does (R293). It answers the payload, the slot of the first header, and the messages that end. -/
def packGo (urg : Msg → Option Nat) (vc : Nat) : Nat → Port → List Byte → Nat → List Msg → Port × List Byte × Nat × List Msg
  | 0, p, out, fmh, done => (p, out, fmh, done)
  | k + 1, p, out, fmh, done =>
    let room := 240 - out.length
    match mfind p.cur vc with
    | some (m, bs) =>
      if bs.length ≤ room then packGo urg vc k { p with cur := mdel p.cur vc } (out ++ bs) fmh (done ++ [m])
      else ({ p with cur := mput p.cur vc (m, bs.drop room) }, out ++ bs.take room, fmh, done)
    | none =>
      match nextMsg urg vc p.queue with
      | none => (p, out, fmh, done)
      | some (m, rest) =>
        let bs := msgBytes m
        if room < 16 || (vc == 3 && bs.length > room && room < 240) then (p, out, fmh, done)
        else packGo urg vc k { p with queue := rest, cur := mput p.cur vc (m, bs) } out (if fmh == 31 then out.length / 16 else fmh) done

/-- The port sends what it can, while the replay buffer has room and the channels have credit (R291, R292). -/
def pumpGo (urg : Msg → Option Nat) : Nat → Port → List Flit → Port × List Flit
  | 0, p, out => (p, out)
  | k + 1, p, out =>
    if p.replay.length ≥ 2048 then (p, out)
    else match nextVc p with
      | none => (p, out)
      | some vc =>
        let c := owedCredit p
        let x := packGo urg vc 32 p [] 31 []
        let f : Flit := { kind := 0, vc, seq := p.txSeq, ack := p.rxSeq, crv := c.1, crn := c.2, fmh := x.2.2.1
                          slots := x.2.1 ++ List.replicate (240 - x.2.1.length) 0, msgs := x.2.2.2 }
        pumpGo urg k { x.1 with
          turn := if vc == 0 then true else if vc == 2 then false else p.turn
          txSeq := (p.txSeq + 1) % 4096
          replay := p.replay ++ [f]
          credits := p.credits.set vc (p.credits.getD vc 0 - 1)
          owed := p.owed.set c.1 (p.owed.getD c.1 0 - c.2) } (out ++ [f])

/-- The sequence for which this device sends a message, as (reel, slot): that of the memory operation or of the operation behind it. -/
def msgSeq (s : State) (m : Msg) : Option (Nat × Nat) :=
  let ofBop := fun (id : Nat) => (s.bop id).map (fun o => (o.reel, o.slot))
  if m.src != s.ownId then none
  else if m.mtype == mtCDATA then (s.bank.ops.find? (fun o => o.kind == .coll && o.digest.toNat % 65536 == m.tag)).map (fun o => (o.reel, o.slot))
  else match s.links.reqs.find? (fun q => q.tag == m.tag && q.dst == m.dst && q.mtype == m.mtype) with
    | none => none
    | some q => match q.owner with
      | .part tile op _ => ((s.tile tile).ops.find? (fun o => o.id == op)).map (fun o => (o.reel, o.slot))
      | .scrub op _ => ofBop op
      | .msg op => ofBop op
      | _ => none

/-- Deadline by which a port's queue ranks a message; none for an untimed one (R387, R388, R533). A read counts where its data comes in. -/
def msgUrgency (s : State) (n : Nat) (m : Msg) : Option Nat :=
  (msgSeq s m).bind (fun q => (s.cueIn q.1 q.2).bind (fun c =>
    if (if m.mtype == mtRD then mget 0 c.servRecv n ≥ c.recv n else mget 0 c.servSend n ≥ c.send n) then none else some c.deadline))

/-- Flits leave a port, in order, and are counted as sent (Table 17.7). -/
def emitFlits (n : Nat) (fs : List Flit) (s : State) : State :=
  cntBase (8 * n) fs.length { s with links := { s.links with tx := s.links.tx ++ fs.map (fun f => (n, f)) } }

/-- The data bytes of a message that has left a port count to its cue (R533). -/
def countSent (n : Nat) (m : Msg) (s : State) : State :=
  match msgSeq s m with
  | none => s
  | some q => serveCue q.1 q.2 (fun c => { c with servSend := mput c.servSend n (mget 0 c.servSend n + m.data.length) }) s

def pump (n : Nat) (s : State) : State :=
  if !portIsUp s n then s
  else
    let p := s.port n
    let r := pumpGo (msgUrgency s n) (2 * (p.queue.length + p.cur.length)) p []
    if r.2.isEmpty then s
    else (r.2.flatMap (fun f => f.msgs)).foldl (fun s m => countSent n m s) (emitFlits n r.2 (s.modPort n (fun _ => r.1)))

/-- Hand a message to a port. -/
def sendOn (n : Nat) (m : Msg) (s : State) : State := pump n (s.modPort n (fun p => { p with queue := p.queue ++ [m] }))

/-- The port that routes to another device, when this device may send to it (R297, R299). -/
def routePort (s : State) (d : Nat) : Option Nat :=
  let e := s.route d
  if s.links.claimed && d != s.ownId && e.v then some e.port else none

/-- Send a message of this device to another; without a route it is discarded and counted (R302). -/
def sendMsg (m : Msg) (s : State) : State :=
  match routePort s m.dst with
  | some n => sendOn n { m with dn := (s.route m.dst).dn } s
  | none => { s with links := { s.links with discarded := s.links.discarded + 1 } }

/-- Send a message to every UP port, as flooding does. -/
def flood (m : Msg) (from_ : Option Nat) (s : State) : State :=
  ((upPorts s).filter (fun n => some n != from_)).foldl (fun s n => sendOn n m s) s

/-! ### The spanning tree (R300) -/

/-- Ports that lead to a claimed neighbour. -/
def neighbours (s : State) : List Nat := (upPorts s).filter (fun n => (s.port n).peerV && (s.port n).peer != 0xFFF)

/-- Every device that a neighbour leads to. -/
def reachIds (s : State) : List Nat :=
  nub ((neighbours s).flatMap (fun n => (s.port n).peer :: (s.port n).adv.map (fun a => a.1))) |>.filter (fun d => d != s.ownId)

/-- What a port's far end has announced of a device: its shortest route that starts up, and its shortest whose hops are all down; both are
empty routes when it is the device. -/
def farRoutes (s : State) (n d : Nat) : Option Nat × Option Nat :=
  let p := s.port n
  if p.peer == d then (some 0, some 0) else (mfind p.adv d).getD (none, none)

/-- The root of the spanning tree: the lowest claimed ID known. -/
def rootId (s : State) : Nat := (reachIds s).foldl Nat.min s.ownId

/-- Hops from a port's far end to the root, which lies up. -/
def farLevel (s : State) (n : Nat) : Nat := ((farRoutes s n (rootId s)).1).getD 15

/-- Level of this device in the tree. -/
def ownLevel (s : State) : Nat :=
  if rootId s == s.ownId then 0 else ((neighbours s).map (fun n => farLevel s n + 1)).foldl Nat.min 16

/-- The hop through a port is up: toward a lower level, or a lower ID of the same level. -/
def hopUp (s : State) (n : Nat) : Bool :=
  farLevel s n < ownLevel s || (farLevel s n == ownLevel s && (s.port n).peer < s.ownId)

/-- The port toward this device's parent in the tree. -/
def parentPort (s : State) : Option Nat := if rootId s == s.ownId then none else routePort s (rootId s)

/-- Ports of the tree's edges: the parent's, and those of the children, which announce the root at 15 hops to their parent (DESIGN CHOICE,
log 99). In A mode no routes are announced, and every neighbour counts. -/
def treePorts (s : State) : List Nat :=
  (neighbours s).filter (fun n => s.aMode 4 || parentPort s == some n || (farRoutes s n (rootId s)).1 == some 15)

/-- Requests of channel 0 that a forwarding device answers with NO_ROUTE (R302). -/
def isRequest (mtype : Nat) : Bool := 0x01 ≤ mtype && mtype ≤ 0x05

/-- A completion with a status: ACK carries it in PARAM[15:0] (Table 10.5). -/
def ackMsg (s : State) (dst tag : Nat) (st : Status) : Msg :=
  { mtype := mtACK, dst, src := s.ownId, tag, addr := 0, param := st.toNat }

/-! ### Watches (R161, R309) -/

/-- The comparison of a memory WAIT (R183). -/
def waitCmp (c : Nat) (x v : W64) : Bool :=
  match c with
  | 0 => x == v
  | 1 => x != v
  | 2 => !x.slt v
  | _ => x.slt v

/-- The report that a memory WAIT goes by ends it: it found poison, or a value that compares as asked. -/
def WaitSt.reported (w : WaitSt) : Bool :=
  match w.cond with
  | .mem _ cmp v => w.poisoned || w.seen.any (fun x => waitCmp cmp x v)
  | _ => false

/-- A report of the watched word reaches the WAIT, which evaluates its condition on each report: one that ends it stands, whatever
follows. -/
def WaitSt.report (x : W64) (bad : Bool) (w : WaitSt) : WaitSt := if w.reported then w else { w with seen := some x, poisoned := bad }

/-- A write of a local word, or poison found in it, is reported to every watch on it, with its value or its poison. -/
def notifyWrites (o n : Nat) (s : State) : State :=
  (s.links.watches.filter (fun w => rangesMeet w.addr 8 o n)).foldl (fun s w =>
    let bad := s.poisoned w.addr 8
    match w.owner with
    | some r => s.modThread r (fun t => { t with wait := t.wait.map (WaitSt.report (s.word w.addr) bad) })
    | none => sendMsg { mtype := mtNOTIFY, dst := w.src, src := s.ownId, tag := w.tag, param := if bad then stUncorrectable.toNat else 0, data := leBytes 8 (s.word w.addr).toNat } s) s

/-! ### Requests -/

/-- A message that comes to nothing at a port is discarded and counted (Table 17.7). -/
def discardMsg (port : Nat) (s : State) : State :=
  cntBase (8 * port + 5) 1 { s with links := { s.links with discarded := s.links.discarded + 1 } }

/-- Forward a message addressed to another device (R302); until the device is CLAIMED it forwards none (R297). -/
def forward (m : Msg) (inPort : Nat) (s : State) : State :=
  let e := s.route m.dst
  if !s.links.claimed then { s with links := { s.links with discarded := s.links.discarded + 1 } }
  else if !e.v || m.hops + 1 > 15 then
    let s1 := discardMsg inPort s
    if isRequest m.mtype then sendMsg (ackMsg s m.src m.tag stNoRoute) s1 else s1
  else cntBase (8 * e.port + 7) 1 (sendOn e.port { m with hops := m.hops + 1, dn := m.dn || e.dn } s)

/-- A message arrives on a port: handled here when it is for this device, forwarded otherwise; until the device holds an
ID it accepts only HELLO and CLAIM (R297). -/
def onMsg (port : Nat) (m : Msg) (k : State → State) (s : State) : State :=
  if !portIsUp s port || !s.links.claimed then s
  else if m.dst != s.ownId then forward m port s
  else k s

/-- The port on which messages of a device come (R305). -/
def noteFrom (port dev : Nat) (s : State) : State := { s with links := { s.links with from_ := mput s.links.from_ dev port } }

/-- A request outstanding to the home keeps a new one, or one sent again, from going: it went on another route, or came before and waits
itself (R308, R485). -/
def RemReq.holds (q : RemReq) (dst port : Nat) : Bool := q.dst == dst && q.mtype != 0 && (q.waiting || q.port != port || q.again)

/-- Send a remote request with a fresh tag. A request to a home whose earlier requests took another route waits for them
(R308). False when there is no route. -/
def sendReq (m : Msg) (owner : RemOwner) (s : State) : State × Bool :=
  match routePort s m.dst with
  | none => (s, false)
  | some n =>
    let tag := s.links.nextTag
    let waiting := s.links.reqs.any (fun q => q.holds m.dst n)
    let q : RemReq := { tag, dst := m.dst, port := n, mtype := m.mtype, owner, msg := { m with src := s.ownId, tag }, waiting }
    let s1 : State := { s with links := { s.links with nextTag := (tag + 1) % 65536, reqs := s.links.reqs ++ [q] } }
    (if waiting then s1 else sendOn n { m with src := s.ownId, tag, dn := (s.route m.dst).dn } s1, true)

/-- Requests that waited for a route go, in the order in which they were made, once nothing of their home is outstanding on another. -/
def reqsGo (s : State) : State :=
  (s.links.reqs.filter (fun q => q.waiting)).foldl (fun s q =>
    match routePort s q.dst with
    | none => s
    | some n =>
      let before := s.links.reqs.takeWhile (fun x => x.tag != q.tag)
      if before.any (fun x => x.holds q.dst n) then s
      else sendOn n { q.msg with dn := (s.route q.dst).dn } { s with links := { s.links with
        reqs := mapIf (fun x => x.tag == q.tag) (fun x => { x with waiting := false, port := n }) s.links.reqs } }) s

/-- A remote request leaves the list of those outstanding, and requests that waited for it go. -/
def dropReq (tag : Nat) (s : State) : State :=
  reqsGo { s with links := { s.links with reqs := s.links.reqs.filter (fun q => q.tag != tag) } }

end Sys2Proof.Machine
end

