-- ==== Sys2Proof/Machine/Xlate.lean ====
section
/-! DEFINITION. Translation, permissions and keys (R222 to R230), and the checks on physical addresses. -/
namespace Sys2Proof.Machine

/-- The permission an access needs (Table 7.9). -/
inductive Need where
  | r
  | w
  | rw
  | u
  | c
  | s
  deriving DecidableEq, Repr

/-- The leaf grants the permission (Table 7.6). -/
def leafGrants (leaf : W64) : Need → Bool
  | .r => bitOf leaf 2
  | .w => bitOf leaf 3
  | .rw => bitOf leaf 2 && bitOf leaf 3
  | .u => bitOf leaf 4
  | .c => bitOf leaf 5
  | .s => bitOf leaf 6

/-- The page's key allows the permission: AD denies all, WD every one but R (R224). -/
def keyAllows (pkey : W32) (leaf : W64) (n : Need) : Bool :=
  let k := bitsOf leaf 10 7
  !bitOf pkey (2 * k) && (n == .r || !bitOf pkey (2 * k + 1))

/-- Frame of a leaf, aligned to its page. -/
def frameOf (leaf : W64) : Nat := bitsOf leaf 55 16 * 0x10000
def leafCa (leaf : W64) : Nat := if bitsOf leaf 12 11 == 3 then 0 else bitsOf leaf 12 11

def XEntry.covers (e : XEntry) (va : Nat) : Bool := e.va ≤ va && va < e.va + e.size

/-- A held translation of an address, the tile's cache before the base die's (R226). -/
def lookup (s : State) (tile : Option Nat) (va : Nat) : Option XEntry :=
  let inTile := match tile with
    | some t => (s.tile t).xc.find? (fun e => e.covers va)
    | none => none
  match inTile with
  | some e => some e
  | none => s.xl.base.find? (fun e => e.covers va)

/-- What translating one address gives: a physical address with its cache attribute, a failure with its place in the
order of R225, or no translation held. -/
inductive XRes where
  | ok (pa : Nat) (ca : Nat)
  | bad (rank : Nat) (st : Status)
  | miss
  deriving DecidableEq, Repr

/-- Device ID and local address of a fabric physical address (R206). -/
def paDev (pa : Nat) : Nat := pa / 2 ^ 44 % 4096
def paLocal (pa : Nat) : Nat := pa % 2 ^ 44
def State.isLocal (s : State) (pa : Nat) : Bool := paDev pa == s.ownId

/-- The checks on a translated address in the order of R225. -/
def checkPa (s : State) (need : Need) (leaf : W64) (pa : Nat) : XRes :=
  let loc := s.isLocal pa
  let o := paLocal pa
  if loc && (winOf o == .reg || s.inRoll o) then .bad 2 stPermFault
  else if !(leafGrants leaf need && keyAllows s.xl.pkey leaf need) then .bad 3 stPermFault
  else if loc && !s.populated o then .bad 4 stNoTarget
  else .ok pa (leafCa leaf)

/-- An address under the translation held for it, checked; during a full flush every access waits (R38). -/
def xlateHeld (s : State) (tile : Option Nat) (need : Need) (va : Nat) : XRes :=
  if s.xl.flush then .miss
  else match lookup s tile va with
    | none => .miss
    | some e => checkPa s need e.leaf (frameOf e.leaf + (va - e.va))

/-- Translate and check one address (R222 to R225); a page whose translation has just failed gives that failure. -/
def xlate (s : State) (tile : Option Nat) (need : Need) (va : Nat) : XRes :=
  if va ≥ 2 ^ 52 then .bad 1 stXlateFault
  else match s.xl.bad with
    | some b => if b.1 == va / 0x10000 then .bad 1 b.2 else xlateHeld s tile need va
    | none => xlateHeld s tile need va

/-- The 64 KiB page of an address, by number. -/
def pageOf (va : Nat) : Nat := va / 0x10000

/-- A stretch of an access: virtual address, offset in the operation's data, length within one 256-byte sector. -/
structure Piece where
  va : Nat
  off : Nat
  n : Nat
  deriving DecidableEq, Repr

/-- Cut an access at the bounds of 256-byte sectors; the fuel bounds the number of cuts. -/
def cutPiece : Nat → Nat → Nat → Nat → List Piece
  | 0, _, _, _ => []
  | k + 1, va, off, n =>
    let m := Nat.min n (256 - va % 256)
    if n == 0 then [] else ⟨va, off, m⟩ :: cutPiece k (va + m) (off + m) (n - m)

def pieces (va off n : Nat) : List Piece := cutPiece (n / 256 + 2) va off n

/-- The outcome of checking every stretch of an access: all good, the first failure in the order of R225, or the first
address with no translation held. -/
inductive Checked where
  | ok (l : List (Piece × Nat × Nat))
  | bad (st : Status)
  | miss (va : Nat)
  deriving DecidableEq, Repr

/-- Least rank of the failures, with its status. -/
def worst : List XRes → Option (Nat × Status)
  | [] => none
  | .bad k st :: l =>
    match worst l with
    | some w => if w.1 < k then some w else some (k, st)
    | none => some (k, st)
  | _ :: l => worst l

/-- Check stretches, each for its own permission, before any of them is accessed (R181, R225). -/
def checkMix (s : State) (tile : Option Nat) (l : List (Need × Piece)) : Checked :=
  let rs := l.map (fun p => (p.2, xlate s tile p.1 p.2.va))
  match worst (rs.map (fun x => x.2)) with
  | some (1, st) => .bad st
  | w =>
    match rs.find? (fun x => x.2 == .miss) with
    | some x => .miss x.1.va
    | none =>
      match w with
      | some (_, st) => .bad st
      | none => .ok (rs.filterMap (fun x => match x.2 with
          | .ok pa ca => some (x.1, pa, ca)
          | _ => none))

/-- Check every stretch of an access for one permission. -/
def checkAll (s : State) (tile : Option Nat) (need : Need) (l : List Piece) : Checked := checkMix s tile (l.map (fun p => (need, p)))

/-- A translation enters a tile's cache of 64 entries; when it is full, which entry goes is not specified (R226). -/
def installTile (t va : Nat) (s : State) : State :=
  let T := s.tile t
  if T.xc.any (fun e => e.covers va) then s
  else match s.xl.base.find? (fun e => e.covers va) with
    | none => s
    | some e =>
      let s := cntPmc t 0x0D 0 1 s
      if T.xc.length < 64 then s.setTile t { T with xc := T.xc ++ [e] }
      else
        let f := s.fresh
        f.2.setTile t { T with xc := T.xc.eraseIdx (f.1 % 64) ++ [e] }

/-- The set of the base die's cache that an entry enters: its page number modulo 1,024 (DESIGN CHOICE, log 95). -/
def XEntry.set (e : XEntry) : Nat := e.va / e.size % 1024

/-- A translation enters the base die's cache of 1,024 sets of 16 ways; when its set is full, which entry goes is not specified (R226). -/
def installBase (e : XEntry) (s : State) : State :=
  let rest := s.xl.base.filter (fun x => !(x.va == e.va && x.size == e.size))
  let mine := rest.filter (fun x => x.set == e.set)
  if mine.length < 16 then { s with xl := { s.xl with base := rest ++ [e] } }
  else
    let f := s.fresh
    let out := mine[f.1 % 16]?
    { f.2 with xl := { f.2.xl with base := rest.filter (fun x => some x != out) ++ [e] } }

/-- An invalidation in progress covers an address. -/
def State.invalidating (s : State) (va : Nat) : Bool := s.xl.busy && s.xl.invLo ≤ va && va < s.xl.invHi

/-- An access needs a translation that no cache holds: a walk starts in H mode; in A mode one XMISS record is placed for
the page while its accesses wait (R223, R228). A walk that starts during an invalidation of its page is made again after it (R227).
`agent` is ARG1 of the record (Table 14.11). -/
def needPage (va agent : Nat) (s : State) : State :=
  if s.xl.flush then s
  else if s.xl.walks.any (fun w => pageOf w.va == pageOf va) then s
  else
    let a := s.aMode 1
    let s := cntPmc agent 0x0E 0 1 s
    let s1 : State := { s with xl := { s.xl with walks := s.xl.walks ++ [{ va := pageOf va * 0x10000, aMode := a, root := s.xl.root, again := !a && s.invalidating va }] } }
    if a then event 0 0x02 0 0 0 0 (BitVec.ofNat 64 (pageOf va * 0x10000)) (BitVec.ofNat 64 agent) s1
    else cntBase 135 1 s1

/-- A table of n bytes at a local address may be walked (R223). -/
def tableOk (s : State) (a n : Nat) : Bool :=
  let ok := fun x => (winOf x == .near || winOf x == .hbm) && s.populated x && !s.inRoll x
  ok a && ok (a + n - 1)

/-- One level of the walk. `size` is the bytes that an entry maps, `n` the table's bytes, `next` the size of the next
table; L3 may not hold a leaf, L0 may hold nothing else (R223). -/
inductive WRes where
  | leaf (e : W64) (size : Nat)
  | next (a : Nat)
  | fault (st : Status)
  deriving DecidableEq, Repr

def walkLevel (s : State) (level a idx : Nat) : WRes :=
  let bytes := match level with
    | 3 => 0x10000
    | 0 => 0x100
    | _ => 0x1000
  let size := match level with
    | 2 => 0x40000000
    | 1 => 0x200000
    | _ => 0x10000
  if !tableOk s a bytes then .fault stXlateFault
  else if s.poisoned (a + 8 * idx) 8 then .fault stUncorrectable
  else
    let e := s.word (a + 8 * idx)
    if !bitOf e 0 then .fault stXlateFault
    else if bitOf e 1 then
      if level == 3 || frameOf e % size != 0 then .fault stXlateFault else .leaf e size
    else if level == 0 then .fault stXlateFault
    else
      let nx := bitsOf e 43 8 * 0x100
      if nx % (if level == 1 then 0x100 else 0x1000) != 0 then .fault stXlateFault else .next nx

/-- The walk for an address (R223): a leaf with its page size, or the status with which its accesses complete. -/
def walk (s : State) (va : Nat) : Except Status XEntry :=
  let fin := fun (r : WRes) => match r with
    | .leaf e size => Except.ok (XEntry.mk (va / size * size) size e)
    | .next _ => Except.error stXlateFault
    | .fault st => Except.error st
  match walkLevel s 3 (s.xl.root * 0x10000) (va / 2 ^ 39) with
  | .next a2 =>
    match walkLevel s 2 a2 (va / 2 ^ 30 % 512) with
    | .next a1 =>
      match walkLevel s 1 a1 (va / 2 ^ 21 % 512) with
      | .next a0 => fin (walkLevel s 0 a0 (va / 2 ^ 16 % 32))
      | r => fin r
    | r => fin r
  | r => fin r

end Sys2Proof.Machine
end

