-- ==== Sys2Proof/Machine/Cache.lean ====
section
/-! DEFINITION. The cache (R211 to R221): homes, hits, fills, victims, stores and evictions. -/
namespace Sys2Proof.Machine

/-- Set bits of a number below 2^n. -/
def popcount : Nat → Nat → Nat
  | 0, _ => 0
  | n + 1, v => v % 2 + popcount n (v / 2)

/-- C, the number of cache columns (R211). -/
def State.cacheCols (s : State) : Nat := 16 * popcount 20 s.cache.quarters.toNat

/-- Home of a line by number: cache column and set (R211). -/
def State.lineHome (s : State) (l : Nat) : Nat × Nat :=
  let C := s.cacheCols
  let h := l ^^^ (l >>> 13) ^^^ (l >>> 26)
  (h % C, h / C % 3072)

def setKey (h : Nat × Nat) : Nat := h.1 * 3072 + h.2

def lineOf (pa : Nat) : Nat := pa / 4096 % 2 ^ 44
def sectorOf (pa : Nat) : Nat := pa % 4096 / 256

def State.line (s : State) (l : Nat) : Option CLine := s.cache.lines.find? (fun x => x.line == l)
def State.modLine (s : State) (l : Nat) (f : CLine → CLine) : State :=
  { s with cache := { s.cache with lines := mapIf (fun x => x.line == l) f s.cache.lines } }
def State.setLines (s : State) (ls : List CLine) : State := { s with cache := { s.cache with lines := ls } }

/-- The lines of a line's set. -/
def State.setLinesOf (s : State) (l : Nat) : List CLine :=
  s.cache.lines.filter (fun x => setKey (s.lineHome x.line) == setKey (s.lineHome l))

/-- The 15-node tree of a set after an access to a way: every node on its path points away from it; `toward` points at it
instead, which makes the way the least recently used. -/
def plruGo : Nat → Nat → Nat → Bool → Nat → Nat
  | 0, _, _, _, t => t
  | k + 1, node, way, toward, t =>
    let b := way / 2 ^ k % 2
    let v := if toward then b else 1 - b
    let t' := t - (t / 2 ^ node % 2) * 2 ^ node + v * 2 ^ node
    plruGo k (2 * node + b) way toward t'

def plruTouch (t way : Nat) : Nat := plruGo 4 1 way false t
def plruAge (t way : Nat) : Nat := plruGo 4 1 way true t

/-- The way that the tree points at, skipping subtrees with no eligible way (R216). -/
def plruPick : Nat → Nat → Nat → Nat → (Nat → Bool) → Option Nat
  | 0, _, base, _, ok => if ok base then some base else none
  | k + 1, node, base, t, ok =>
    let b := t / 2 ^ node % 2
    let sub := fun c => plruPick k (2 * node + c) (base + c * 2 ^ k) t ok
    match sub b with
    | some w => some w
    | none => sub (1 - b)

def State.touchLine (s : State) (l : Nat) : State :=
  match s.line l with
  | none => s
  | some x =>
    let key := setKey (s.lineHome l)
    { s with cache := { s.cache with plru := mput s.cache.plru key (plruTouch (mget 0 s.cache.plru key) x.way) } }

/-- A line is filling. -/
def State.filling (s : State) (l : Nat) : Bool := s.cache.fills.any (fun f => f.line == l && !f.stalled)

/-- A line leaves the cache, its dirty bytes written back (R214): HBM bytes stand in memory already, whose one copy every
agent sees, so the write-back shows in the counters alone. -/
def State.evict (s : State) (l : Nat) : State :=
  match s.line l with
  | none => s
  | some x =>
    cntBase 132 x.dirty.length (cntBase 131 1 (s.setLines (s.cache.lines.filter (fun y => y.line != l))))

/-- The way a new line of the set takes: an invalid way first, else the victim's (R216); a line with a fill in progress may be the victim,
since R216 excludes pinned and held ones alone. None: every way is excluded. -/
def State.pickWay (s : State) (l : Nat) : Option (Nat × Option Nat) :=
  let ls := s.setLinesOf l
  match (List.range 16).find? (fun w => !ls.any (fun x => x.way == w)) with
  | some w => some (w, none)
  | none =>
    let ok := fun w => ls.any (fun x => x.way == w && !x.pinned && !x.held && !x.victim)
    (plruPick 4 1 0 (mget 0 s.cache.plru (setKey (s.lineHome l))) ok).map
      (fun w => (w, (ls.find? (fun x => x.way == w)).map CLine.line))

/-- A line enters the cache, empty, as the most or least recently used way (R213). None when no way is eligible. -/
def State.allocLine (s : State) (l ca : Nat) : Option State :=
  match s.pickWay l with
  | none => none
  | some (w, victim) =>
    let s1 := match victim with
      | some v => s.evict v
      | none => s
    let key := setKey (s.lineHome l)
    let t := mget 0 s1.cache.plru key
    some { s1 with cache := { s1.cache with
      lines := s1.cache.lines ++ [{ line := l, ca, way := w }]
      plru := mput s1.cache.plru key (if ca == 2 then plruAge t w else plruTouch t w) } }

/-- An allocating attribute (R213). -/
def allocates (ca : Nat) : Bool := ca == 1 || ca == 2

/-- The access passes through the cache: local HBM always, peer and host memory when their translation allocates (R212). -/
def State.cached (s : State) (pa ca : Nat) : Bool :=
  s.cacheCols != 0 &&
  (if s.isLocal pa then
    (match winOf (paLocal pa) with
      | .hbm => true
      | .host => allocates ca
      | _ => false)
  else allocates ca)

/-- Host memory at a local host-window offset: its bus address (R427). -/
def State.busAddr (s : State) (pa : Nat) : Nat := s.host.hwinBase * 2 ^ 42 + (paLocal pa - hostBase)

/-- The host window serves: EN, Bus Master Enable, and a link that is not degraded (R417, R427). -/
def State.hostOpen (s : State) : Bool := s.host.hwinEn && s.host.bme && !s.host.degraded

/-- Whether a sector can be fetched now: HOST_ABORT while the host window is closed (R427), NO_ROUTE without a port (R301). -/
def State.fetchStatus (s : State) (pa : Nat) : Status :=
  if s.isLocal pa then (if winOf (paLocal pa) == .host && !s.hostOpen then stHostAbort else stOk)
  else if (routePort s (paDev pa)).isNone then stNoRoute else stOk

/-- A physical address lies at a peer or in the host window. -/
def State.far (s : State) (pa : Nat) : Bool := !s.isLocal pa || winOf (paLocal pa) == .host

/-- A request to a peer or to the host for n bytes of a physical address; the failure when none can be sent. -/
def farRead (pa n : Nat) (own : RemOwner) (s : State) : State × Status :=
  if !s.isLocal pa then
    let q := sendReq { mtype := mtRD, dst := paDev pa, src := s.ownId, addr := paLocal pa, len := n } own s
    (q.1, if q.2 then stOk else stNoRoute)
  else if !s.hostOpen then (s, stHostAbort)
  else
    let tag := s.host.nextTag % 2 ^ 14
    (State.send { s with host := { s.host with
      nextTag := s.host.nextTag + 1
      reqs := s.host.reqs ++ [{ tag, owner := own, addr := s.busAddr pa, len := n }] } } (.readReq tag (s.busAddr pa) n), stOk)

/-- Fetch a sector of a line that lies at a peer or at the host; HBM needs no message. -/
def requestSector (l sec : Nat) (s : State) : State :=
  let pa := l * 4096 + sec * 256
  if s.far pa then (farRead pa 256 (.fill l sec) s).1 else s

/-- A miss finds no eligible way: its line waits for one, and the stall is counted (R220). -/
def stallBegin (tile : Option (Nat × Nat)) (l ca : Nat) (sectors : BitVec 16) (s : State) : State :=
  let s1 := cntBase 133 1 { s with cache := { s.cache with fills := s.cache.fills ++ [{ line := l, sectors, alloc := ca, stalled := true }] } }
  match tile with
  | some (t, reel) => cntPmc t 0x0F reel 1 s1
  | none => s1

/-- Begin a fill of one sector, or join it to the line's fill (R213). A line without a way stalls (R220). -/
def startFill (tile : Option (Nat × Nat)) (l sec ca : Nat) (s : State) : State :=
  let bit : BitVec 16 := BitVec.ofNat 16 (2 ^ sec)
  match s.cache.fills.find? (fun f => f.line == l) with
  | some f =>
    let s1 := cntBase 130 1 { s with cache := { s.cache with
      fills := mapIf (fun f => f.line == l) (fun f => { f with sectors := f.sectors ||| bit }) s.cache.fills } }
    if bitOf f.sectors sec || f.stalled then s1 else requestSector l sec s1
  | none =>
    let add := fun (s : State) =>
      ({ s with cache := { s.cache with fills := s.cache.fills ++ [{ line := l, sectors := bit, alloc := ca }] } } : State)
    if (s.line l).isSome then requestSector l sec (add s)
    else match s.allocLine l ca with
      | some s1 => requestSector l sec (add s1)
      | none => stallBegin tile l ca bit s

/-- A read of one sector reaches the cache: a hit, or a miss that fills when it allocates or when the line is present
(R212, R213, R214). -/
def cacheRead (tile : Option (Nat × Nat)) (pa ca : Nat) (s : State) : State :=
  if !s.cached pa ca then s
  else
    let l := lineOf pa
    let pm := fun (ev : Nat) (s : State) => match tile with
      | some (t, reel) => cntPmc t ev reel 1 s
      | none => s
    let present := (s.line l).isSome
    match s.line l with
    | some x =>
      if bitOf x.valid (sectorOf pa) then pm 0x10 (cntBase 128 1 (s.touchLine l))
      else startFill tile l (sectorOf pa) ca (pm 0x11 (cntBase 129 1 (s.touchLine l)))
    | none =>
      let s1 := pm 0x11 (cntBase 129 1 s)
      if allocates ca || present then startFill tile l (sectorOf pa) ca s1 else s1

/-- A sector waits for its line's fill. -/
def State.fillPending (s : State) (pa : Nat) : Bool :=
  s.cache.fills.any (fun f => f.line == lineOf pa && bitOf f.sectors (sectorOf pa))

/-- A store reaches the cache: its bytes become dirty in a local HBM line, which a store miss that allocates creates
(R214); a line of peer or host memory takes the bytes that are present and stays clean (R215). -/
def cacheWrite (pa ca : Nat) (bs : List Byte) (s : State) : State :=
  if s.cacheCols == 0 then s
  else
    let l := lineOf pa
    let offs := (List.range bs.length).map (fun k => pa % 4096 + k)
    if s.isLocal pa && winOf (paLocal pa) == .hbm then
      let s1 := match s.line l with
        | some _ => some (s.touchLine l)
        | none => if allocates ca then s.allocLine l ca else none
      match s1 with
      | some s1 => s1.modLine l (fun x => { x with dirty := x.dirty ++ offs.filter (fun o => !x.dirty.contains o) })
      | none => s
    else
      s.modLine l (fun x => { x with
        data := (List.range bs.length).foldl (fun d k =>
          let o := pa % 4096 + k
          if bitOf x.valid (o / 256) then memPut false d o (bs.getD k 0) else d) x.data })

/-- A read of the sector has to fetch it: it is neither present nor on its way. -/
def State.mustFetch (s : State) (pa : Nat) : Bool := !((s.line (lineOf pa)).any (fun x => bitOf x.valid (sectorOf pa)) || s.fillPending pa)

/-- Drop a local copy of a peer line (R215), keeping a pin. -/
def cacheDrop (pa : Nat) (s : State) : State :=
  match s.line (lineOf pa) with
  | none => s
  | some x =>
    if x.pinned then s.modLine x.line (fun x => { x with valid := 0, dirty := [], data := [] })
    else s.setLines (s.cache.lines.filter (fun y => y.line != x.line))

/-- Bytes of a cached line of peer or host memory. -/
def State.lineBytes (s : State) (pa n : Nat) : List Byte :=
  match s.line (lineOf pa) with
  | none => List.replicate n 0
  | some x => (List.range n).map (fun k => memGet x.data (pa % 4096 + k))

/-! ### Reductions and stalls (R219 to R221) -/

/-- A reduction takes its line: present, or allocated afresh where its translation allocates (R213); one reduction holds a line at a
time, and none a line that a stalled eviction takes (R219, R220, R221). A miss that allocates no line is performed at the memory; one
that finds no eligible way stalls. -/
def holdLine (l ca : Nat) (s : State) : Option State :=
  if (s.line l).any (fun x => x.held || x.victim) then none
  else
    let hold := fun (s : State) => (s.touchLine l).modLine l (fun x => { x with held := true })
    if (s.line l).isSome then some (hold s)
    else if !allocates ca then some s
    else (s.allocLine l ca).map hold

/-- A reduction that finds no eligible way stalls, and the stall is counted (R220). -/
def holdStall (tile : Option (Nat × Nat)) (l ca : Nat) (s : State) : State :=
  if (s.line l).isSome || s.cache.fills.any (fun f => f.line == l) then s else stallBegin tile l ca 0 s

/-- A line is released. The first stalled eviction of its set takes its way (R220). -/
def releaseLine (l : Nat) (s : State) : State :=
  let mine := fun (m : Nat) => setKey (s.lineHome m) == setKey (s.lineHome l)
  let stalls := (s.cache.fills.filter (fun f => f.stalled && mine f.line)).length
  let taken := ((s.setLinesOf l).filter (fun x => x.victim)).length
  s.modLine l (fun x => { x with held := false, victim := !x.pinned && taken < stalls })

end Sys2Proof.Machine
end

