-- ==== Sys2Proof/Machine/Home.lean ====
section
/-! DEFINITION. What a home does with the bytes at its local addresses, and what an operation writes into its descriptor. -/
namespace Sys2Proof.Machine

/-! ### Reading and writing at home -/

/-- Fabric physical address of a local one. -/
def State.fabric (s : State) (o : Nat) : Nat := s.ownId * 2 ^ 44 + o

/-- A write other than a roll commit makes the 64 KiB blocks of a mirrored region that it touches stale (R325). -/
def staleWrite (o n : Nat) (s : State) : State :=
  { s with pairs := { s.pairs with mir := s.pairs.mir.map (fun m =>
      if m.2.st != 1 && m.2.st != 2 then m
      else
        let hit := m.2.regions.zipIdx.filterMap (fun g => if rangesMeet g.1.1 g.1.2 (s.fabric o) n then some g.2 else none)
        (m.1, { m.2 with stale := m.2.stale ++ hit.filter (fun b => !m.2.stale.contains b) })) } }

/-- Stack of an HBM address. -/
def State.stackOf (s : State) (o : Nat) : Nat := s.hbmPc (o - hbmBase) / 64

/-- A store reaches its home in local memory: the bytes, the cache line of an HBM address (R214), and the watches. -/
def homeWrite (o ca : Nat) (bs : List Byte) (s : State) : State :=
  let s1 := s.put o bs
  let s2 := if winOf o != .hbm then s1
    else
      let s2 := cacheWrite (s.fabric o) ca bs s1
      if (s2.line (lineOf (s.fabric o))).isSome then s2 else cntBase (96 + 4 * s.stackOf o + 1) bs.length s2
  staleWrite o bs.length (notifyWrites o bs.length s2)

/-- A cache reduction holds the line of a local address, or a stalled eviction takes it: another waits its turn (R219, R221). -/
def State.lineHeld (s : State) (o : Nat) : Bool := winOf o == .hbm && (s.line (lineOf (s.fabric o))).any (fun x => x.held || x.victim)

/-- The bytes of a stretch at a physical address: local memory, or a cached line of peer or host memory. -/
def readAt (s : State) (pa n : Nat) : List Byte :=
  if s.isLocal pa && winOf (paLocal pa) != .host then s.bytes (paLocal pa) n else s.lineBytes pa n

/-- Poison of a stretch: of the word itself, wherever on the device it lies. -/
def badAt (s : State) (pa n : Nat) : Bool := s.isLocal pa && s.poisoned (paLocal pa) n

/-- What a read of a stretch returns as its status: UNCORRECTABLE for a poisoned word, NO_TARGET when its memory is gone. -/
def readStatus (s : State) (pa n : Nat) : Status :=
  if badAt s pa n then stUncorrectable
  else if s.isLocal pa && !s.populated (paLocal pa) then stNoTarget
  else stOk

/-! ### Roll slots and their commits (R248, R251, R253) -/

def State.modRoll (s : State) (f : List RollSlot → List RollSlot) : State := { s with bank := { s.bank with roll := f s.bank.roll } }

def RollSlot.inCol (x : RollSlot) (layer col : Nat) : Bool := x.layer == layer && x.col == col

/-- The chunk's bytes by place, in the order of the slot's places. -/
def RollSlot.parts (x : RollSlot) : List (Nat × List Byte) :=
  (x.spans.foldl (fun (acc : List (Nat × List Byte) × Nat) p => (acc.1 ++ [(p.1, (x.payload.drop acc.2).take p.2)], acc.2 + p.2)) ([], 0)).1

/-- Mark one slot. -/
def setMark (x : RollSlot) (mark : Nat) (s : State) : State :=
  s.modRoll (mapIf (fun y => y.inCol x.layer x.col && y.slot == x.slot) (fun y => { y with mark, query := false }))

/-- Beats of a column's engine counted to a cue (R533). -/
def serveCol (reel slot layer col beats : Nat) (s : State) : State :=
  serveCue reel slot (fun c => { c with servBke := mput c.servBke (64 * layer + col) (mget 0 c.servBke (64 * layer + col) + beats) }) s

/-- Write a slot's payload to its places: first moment, second moment, working copy, master (R251), in 30 beats of its engine (R238). -/
def commitSlot (x : RollSlot) (s : State) : State :=
  let l := x.parts.drop 1 ++ x.parts.take 1
  let s0 := if x.cue.isSome && (s.cueIn x.reel x.cueSlot).map Cue.num == x.cue then serveCol x.reel x.cueSlot x.layer x.col 30 s else s
  let s1 := l.foldl (fun s p => notifyWrites p.1 p.2.length (s.put p.1 p.2)) s0
  setMark x 3 s1

/-- A running export of the slot's group has yet to take one of its places (R331). -/
def exportHolds (s : State) (x : RollSlot) : Bool :=
  s.pairs.expRun && bitsOf (s.pairs.expWords.getD 0 0) 7 4 == x.group && x.step != s.pairs.expTag &&
  x.spans.any (fun p => s.pairs.expPlaces.any (fun g => rangesMeet g.1 g.2 (s.fabric p.1) p.2))

/-- Commits that wait for the places of a range come first (R239, R253); what rollHeld still finds there waits for a query, for an export
or for its column's recovery. -/
def commitFirst (o n : Nat) (s : State) : State :=
  (s.bank.roll.filter (fun x => x.mark == 2 && !exportHolds s x && x.spans.any (fun p => rangesMeet p.1 p.2 o n))).foldl (fun s x => commitSlot x s) s

/-! ### Descriptors -/

/-- Where a virtual address lies, by a tensor's translated pages: physical address and cache attribute. -/
def paOf (pages : PageMap) (va : Nat) : Nat × Nat :=
  match pages.find? (fun p => p.1 == pageOf va) with
  | some p => (p.2.1 + va % 65536, p.2.2)
  | none => (0, 0)

/-- The page map that a check of page-sized stretches found. -/
def pagesOf (ps : List (Piece × Nat × Nat)) : PageMap :=
  ps.foldl (fun (m : PageMap) x => if m.any (fun p => p.1 == pageOf x.1.va) then m
    else m ++ [(pageOf x.1.va, x.2.1 - x.1.va % 65536, x.2.2)]) []

/-- Bytes that an operation writes into its descriptor: at home, or by message to a peer or the host, whose cached line takes them too
(R215). -/
def descWrite (pages : PageMap) (va : Nat) (bs : List Byte) (s : State) : State :=
  let x := paOf pages va
  if s.isLocal x.1 then
    if winOf (paLocal x.1) == .host then (if s.hostOpen then (cacheWrite x.1 x.2 bs s).send (.write (s.busAddr x.1) bs) else s)
    else homeWrite (paLocal x.1) x.2 bs (commitFirst (paLocal x.1) bs.length s)
  else (sendReq { mtype := mtWR, dst := paDev x.1, src := s.ownId, addr := paLocal x.1, data := bs } .nobody (cacheWrite x.1 x.2 bs s)).1

/-- What an operation writes into its descriptor when it completes: RESULT of a UPD (Table 8.3), FLAGS of an RDW (Table 8.11). -/
def opResult (o : BOp) (s : State) : State :=
  match o.kind with
  | .upd => descWrite o.pages (o.addr + 120) (leBytes 8 (o.flags.toNat + (o.count % 2 ^ 32) * 2 ^ 8 + ((o.first.getD 0) % 2 ^ 24) * 2 ^ 40)) s
  | .rdw => descWrite o.pages (o.addr + 24) (leBytes 1 o.flags.toNat) s
  | _ => s

end Sys2Proof.Machine
end

