-- ==== Sys2Proof/Machine/Ends.lean ====
section
/-! DEFINITION. The issue and the completion of an instruction, and the ends of threads, sequences and token operations. -/
namespace Sys2Proof.Machine

/-! ### Token operations (R160) -/

/-- The operation of a token has completed: the token holds its status. -/
def tokenDone (r : TRef) (tok : Nat) (st : Status) (s : State) : State :=
  if !(s.thread r).live then s
  else s.modThread r (fun t => { t with toks := mapIf (fun k => k.n == tok) (fun k => { k with done := some st }) t.toks })

/-- Lowest token number that the thread does not hold. -/
def freeToken (t : Thread) : Nat := ((List.range 16).find? (fun n => !(t.toks.any (fun k => k.n == n)))).getD 0

/-- An operation that the thread started is still in progress (R142). -/
def busyOps (s : State) (r : TRef) : Bool :=
  let T := s.tile r.tile
  T.ops.any (fun o => o.th == r.th && o.kind != .runahead) || T.mmas.any (fun o => o.th == r.th) ||
  T.rscs.any (fun o => o.th == r.th) || T.cpylWait.any (fun o => o.th == r.th) ||
  (match T.cpyl with
    | some o => o.th == r.th
    | none => false) ||
  s.bank.ops.any (fun o => !o.dead && o.tile == r.tile && o.th == r.th)

/-- Remove a thread: its registers go, and what it started no longer names it (thread number 24 names none). -/
def freeThread (r : TRef) (s : State) : State :=
  let s1 := (raDrop r.tile (fun x => x.th == r.th) s).modTile r.tile (fun T => { T with
    threads := mdel T.threads r.th
    ops := mapIf (fun o => o.th == r.th) (fun o => { o with th := 24, dst := if o.dst == .job then .job else .none }) T.ops
    mmas := mapIf (fun o => o.th == r.th) (fun o => { o with th := 24 }) T.mmas
    rscs := mapIf (fun o => o.th == r.th) (fun o => { o with th := 24 }) T.rscs
    cpyl := T.cpyl.map (fun o => if o.th == r.th then { o with th := 24 } else o)
    cpylWait := mapIf (fun o => o.th == r.th) (fun o => { o with th := 24 }) T.cpylWait })
  { s1 with
    bank := { s1.bank with ops := mapIf (fun o => o.tile == r.tile && o.th == r.th) (fun o => { o with dead := true }) s1.bank.ops }
    links := { s1.links with watches := s1.links.watches.filter (fun w => w.owner != some r) } }

/-- The status of a cue whose sequence halts goes to an event record of R144's type, which names a thread of the sequence that has halted
or is about to (R393; DEDUCED, log 101). -/
def cueRecord (reel slot : Nat) (st : Status) (q : Seq) (halts : Nat → Bool) (s : State) : State :=
  let own := fun (t : Nat) => (s.tile t).threads.find? (fun x => x.2.live && (x.2.halted || halts t) && !x.2.helper && x.2.reel == reel && x.2.slot == slot)
  match q.tiles.find? (fun t => (own t).isSome) with
  | none => event st 0x01 reel slot 0 0 0 0 s
  | some t => event st 0x01 reel slot t (((own t).map (fun x => x.1)).getD 0) (((own t).map (fun x => x.2.pc)).getD 0) 0 s

/-- A sequence ends when every one of its threads has ended or halted: its cue ends, its halted threads go, and its
completion record waits to be written (R142, R378, R393). -/
def seqEnd (reel slot : Nat) (s : State) : State :=
  match s.seq reel slot with
  | none => s
  | some q =>
    if q.ended || !q.live.isEmpty then s
    else
      let st := q.halt.getD stOk
      let s1 := match q.cue with
        | none => s
        | some c =>
          let st := cueStatus s.time.tmb q.halt c
          let s1 := cueClose reel slot st s
          if c.st == .awaiting || q.halt.isNone then s1 else cueRecord reel slot st q (fun _ => false) s1
      let mine := q.tiles.flatMap (fun t => ((s1.tile t).threads.filter
        (fun x => x.2.live && !x.2.helper && x.2.reel == reel && x.2.slot == slot)).map (fun x => TRef.mk t x.1))
      let s2 := mine.foldl (fun s r => freeThread r s) s1
      let s3 := s2.modReel reel (fun R => { R with
        seqs := mput R.seqs slot { q with ended := true, cue := none, live := [] }
        waiting := R.waiting ++ [{ cid := q.cid, status := st, slot := some slot, q := q.q, tick := s2.time.tmb }] })
      trace 0x05 none 31 reel st.toNat s3

/-- A thread that belongs to a sequence leaves it, with the status that halted it if one did. -/
def seqLeave (r : TRef) (reel slot : Nat) (halt : Option Status) (s : State) : State :=
  seqEnd reel slot (s.modSeq reel slot (fun q => { q with
    live := q.live.filter (fun x => x != r)
    halt := match q.halt with
      | some h => some h
      | none => halt }))

/-- A sequence thread whose END waits for its operations ends once the last has completed (R142). -/
def tryEndPlain (r : TRef) (s : State) : State :=
  let t := s.thread r
  match t.held with
  | some h =>
    if h.why == .endOps && !t.helper && !busyOps s r then
      seqLeave r t.reel t.slot none (freeThread r s)
    else s
  | none => s

/-- A token operation completes: its descriptor takes its result, its token holds the status, and an END that waited for it alone completes. -/
def bopEnd (id : Nat) (st : Status) (s : State) : State :=
  match s.bop id with
  | none => s
  | some o =>
    let s1 := opResult o (s.dropBop id)
    if o.dead then s1 else tryEndPlain ⟨o.tile, o.th⟩ (tokenDone ⟨o.tile, o.th⟩ o.tok st s1)

/-- The reel's helper slot passes to the next waiting helper. -/
def helperNext (reel : Nat) (s : State) : State :=
  s.modReel reel (fun R => match R.helperQ with
    | [] => { R with helper := none }
    | h :: hs => { R with helper := some h, helperQ := hs })

/-- A thread of an update helper leaves it. When the last has left, the UPD goes on to stage, or completes with the
halting status and sets SRC (R262). -/
def helperLeave (r : TRef) (reel : Nat) (halt : Option Status) (s : State) : State :=
  match (s.reel reel).helper with
  | none => s
  | some h =>
    let h' : Helper := { h with
      running := h.running.filter (fun x => x != r)
      halt := match h.halt with
        | some x => some x
        | none => halt }
    let s1 := s.modReel reel (fun R => { R with helper := some h' })
    if !h'.running.isEmpty then s1
    else
      let halted := (s1.tile r.tile).threads.filter (fun x => x.2.helper && x.2.reel == reel)
      let s2 := helperNext reel (halted.foldl (fun s x => freeThread ⟨r.tile, x.1⟩ s) s1)
      match h'.halt with
      | none => s2.modBop h'.op (fun o => { o with helperOk := true })
      | some st =>
        let g := ((s2.bop h'.op).map (fun o => o.group)).getD 0
        bopEnd h'.op st (s2.modGroup g (fun x => { x with src := true }))

/-- A thread leaves its sequence or its helper. -/
def threadLeave (r : TRef) (halt : Option Status) (s : State) : State :=
  let t := s.thread r
  if t.helper then helperLeave r t.reel halt (if halt.isNone then freeThread r s else s)
  else seqLeave r t.reel t.slot halt (if halt.isNone then freeThread r s else s)

/-- A thread halts with a status (R144): it issues nothing further, and a HALT event record names it. -/
def haltThread (r : TRef) (st : Status) (pc : W64) (s : State) : State :=
  let t := s.thread r
  if t.halted then s
  else
    let s1 := (if t.waitsBar then foleyLeave r.tile s else s).modThread r (fun t => { t with halted := true, held := none, wait := none })
    let s2 := event st 0x01 t.reel t.slot r.tile r.th pc 0 s1
    threadLeave r (some st) (trace 0x07 (some r.tile) r.th t.reel st.toNat s2)

/-- A thread's END completes, or the thread's last operation completes under a waiting END (R142). -/
def tryEnd (r : TRef) (s : State) : State :=
  let t := s.thread r
  match t.held with
  | some h => if h.why == .endOps && !busyOps s r then threadLeave r none s else s
  | none => s

/-- A token operation completes with a status (R160): its descriptor takes its result, and what waited for it goes on. -/
def bopFinish (id : Nat) (st : Status) (s : State) : State :=
  match s.bop id with
  | none => s
  | some o =>
    let s1 := opResult o (s.dropBop id)
    if o.dead then s1 else tryEnd ⟨o.tile, o.th⟩ (cueHit ⟨o.tile, o.th⟩ st (tokenDone ⟨o.tile, o.th⟩ o.tok st s1))

/-! ### The completion of an instruction (R144) -/

/-- TIL_TSTAT takes a status: LAST always; FIRST and FV when it is the first failure since FV was cleared. -/
def Thread.record (t : Thread) (st : Status) : Thread :=
  if st != 0 && !t.fv then { t with last := st, first := st, fv := true } else { t with last := st }

/-- The HALTM bit of the status's class is set (Table 5.5). -/
def Thread.haltsOn (t : Thread) (st : Status) : Bool :=
  st != 0 && statusClass st ≥ 1 && bitOf t.haltm (statusClass st - 1)

/-- An instruction of a thread completes: its status is recorded, the thread goes on at `pc`, and halts when its mask or
the instruction (`force`) says so. `n` fetched words are used up. -/
def finishAt (r : TRef) (st : Status) (force : Bool) (n : Nat) (pc : W64) (s : State) : State :=
  let t := s.thread r
  let s1 := s.modThread r (fun t => { t.record st with held := none, wait := none, desc := [], descRead := [], fetched := t.fetched.drop n })
  if st != 0 && (force || t.haltsOn st) then
    (haltThread r st t.pc s1).modThread r (fun t => if t.live then { t with pc := pc } else t)
  else s1.modThread r (fun t => { t with pc := pc })

/-- A memory or array instruction completes after its issue: its status is recorded, and halts the thread when HALTM
says so (R144). -/
def complete (r : TRef) (st : Status) (pc : W64) (s : State) : State :=
  let t := s.thread r
  if !t.live then s
  else
    let s1 := cueHit r st (s.modThread r (fun t => t.record st))
    if t.haltsOn st then haltThread r st pc s1 else s1

/-- The words of an instruction with or without an extension word (R167). -/
def lenOf (x : Option W64) : Nat := if x.isSome then 2 else 1

/-- Completion with a status at the next sequential instruction. -/
def finish (r : TRef) (x : Option W64) (st : Status) (s : State) : State :=
  finishAt r st false (lenOf x) ((s.thread r).pc + BitVec.ofNat 64 (8 * lenOf x)) s

/-- Completion with a status that halts the thread whatever HALTM holds (R148, R169). -/
def finishHalt (r : TRef) (x : Option W64) (st : Status) (s : State) : State :=
  finishAt r st true (lenOf x) ((s.thread r).pc + BitVec.ofNat 64 (8 * lenOf x)) s

/-- Successful completion after a change of the thread's registers. -/
def finishWith (r : TRef) (x : Option W64) (f : Thread → Thread) (s : State) : State :=
  finish r x stOk (s.modThread r f)

/-- The thread holds an instruction that cannot issue yet (R143). -/
def hold (r : TRef) (i : Instr) (w : Why) (s : State) : State := s.modThread r (fun t => { t with held := some ⟨i, w⟩ })

/-! ### Issue (R143) -/

/-- A register that an instruction names. -/
inductive Reg where
  | s (n : Nat)
  | v (n : Nat)
  | m (n : Nat)
  | d (n : Nat)
  deriving DecidableEq, Repr

/-- The register that a memory operation still owes. -/
def Dst.reg : Dst → Option Reg
  | .none => Option.none
  | .scalar rd _ => some (.s rd)
  | .desc rd => some (.d rd)
  | .lanes vd _ _ => some (.v vd)
  | .stream vd _ => some (.v vd)
  | .job => Option.none

/-- A load or SEM of the thread still owes one of the registers: the instruction's latency is unmet. -/
def owes (s : State) (r : TRef) (regs : List Reg) : Bool :=
  (s.tile r.tile).ops.any (fun o => o.th == r.th && (match o.dst.reg with
    | some g => g != .s 0 && regs.contains g
    | none => false))

/-- The thread has a request that waits for a slot (R163): of an access or of an MMA's operands, not of an operation that runs
independently of it (R160). -/
def slotWaiting (s : State) (r : TRef) : Bool :=
  (s.tile r.tile).ops.any (fun o => o.th == r.th && o.kind != .runahead && o.parts.any (fun p => !p.issued) &&
    (o.dst != .job || (s.tile r.tile).mmas.any (fun q => q.staged.any (fun x => x.op == some o.id))))

/-- A SEM with ACQ of the thread has not returned (R159). -/
def acqWaiting (s : State) (r : TRef) : Bool := (s.tile r.tile).ops.any (fun o => o.th == r.th && o.acq)

/-- The thread can issue: it is live, not halted, and waits for nothing; no tile issues in Retention (R465). -/
def canIssue (s : State) (r : TRef) : Bool :=
  let t := s.thread r
  !s.sec.retention && t.live && !t.halted && !t.dbgHalt && t.held.isNone && t.wait.isNone && !slotWaiting s r

/-- The tile's sequencer has issued an instruction of the thread: counted (Table 17.4), and the rotation goes on after it (R143). -/
def granted (r : TRef) (s : State) : State := cntFix r.tile 1 1 (s.modTile r.tile (fun T => { T with lastIssue := r.th }))

/-- Issue an instruction of a thread: nothing happens when the thread cannot issue; the instruction is held while a
register it names is owed; otherwise it does its work, and has been granted unless it must wait. -/
def issue (r : TRef) (i : Instr) (regs : List Reg) (k : State → State) (s : State) : State :=
  if !canIssue s r then s
  else if owes s r regs then hold r i .regs s
  else
    let s1 := k s
    if (s1.thread r).held.isNone || (s1.thread r).wait.isSome then granted r s1 else s1

/-- An instruction that the profile does not have, or whose extension word breaks the rule: ILLEGAL_OP (R169). -/
def illegalT (r : TRef) (x : Option W64) (s : State) : State :=
  if !canIssue s r then s else finishHalt r x stIllegalOp (granted r s)

/-! ### The accesses of an instruction -/

/-- Check the accesses of an instruction of a thread, and go on with what is found: complete with the failure, wait for a
page, or continue with the physical stretches (step 5 of R197). `agent` is that of a translation-miss record. -/
def withAccessMix (r : TRef) (i : Instr) (x : Option W64) (agent : Nat) (l : List (Need × Piece))
    (k : List (Piece × Nat × Nat) → State → State) (s : State) : State :=
  match checkMix s (some r.tile) l with
  | .bad st =>
    let s := trace 0x40 (some r.tile) r.th (s.thread r).reel (((l.head?.map (fun p => p.2.va)).getD 0) / 2 ^ 20) s
    finish r x st s
  | .miss va => needPage va agent (hold r i (.page (pageOf va)) s)
  | .ok ps => k ps (ps.foldl (fun s p => installTile r.tile p.1.va s) s)

/-- The same for one permission, with the tile as the agent. -/
def withAccess (r : TRef) (i : Instr) (x : Option W64) (need : Need) (l : List Piece)
    (k : List (Piece × Nat × Nat) → State → State) (s : State) : State :=
  withAccessMix r i x r.tile (l.map (fun p => (need, p))) k s

/-! ### Cores of the control processors (R150, R191 to R194) -/

/-- The Director decides: it has an active core and no takeover runs (R410). -/
def State.directorUp (s : State) : Bool := !s.rep.dirActive.isEmpty && s.rep.dirFailed.isEmpty

/-- The processor runs: Gaffer and the SP while the island is up, from their checked ROM and then their section; the Director, Grip and
Continuity once stage S10 has started them from the image that S3 verified (R150, R471). -/
def procRuns (s : State) (p : Nat) : Bool :=
  if p ≥ 4 then s.start.phase != .off && s.start.phase != .clockHold
  else s.start.phase == .run || (s.start.phase == .take && s.start.stage ≥ 11)

/-- The core exists and executes: not held by WFI or an access, and, of the Director's cores, active (R28). -/
def coreReady (s : State) (p c : Nat) : Bool :=
  let k := s.core p c
  c < coresOf p && procRuns s p && !k.wfi && !k.busy && (p != 1 || s.rep.dirActive.contains c)

/-- A core's fetch at its program counter fails (R171, R191): the words lie outside every window of the local map, or in one that
holds no memory, or are poisoned. Where a verified image stands is not given, so no more is checked (DESIGN CHOICE, log 96). -/
def coreFetchBad (s : State) (p c len : Nat) : Option Status :=
  let a := (s.core p c).pc.toNat
  let w := winOf (a + 8 * len - 1)
  if a + 8 * len > 2 ^ 44 || w == .none || w == .reg || w == .host then some stPermFault
  else if s.poisoned a (8 * len) then some stUncorrectable
  else none

/-- Exception entry (Table 6.13); the target level is supervisor from user level and firmware otherwise (R150). -/
def Core.enter (k : Core) (cause : Status) (epc : W64) (target : Nat) : Core :=
  { k with
    epc := epc
    cause := cause
    pie := k.ie
    ppriv := k.priv
    ie := false
    priv := target
    pc := if target == 1 then k.tvecS else k.tvecF }

def exception (p c : Nat) (cause : Status) (s : State) : State :=
  s.modCore p c (fun k => k.enter cause k.pc (if k.priv == 0 then 1 else 3))

/-- A core executes an instruction of some words: a fetch fault raises an exception in its place (R171, R193). -/
def coreRun (p c : Nat) (x : Option W64) (k : State → State) (s : State) : State :=
  if !coreReady s p c then s
  else match coreFetchBad s p c (lenOf x) with
    | some st => exception p c st s
    | none => k s

/-- An Idmon-C instruction completes with success at the next instruction. -/
def finishC (p c : Nat) (x : Option W64) (f : Core → Core) (s : State) : State :=
  s.modCore p c (fun k => { f k with pc := k.pc + BitVec.ofNat 64 (8 * lenOf x) })

/-- An instruction of Idmon-T alone: on a core it is ILLEGAL_OP (R169). -/
def tOnly (w : Who) (i : Instr) (x : Option W64) (xOk : Bool) (regs : List Reg) (k : TRef → State → State) (s : State) : Res :=
  .next (match w with
    | .t r => if xOk then issue r i regs (k r) s else illegalT r x s
    | .c p c => coreRun p c x (exception p c stIllegalOp) s)

/-- An instruction of Idmon-C alone: on a tile sequencer it is ILLEGAL_OP (R169). -/
def cOnly (w : Who) (x : Option W64) (k : Nat → Nat → State → State) (s : State) : Res :=
  .next (match w with
    | .t r => illegalT r x s
    | .c p c => coreRun p c x (fun s => if x.isNone then k p c s else exception p c stIllegalOp s) s)

/-- An instruction of both profiles. -/
def both (w : Who) (i : Instr) (x : Option W64) (xOk : Bool) (regs : List Reg) (k : TRef → State → State)
    (kc : Nat → Nat → State → State) (s : State) : Res :=
  .next (match w with
    | .t r => if xOk then issue r i regs (k r) s else illegalT r x s
    | .c p c => coreRun p c x (fun s => if xOk then kc p c s else exception p c stIllegalOp s) s)

end Sys2Proof.Machine
end

