-- ==== Sys2Proof/Machine/Numbers.lean ====
section
/-! DEFINITION. The number formats of chapter 2: exact values, their decoding, rounding, conversion, arithmetic, block
scaling and L8, each with the numeric flags it raises (Table 2.8). -/
namespace Sys2Proof.Machine

/-- An exact value: a NaN, an infinity, or (-1)^neg m 2^e with a signed zero. -/
inductive Num where
  | nan
  | inf (neg : Bool)
  | fin (neg : Bool) (m : Nat) (e : Int)
  deriving DecidableEq, Repr

/-- Numeric flags (Table 2.8). -/
abbrev Flags4 := BitVec 4
def fNV : Flags4 := 1
def fOF : Flags4 := 2
def fUF : Flags4 := 4
def fNF : Flags4 := 8

/-- What a floating-point format does with the exponent of all ones (Table 2.1). -/
inductive Specials where
  | ieee
  | e4m3
  | none
  deriving DecidableEq, Repr

/-- A floating-point format (Table 2.1): width, exponent and mantissa bits, bias, special patterns. -/
structure FFmt where
  w : Nat
  eb : Nat
  mb : Nat
  bias : Nat
  sp : Specials
  deriving DecidableEq, Repr

def fF32 : FFmt := ⟨32, 8, 23, 127, .ieee⟩
def fF16 : FFmt := ⟨16, 5, 10, 15, .ieee⟩
def fBF16 : FFmt := ⟨16, 8, 7, 127, .ieee⟩
def fE4M3 : FFmt := ⟨8, 4, 3, 7, .e4m3⟩
def fE5M2 : FFmt := ⟨8, 5, 2, 15, .ieee⟩
def fE3M2 : FFmt := ⟨6, 3, 2, 3, .none⟩
def fE2M3 : FFmt := ⟨6, 2, 3, 1, .none⟩
def fE2M1 : FFmt := ⟨4, 2, 1, 1, .none⟩

/-- Exponent of the unit of the subnormal range. -/
def FFmt.qmin (f : FFmt) : Int := 1 - (f.bias : Int) - f.mb
/-- Largest finite value as significand and unit exponent (Table 2.2). -/
def FFmt.max (f : FFmt) : Nat × Int :=
  match f.sp with
  | .ieee => (2 ^ (f.mb + 1) - 1, (2 ^ f.eb - 2 : Nat) - (f.bias : Int) - f.mb)
  | .e4m3 => (2 ^ (f.mb + 1) - 2, (2 ^ f.eb - 1 : Nat) - (f.bias : Int) - f.mb)
  | .none => (2 ^ (f.mb + 1) - 1, (2 ^ f.eb - 1 : Nat) - (f.bias : Int) - f.mb)
/-- Pattern of the largest finite value, without its sign. -/
def FFmt.maxPat (f : FFmt) : Nat :=
  match f.sp with
  | .ieee => (2 ^ f.eb - 2) * 2 ^ f.mb + (2 ^ f.mb - 1)
  | .e4m3 => 2 ^ (f.eb + f.mb) - 2
  | .none => 2 ^ (f.eb + f.mb) - 1
/-- The canonical NaN (Table 2.4). -/
def FFmt.nanPat (f : FFmt) : Nat :=
  match f.sp with
  | .ieee => (2 ^ f.eb - 1) * 2 ^ f.mb + 2 ^ (f.mb - 1)
  | .e4m3 => 2 ^ (f.eb + f.mb) - 1
  | .none => 0
def FFmt.infPat (f : FFmt) : Nat := (2 ^ f.eb - 1) * 2 ^ f.mb
def FFmt.signed (f : FFmt) (neg : Bool) (p : Nat) : Nat := p + b2n neg * 2 ^ (f.w - 1)

/-- The value of a pattern (R46, R47). -/
def FFmt.decode (f : FFmt) (p : Nat) : Num :=
  let neg := (p >>> (f.w - 1)) % 2 == 1
  let E := (p >>> f.mb) % 2 ^ f.eb
  let M := p % 2 ^ f.mb
  if f.sp == .ieee && E == 2 ^ f.eb - 1 then (if M == 0 then .inf neg else .nan)
  else if f.sp == .e4m3 && E == 2 ^ f.eb - 1 && M == 2 ^ f.mb - 1 then .nan
  else if E == 0 then .fin neg M f.qmin
  else .fin neg (2 ^ f.mb + M) ((E : Int) - f.bias - f.mb)

/-- Rounding modes (Table 2.6); 0b11 rounds RNE (R66). -/
inductive RMode where
  | rne
  | rtz
  | sr
  deriving DecidableEq, Repr

def rmodeOf (c : Nat) : RMode :=
  match c % 4 with
  | 1 => .rtz
  | 2 => .sr
  | _ => .rne
def satOf (c : Nat) : Bool := (c / 4) % 2 == 1

/-- A magnitude m 2^e, or just above it when `sticky`, rounded to a multiple of 2^q: the multiple, and whether a draw was
taken. `u` is the 16-bit draw of R68. -/
def roundAt (mode : RMode) (u m : Nat) (e q : Int) (sticky : Bool) : Nat × Bool :=
  if e ≥ q then (m * 2 ^ (e - q).toNat, false)
  else
    let sh := (q - e).toNat
    let a := m / 2 ^ sh
    let r := m % 2 ^ sh
    if r == 0 && !sticky then (a, false)
    else
      match mode with
      | .rtz => (a, false)
      | .rne =>
        let half := 2 ^ (sh - 1)
        (if r > half || (r == half && (sticky || a % 2 == 1)) then a + 1 else a, false)
      | .sr => (if u < (r * 65536) / 2 ^ sh then a + 1 else a, true)

/-- The exponent of the unit to which a magnitude rounds when p bits of mantissa follow the leading one. -/
def unitExp (mb : Nat) (qmin : Int) (m : Nat) (e : Int) : Int :=
  let q := (Nat.log2 m : Int) + e - mb
  if q < qmin then qmin else q

/-- m 2^e > n 2^q. -/
def gtMag (m : Nat) (e : Int) (n : Nat) (q : Int) : Bool :=
  if e ≥ q then m * 2 ^ (e - q).toNat > n else m > n * 2 ^ (q - e).toNat
def eqMag (m : Nat) (e : Int) (n : Nat) (q : Int) : Bool :=
  if e ≥ q then m * 2 ^ (e - q).toNat == n else m == n * 2 ^ (q - e).toNat

/-- The pattern of n 2^q, where q is a unit exponent of the format. -/
def FFmt.encode (f : FFmt) (n : Nat) (q : Int) : Nat :=
  if n == 0 then 0
  else if n < 2 ^ f.mb then n
  else
    let n' := if n ≥ 2 ^ (f.mb + 1) then n / 2 else n
    let q' := if n ≥ 2 ^ (f.mb + 1) then q + 1 else q
    (q' + f.mb + f.bias).toNat * 2 ^ f.mb + (n' - 2 ^ f.mb)

/-- The result of a conversion: the pattern, the flags it raises, and whether it took a draw. -/
structure Conv where
  pat : Nat
  flags : Flags4
  drew : Bool
  deriving DecidableEq, Repr

/-- The overflow row of Table 2.7 for a floating-point destination. -/
def FFmt.overflow (f : FFmt) (mode : RMode) (sat neg : Bool) : Conv :=
  if f.sp == .ieee && !(mode == .rtz || sat) then ⟨f.signed neg f.infPat, fOF ||| fNF, false⟩
  else ⟨f.signed neg f.maxPat, fOF, false⟩

/-- A finite non-zero magnitude converted (R66 to R71). -/
def FFmt.convFin (f : FFmt) (mode : RMode) (sat : Bool) (u : Nat) (neg : Bool) (m : Nat) (e : Int) (sticky : Bool) : Conv :=
  let q := unitExp f.mb f.qmin m e
  let above := gtMag m e f.max.1 f.max.2 || (sticky && eqMag m e f.max.1 f.max.2)
  let mode' := if mode == .sr && above then .rne else mode
  let r := roundAt mode' u m e q sticky
  if gtMag r.1 q f.max.1 f.max.2 then f.overflow mode sat neg
  else if above && mode == .sr then ⟨f.signed neg f.maxPat, 0, false⟩
  else ⟨f.signed neg (f.encode r.1 q), if r.1 == 0 then fUF else 0, r.2⟩

/-- Conversion of a value to a floating-point format (R70, R71, Table 2.7). -/
def FFmt.conv (f : FFmt) (mode : RMode) (sat : Bool) (u : Nat) (x : Num) : Conv :=
  match x with
  | .nan => if f.sp == .none then ⟨0, fNV, false⟩ else ⟨f.nanPat, fNF, false⟩
  | .inf neg =>
    match f.sp with
    | .ieee => if sat then ⟨f.signed neg f.maxPat, fOF, false⟩ else ⟨f.signed neg f.infPat, fNF, false⟩
    | .e4m3 => ⟨f.nanPat, fOF ||| fNF, false⟩
    | .none => ⟨f.signed neg f.maxPat, fOF, false⟩
  | .fin neg m e => if m == 0 then ⟨f.signed neg 0, 0, false⟩ else f.convFin mode sat u neg m e false

/-- Conversion to I8, unscaled (Table 2.7, R71). -/
def convI8 (mode : RMode) (u : Nat) (x : Num) : Conv :=
  match x with
  | .nan => ⟨0, fNV, false⟩
  | .inf neg => ⟨if neg then 0x80 else 0x7F, fOF, false⟩
  | .fin neg m e =>
    if m == 0 then ⟨0, 0, false⟩
    else
      let big := gtMag m e (if neg then 128 else 127) 0
      let r := roundAt (if mode == .sr && big then .rne else mode) u m e 0 false
      let v : Int := if neg then -(r.1 : Int) else r.1
      if v > 127 then ⟨0x7F, fOF, false⟩
      else if v < -128 then ⟨0x80, fOF, false⟩
      else ⟨patternOf 8 v, if r.1 == 0 then fUF else 0, r.2⟩

/-! ### Arithmetic on exact values -/

/-- A signed mantissa. -/
def sgnMul (neg : Bool) (m : Nat) : Int := if neg then -(m : Int) else m
/-- Mantissa of a value brought to exponent q, which is not above its own. -/
def alignTo (m : Int) (e q : Int) : Int := m * 2 ^ (e - q).toNat
def minInt (a b : Int) : Int := if a ≤ b then a else b
/-- A finite value from a signed mantissa, `zneg` being the sign of a zero. -/
def finOf (v : Int) (q : Int) (zneg : Bool) : Num := if v == 0 then .fin zneg 0 0 else .fin (v < 0) v.natAbs q

/-- The exact sum, and whether it makes a NaN from operands that are not NaN (R118). -/
def numAdd (x y : Num) : Num × Bool :=
  match x, y with
  | .nan, _ => (.nan, false)
  | _, .nan => (.nan, false)
  | .inf a, .inf b => if a == b then (.inf a, false) else (.nan, true)
  | .inf a, .fin .. => (.inf a, false)
  | .fin .., .inf b => (.inf b, false)
  | .fin a m e, .fin b n f =>
    let q := minInt e f
    (finOf (alignTo (sgnMul a m) e q + alignTo (sgnMul b n) f q) q (a && b && m == 0 && n == 0), false)

def numNeg : Num → Num
  | .nan => .nan
  | .inf a => .inf (!a)
  | .fin a m e => .fin (!a) m e

/-- The exact product, and whether it makes a NaN from operands that are not NaN. -/
def numMul (x y : Num) : Num × Bool :=
  match x, y with
  | .nan, _ => (.nan, false)
  | _, .nan => (.nan, false)
  | .inf a, .inf b => (.inf (a != b), false)
  | .inf a, .fin b n _ => if n == 0 then (.nan, true) else (.inf (a != b), false)
  | .fin a m _, .inf b => if m == 0 then (.nan, true) else (.inf (a != b), false)
  | .fin a m e, .fin b n f => (.fin (a != b) (m * n) (e + f), false)

/-- x y + z exactly, with the NaN rule of R49 and R72 (one rounding follows, R117). -/
def numFma (x y z : Num) : Num × Bool :=
  let p := numMul x y
  match x, y, z with
  | .nan, _, _ => (.nan, false)
  | _, .nan, _ => (.nan, false)
  | _, _, .nan => (.nan, false)
  | _, _, _ => if p.2 then (.nan, true) else numAdd p.1 z

/-- x < y on values that are not NaN, zeros equal. -/
def numLt (x y : Num) : Bool :=
  match x, y with
  | .nan, _ => false
  | _, .nan => false
  | .inf a, .inf b => a && !b
  | .inf a, .fin .. => a
  | .fin .., .inf b => !b
  | .fin a m e, .fin b n f =>
    let q := minInt e f
    alignTo (sgnMul a m) e q < alignTo (sgnMul b n) f q

def numEq (x y : Num) : Bool :=
  match x, y with
  | .nan, _ => false
  | _, .nan => false
  | _, _ => !numLt x y && !numLt y x

def Num.isNan : Num → Bool
  | .nan => true
  | _ => false
def Num.isNeg : Num → Bool
  | .nan => false
  | .inf a => a
  | .fin a _ _ => a
def Num.isZero : Num → Bool
  | .fin _ m _ => m == 0
  | _ => false
def Num.isFin : Num → Bool
  | .fin .. => true
  | _ => false

/-- maximumNumber picks its second operand (R74). -/
def maxPicksY (x y : Num) : Bool :=
  if x.isNan then true else if y.isNan then false
  else if numEq x y then x.isNeg && !y.isNeg else numLt x y
/-- minimumNumber picks its second operand (R74). -/
def minPicksY (x y : Num) : Bool :=
  if x.isNan then true else if y.isNan then false
  else if numEq x y then !x.isNeg && y.isNeg else numLt y x

def numMax (x y : Num) : Num := if maxPicksY x y then y else x
def numMin (x y : Num) : Num := if minPicksY x y then y else x

/-- Rounding of an arithmetic result to nearest in a format, with NV when it is a fresh NaN (R117, R118). -/
def roundResult (f : FFmt) (r : Num × Bool) : Nat × Flags4 :=
  let c := f.conv .rne false 0 r.1
  (c.pat, if r.2 then c.flags ||| fNV else c.flags)

/-! ### Division and square root in F32, one rounding -/

/-- The quotient of two magnitudes as m 2^e with a sticky bit: 64 bits and more of quotient. -/
def divMag (m : Nat) (e : Int) (n : Nat) (f : Int) : Nat × Int × Bool :=
  let k := 64 + Nat.log2 n
  let a := m * 2 ^ k
  (a / n, e - f - k, a % n != 0)

/-- x / y rounded once (R243). -/
def divResult (f : FFmt) (x y : Num) : Nat × Flags4 :=
  match x, y with
  | .nan, _ => roundResult f (.nan, false)
  | _, .nan => roundResult f (.nan, false)
  | .inf _, .inf _ => roundResult f (.nan, true)
  | .inf a, .fin b _ _ => roundResult f (.inf (a != b), false)
  | .fin a _ _, .inf b => roundResult f (.fin (a != b) 0 0, false)
  | .fin a m e, .fin b n g =>
    if n == 0 then (if m == 0 then roundResult f (.nan, true) else roundResult f (.inf (a != b), false))
    else if m == 0 then roundResult f (.fin (a != b) 0 0, false)
    else
      let d := divMag m e n g
      let c := f.convFin .rne false 0 (a != b) d.1 d.2.1 d.2.2
      (c.pat, c.flags)

/-- Integer square root by digits, 0 beyond the fuel. -/
def isqrtGo : Nat → Nat → Nat → Nat → Nat
  | 0, _, _, r => r
  | k + 1, n, b, r => if (r + b) * (r + b) ≤ n then isqrtGo k n (b / 2) (r + b) else isqrtGo k n (b / 2) r
/-- Floor of the square root. -/
def isqrt (n : Nat) : Nat := let k := Nat.log2 n / 2 + 1; isqrtGo (k + 1) n (2 ^ k) 0

/-- The square root rounded once (R243). -/
def sqrtResult (f : FFmt) (x : Num) : Nat × Flags4 :=
  match x with
  | .nan => roundResult f (.nan, false)
  | .inf true => roundResult f (.nan, true)
  | .inf false => roundResult f (.inf false, false)
  | .fin a m e =>
    if m == 0 then roundResult f (.fin a 0 0, false)
    else if a then roundResult f (.nan, true)
    else
      let e' := if e % 2 == 0 then e else e - 1
      let m' := if e % 2 == 0 then m else 2 * m
      let n := m' * 2 ^ 128
      let r := isqrt n
      let c := f.convFin .rne false 0 false r (e' / 2 - 64) (r * r != n)
      (c.pat, c.flags)

/-! ### Element formats (Table 5.11) -/

/-- Element formats by FMT code. -/
inductive Elem where
  | fl (f : FFmt)
  | i8
  | i4
  | l8
  deriving DecidableEq, Repr

/-- The format of a code; none when reserved (Table 5.11). -/
def elemOf : Nat → Option Elem
  | 0 => some (.fl fF32)
  | 1 => some (.fl fF16)
  | 2 => some (.fl fBF16)
  | 3 => some (.fl fE4M3)
  | 4 => some (.fl fE5M2)
  | 5 => some (.fl fE3M2)
  | 6 => some (.fl fE2M3)
  | 7 => some (.fl fE2M1)
  | 8 => some .i8
  | 9 => some .i4
  | 10 => some .l8
  | _ => none

def Elem.width : Elem → Nat
  | .fl f => f.w
  | .i8 => 8
  | .i4 => 4
  | .l8 => 8

/-- SCALED agrees with Table 5.11. -/
def scaledOk (fmt : Nat) (scaled : Bool) : Bool :=
  if fmt ≤ 2 then !scaled else if fmt ≤ 8 then true else scaled

/-- T[r] of Table 2.5 as an F32 significand, the value being the number over 2^23. -/
def l8T (r : Nat) : Nat := [8388608, 9147842, 9975792, 10878679, 11863283, 12937002, 14107901, 15384775].getD r 0

/-- 2^((2r+1)/16) as a number over 2^120, rounded down. -/
def l8B (r : Nat) : Nat :=
  [1388077946866724599490991485597428099, 1513709734600277834988959997473109395,
   1650712170592277903162727189928440827, 1800114386435530987524443705065550941,
   1963038658089922344445966958135484254, 2140708836167891170511667294315996557,
   2334459539225929520970318931692332647, 2545746179120050526084107482798174239].getD r 0

/-- The exact value that L8 code c stands for, before its scale (R53). -/
def l8Value (c : Nat) : Num :=
  if c == 0 then .fin false 0 0
  else
    let k : Int := (c : Int) - 255
    .fin false (l8T (k % 8).toNat) (k / 8 - 23)

/-- The boundary between codes c and c + 1 under scale 2^se: the nearest F32 value (R54). -/
def l8Boundary (se : Int) (c : Nat) : Num :=
  let k : Int := (c : Int) - 255
  fF32.decode (fF32.convFin .rne false 0 false (l8B (k % 8).toNat) (k / 8 - 120 + se) true).pat

/-- The L8 code nearest to a value under scale 2^se, with the flags of R54; UF for every non-zero value written as 0 (R71). -/
def convL8 (se : Int) (x : Num) : Conv :=
  match x with
  | .nan => ⟨0, fNV, false⟩
  | .inf neg => if neg then ⟨0, fNV, false⟩ else ⟨255, fOF, false⟩
  | .fin neg m e =>
    if m == 0 then ⟨0, 0, false⟩
    else if neg then ⟨0, fNV, false⟩
    else
      let v : Num := .fin false m e
      let c := ((List.range 255).find? (fun c => numLt v (l8Boundary se c) || (numEq v (l8Boundary se c) && c % 2 == 0))).getD 255
      ⟨c, (if c == 0 then fUF else 0) ||| (if gtMag m e 1 se then fOF else 0), false⟩

/-- The value of an element pattern, unscaled (R46 to R53). -/
def Elem.decode : Elem → Nat → Num
  | .fl f, p => f.decode p
  | .i8, p => let v := signedOf 8 p; .fin (v < 0) v.natAbs 0
  | .i4, p => let v := signedOf 4 p; .fin (v < 0) v.natAbs 0
  | .l8, c => l8Value c

/-- A value times 2^k. -/
def numScale (x : Num) (k : Int) : Num :=
  match x with
  | .fin a m e => .fin a m (e + k)
  | y => y

/-- A block-scaled element as its exact value: NaN under scale 0xFF (R58, R59). -/
def scaledValue (el : Elem) (scale pat : Nat) : Num :=
  if scale == 0xFF then .nan else numScale (el.decode pat) ((scale : Int) - 127)

/-- A block-scaled element decoded into F32, with one rounding (R58). -/
def decodeScaled (el : Elem) (scale pat : Nat) : Nat × Flags4 :=
  let c := fF32.conv .rne false 0 (scaledValue el scale pat)
  (c.pat, c.flags)

/-- Conversion to an unscaled element, or under scale 2^se to a scaled one; L8 keeps its own rule (R54). -/
def Elem.conv (el : Elem) (mode : RMode) (sat : Bool) (u : Nat) (se : Int) (x : Num) : Conv :=
  match el with
  | .fl f => f.conv mode sat u (numScale x (-se))
  | .i8 => convI8 mode u (numScale x (-se))
  | .i4 => ⟨0, 0, false⟩
  | .l8 => convL8 se x

/-- Max of R60. -/
def Elem.maxFin : Elem → Nat × Int
  | .fl f => f.max
  | .i8 => (127, 0)
  | .i4 => (7, 0)
  | .l8 => (1, 0)

/-- The element format has no NaN and no infinity (R61). -/
def Elem.plain : Elem → Bool
  | .fl f => f.sp == .none
  | _ => true

/-- amax of a group: the largest finite magnitude (R60). -/
def amaxOf : List Num → Num
  | [] => .fin false 0 0
  | .fin _ m e :: xs => numMax (.fin false m e) (amaxOf xs)
  | _ :: xs => amaxOf xs

/-- The scale exponent of a group, before clamping: the smallest e with amax at most Max 2^e (R60). -/
def scaleExp (el : Elem) (m : Nat) (x : Int) : Int :=
  let mx := el.maxFin
  let e0 := (Nat.log2 m : Int) + x - ((Nat.log2 mx.1 : Int) + mx.2)
  if gtMag m x mx.1 (mx.2 + e0) then e0 + 1 else e0

/-- The scale code of a group that holds no NaN or infinity its format cannot carry (R60). -/
def scaleCode (el : Elem) (vals : List Num) : Nat :=
  match amaxOf vals with
  | .fin _ m x =>
    if m == 0 then 127
    else
      let e := scaleExp el m x
      ((if e < -127 then -127 else if e > 127 then 127 else e) + 127).toNat
  | _ => 127

/-- The group holds a value that its format cannot represent (R61). -/
def groupBad (el : Elem) (vals : List Num) : Bool := el.plain && vals.any (fun v => !v.isFin)

/-- Flags of a group that R61 writes as scale 0xFF. -/
def groupBadFlags (vals : List Num) : Flags4 :=
  fNF ||| (if vals.any Num.isNan then fNV else 0) ||| (if vals.any (fun v => !v.isFin && !v.isNan) then fOF else 0)

end Sys2Proof.Machine
end

