-- ==== Sys2Proof/Machine/Operands.lean ====
section
/-! DEFINITION. The operand forms of chapter 6: immediates, offsets and index pairs. -/
namespace Sys2Proof.Machine

/-- The immediate of format S (R173): the extension word, else IMM16 sign-extended. -/
def SForm_imm (f : SForm) : W64 :=
  match f.x with
  | some x => x
  | none => sext16 f.imm

/-- The operand b of Table 6.5 from a register file. -/
def opB (f : SForm) (reg : Nat → W64) : W64 := if f.i then SForm_imm f else reg f.rb.toNat

/-- The extension word of an operation that defines a long immediate with I = 1 only (Table 6.4). -/
def longImmOk (f : SForm) : Bool := f.x.isNone || f.i

/-- Registers that a scalar operation names. -/
def aluRegs (f : SForm) : List Reg := [.s f.rd.toNat, .s f.ra.toNat] ++ (if f.i then [] else [.s f.rb.toNat])

/-- The offset of a format-S memory form (R181). -/
def offsetOf (f : SForm) : W64 := SForm_imm f

/-- Start index of dimension d of a tensor operand from its index pair (R175), before the rank is applied. -/
def startIdx (i0 i1 : W64) : Nat → Nat
  | 0 => bitsOf i0 19 0
  | 1 => bitsOf i1 19 0
  | 2 => bitsOf i1 39 20
  | _ => bitsOf i1 59 40

/-! ### Tensor descriptors (Table 5.9) -/

def dBase (d : DReg) : Nat := bitsOf d 51 0
def dFmt (d : DReg) : Nat := bitsOf d 55 52
def dScaled (d : DReg) : Bool := bitOf d 56
/-- Group size from its coding (Table 5.9). -/
def gszOf (c : Nat) : Nat := 32 * (c % 4 + 1)
def dGsz (d : DReg) : Nat := gszOf (bitsOf d 58 57)
def dGdirN (d : DReg) : Bool := bitOf d 59
def dGaxis (d : DReg) : Nat := bitsOf d 61 60
/-- Number of dimensions. -/
def dRank (d : DReg) : Nat := bitsOf d 63 62 + 1
def dI4zp (d : DReg) : Bool := bitOf d 124
/-- Extent of a dimension; 1 at or above the rank (R152). -/
def dExt (d : DReg) (k : Nat) : Nat :=
  if k ≥ dRank d then 1
  else match k with
    | 0 => bitsOf d 83 64
    | 1 => bitsOf d 103 84
    | 2 => bitsOf d 123 104
    | _ => bitsOf d 147 128
/-- Stride of a dimension from 1; 0 at or above the rank. -/
def dStride (d : DReg) (k : Nat) : Nat :=
  if k ≥ dRank d then 0
  else match k with
    | 1 => bitsOf d 183 148
    | 2 => bitsOf d 219 184
    | _ => bitsOf d 255 220
/-- Element width in bits. -/
def dWidth (d : DReg) : Nat := ((elemOf (dFmt d)).map Elem.width).getD 8

/-- The descriptor check of R153. -/
def descOk (d : DReg) : Bool :=
  (elemOf (dFmt d)).isSome && scaledOk (dFmt d) (dScaled d) &&
  (List.range (dRank d)).all (fun k => dExt d k != 0) && dGaxis d < dRank d && dBase d % 32 == 0

/-- The start indices of a tensor operand; a dimension at or above the rank starts at 0 (R175). -/
def starts (d : DReg) (i0 i1 : W64) : List Nat :=
  (List.range 4).map (fun k => if k < dRank d then startIdx i0 i1 k else 0)

/-- A start index lies at or beyond its extent (R175). -/
def startsOk (d : DReg) (st : List Nat) : Bool := (List.range (dRank d)).all (fun k => st.getD k 0 < dExt d k)

/-- Row of the C32 layout for indices of dimensions 1 to 3 (R231). -/
def rowAddr (d : DReg) (i1 i2 i3 : Nat) : Nat :=
  dBase d + i1 * dStride d 1 + i2 * dStride d 2 + i3 * dStride d 3

/-- Row offset of the scale area (R232). -/
def scaleOff (d : DReg) : Nat := ceilDiv (ceilDiv (dExt d 0) 32 * 4 * dWidth d) 32 * 32

/-- Address and lowest bit of an element (R231). -/
def elemAt (d : DReg) (i0 i1 i2 i3 : Nat) : Nat × Nat :=
  (rowAddr d i1 i2 i3 + dWidth d * i0 / 8, dWidth d * i0 % 8)

/-- Row indices and byte index of the scale of an element (R232). -/
def scaleAt (d : DReg) (i0 i1 i2 i3 : Nat) : Nat :=
  let g := dGsz d
  match dGaxis d with
  | 0 => rowAddr d i1 i2 i3 + scaleOff d + i0 / g
  | 1 => rowAddr d (i1 / g * g) i2 i3 + scaleOff d + i0
  | 2 => rowAddr d i1 (i2 / g * g) i3 + scaleOff d + i0
  | _ => rowAddr d i1 i2 (i3 / g * g) + scaleOff d + i0

/-- Number of scale bytes of a row that holds scales; the I4 selectors follow them (R232). -/
def scaleCount (d : DReg) : Nat := if dGaxis d == 0 then ceilDiv (dExt d 0) (dGsz d) else dExt d 0
def selectorAt (d : DReg) (i0 i1 i2 i3 : Nat) : Nat := scaleAt d i0 i1 i2 i3 + scaleCount d

end Sys2Proof.Machine
end

