-- ==== Sys2Proof/Machine/Split.lean ====
section
/-! DEFINITION. The split registers (R35 to R45, R439): modes and their effective points. -/
namespace Sys2Proof.Machine

/-- The material that a function's A mode needs is held (R39). -/
def State.material (s : State) (fn : Nat) : Bool :=
  match fn with
  | 2 => s.bank.updValid
  | 5 => s.pow.tcoefValid
  | 8 => s.start.planv
  | 10 => s.pow.phaseCaps.isSome
  | _ => true

/-- The effective point of a function: a pending change applies, or is refused for want of its material (R36, R39). -/
def splitPoint (fn : Nat) (s : State) : State :=
  let p := s.split fn
  if !p.pend then s
  else if p.req && !s.material fn then
    event 0 0x03 0 0 0 0 (BitVec.ofNat 64 fn) 0 (s.modSplit fn (fun p => { p with pend := false, refused := true }))
  else s.modSplit fn (fun p => { p with pend := false, act := p.req })

/-- A new requested mode (R37): a change pends, a return to the active mode pends no longer. -/
def splitRequest (fn : Nat) (req : Bool) (s : State) : State :=
  s.modSplit fn (fun p => { p with req, pend := req != p.act })

/-- The device is quiet (R210): no live sequence, no UPD, RDW, COLL, PERM or SCRUB, no host DMA transfer. -/
def State.quiet (s : State) : Bool :=
  s.reels.all (fun R => R.2.seqs.all (fun q => q.2.ended)) && s.bank.ops.all (fun o => o.kind == .toll) &&
  s.host.dma.all (fun d => d.2.cur.isNone)

end Sys2Proof.Machine
end

