-- ==== Sys2Proof/Machine/Domain.lean ====
section
/-! DEFINITION. The power domains (R348 to R350, R400). -/
namespace Sys2Proof.Machine

/-- The build has the domain (Tables 11.6 and 11.15). -/
def domThere (b : Build) (n : Nat) : Bool :=
  match b with
  | .t => n < 96
  | .s => n < 16 || n == 64 || n == 65 || (69 ≤ n && n ≤ 74) || (81 ≤ n && n ≤ 84) || (89 ≤ n && n ≤ 96)

/-- Tile-group domain of a logical tile (R348). -/
def groupDom (t : Nat) : Nat := 4 * (t / 16) + t % 16 / 4

/-- The tile-group domain that serves a logical tile (R348, R400). -/
def servingDom (s : State) (t : Nat) : Nat := if (mfind s.rep.spareOf t).isSome then 4 * (t / 16) + 3 else groupDom t

/-- The domain is ON. -/
def State.domOn (s : State) (n : Nat) : Bool := (s.dom n).st == 2

/-- A tile holds a thread or a handle, or a live sequence names it (Table 11.6). -/
def tileBusy (s : State) (t : Nat) : Bool :=
  (s.tile t).threads.any (fun x => x.2.live) || !(s.tile t).sets.isEmpty ||
  s.reels.any (fun R => R.2.seqs.any (fun q => !q.2.ended && q.2.tiles.contains t))

/-- A logical tile's work counts for a tile-group domain: its own, and the spare's for group 3 of its slab (R400). -/
def worksIn (s : State) (n t : Nat) : Bool :=
  groupDom t == n || ((mfind s.rep.spareOf t).isSome && n == 4 * (t / 16) + 3)

/-- A mirror relationship exists: the primary has opened it and not lost it, or the partner has accepted it (R323, R328). -/
def State.mirrored (s : State) : Bool := s.pairs.mir.any (fun m => m.2.st == 1 || m.2.st == 2) || s.pairs.pmir.any (fun m => m.2.st ≥ 2)

def State.anyReelOpen (s : State) : Bool := s.reels.any (fun R => R.2.state == 1)
def State.dmaBusy (s : State) : Bool := s.host.dma.any (fun d => d.2.cur.isSome)

/-- The busy condition of Table 11.6. -/
def domBusy (s : State) (n : Nat) : Bool :=
  if n < 64 then (List.range (Config.tiles s.build)).any (fun t => worksIn s n t && tileBusy s t)
  else if n < 69 then s.anyReelOpen || s.dmaBusy || (List.range 4).any (fun q => bitOf s.cache.quarters (4 * (n - 64) + q))
  else if n < 81 then false
  else if n < 89 then s.anyReelOpen || s.dmaBusy
  else match n with
    | 89 => true
    | 90 => s.anyReelOpen
    | 91 => !(upPorts s).isEmpty
    | 92 => s.mirrored || s.pairs.expBusy
    | 93 => !(upPorts s).isEmpty
    | 94 => s.obs.trcEn
    | 95 => s.sec.ide.any (fun x => x.active.isSome)
    | _ => (List.range 64).any (fun k => (s.dom k).st != 0)

/-- What a stopped domain loses (R349): a tile group the stores and tables of the tiles that it serves, a memory layer its contents and its repairs
not yet fused (R405) with the roll slots in it. The loss of a port's link is Reset.lean's. -/
def domLose (n : Nat) (s : State) : State :=
  if n < 64 then
    ((List.range (Config.tiles s.build)).filter (fun t => servingDom s t == n)).foldl (fun s t =>
      let c := s.freeCtr
      let rt := fun (b : Nat) => (List.range 1024).map (fun k => (k, BitVec.ofNat 128 (Config.freeNat (c + b + k))))
      let cb := fun (b : Nat) => (List.range 4096).map (fun k => (k, BitVec.ofNat 8 (Config.freeNat (c + b + k))))
      let s1 : State := { s with freeCtr := c + 10240 }
      (s1.modTile t (fun T => { T with rt0 := rt 0, rt1 := rt 1024, cb0 := cb 2048, cb1 := cb 6144 })).undefine
        (storeBase + t * 0x200000) 0x200000) s
  else if n < 69 then
    ({ s with
      bank := { s.bank with roll := s.bank.roll.filter (fun x => x.layer != n - 64) }
      rep := { s.rep with rows := s.rep.rows.filter (fun r => r.fused || winOf r.addr != .near || nearLayer r.addr != n - 64) } } : State).undefine
      ((n - 64) * 0x300000000) 0x300000000
  else s

/-- An event record when a start or stop completes and EVT is set (Table 11.8). -/
def domEvent (n : Nat) (s : State) : State :=
  if (s.dom n).evt then event (s.dom n).status 0x0A 0 0 0 0 3 (BitVec.ofNat 64 n) s else s

/-- A stop begins. -/
def domStop (n : Nat) (s : State) : State := s.modDom n (fun d => { d with st := 3, pendOn := false, pendOff := false })
/-- A start begins. -/
def domStart (n : Nat) (s : State) : State := s.modDom n (fun d => { d with st := 1, pendOn := false, pendOff := false })
/-- A domain is off at once, by the orderly stop, a trip or a reset. -/
def domOff (n : Nat) (s : State) : State := s.modDom n (fun d => { d with st := 0, pendOn := false, pendOff := false })

def domStatus (n : Nat) (st : Status) (s : State) : State := s.modDom n (fun d => { d with status := st })

/-- An enable request (Table 11.7). -/
def domEnable (n : Nat) (s : State) : State :=
  let d := s.dom n
  if d.pendOn then domStatus n stDeferred s
  else if d.pendOff then domStatus n stOk (s.modDom n (fun d => { d with pendOff := false }))
  else match d.st with
    | 0 => domStatus n stOk (domStart n s)
    | 3 => domStatus n stDeferred (s.modDom n (fun d => { d with pendOn := true }))
    | _ => domStatus n stOk s

/-- A disable request (Table 11.7). -/
def domDisable (n : Nat) (s : State) : State :=
  let d := s.dom n
  if d.pendOff then domStatus n stDeferred s
  else if d.pendOn then domStatus n stOk (s.modDom n (fun d => { d with pendOn := false }))
  else match d.st with
    | 1 => domStatus n stDeferred (s.modDom n (fun d => { d with pendOff := true }))
    | 2 => if domBusy s n then domStatus n stDomainBusy s else domStatus n stOk (domStop n s)
    | _ => domStatus n stOk s

/-- A write of GAF_DOM_CTL_n (R350): an enable and a disable in one write are both ignored. -/
def domWrite (n : Nat) (v : W64) (s : State) : State :=
  if !domThere s.build n then s
  else
    let s1 := s.modDom n (fun d => { d with evt := bitOf v 6 })
    match bitOf v 0, bitOf v 1 with
    | true, false => domEnable n s1
    | false, true => domDisable n s1
    | _, _ => s1

def execEnReq (n : Nat) (v : W64) (s : State) : Res := .next (hostWrite (fun s => domWrite n v s) s)
def execDisReq (n : Nat) (v : W64) (s : State) : Res := .next (hostWrite (fun s => domWrite n v s) s)

/-- A start completes; PENDING-OFF is checked for busy again, and then the stop begins (R350). -/
def domStartDone (n : Nat) (s : State) : State :=
  if (s.dom n).st != 1 then s
  else
    let off := (s.dom n).pendOff
    let s1 := domEvent n (s.modDom n (fun d => { d with st := 2, pendOff := false }))
    if !off then s1 else if domBusy s1 n then domStatus n stDomainBusy s1 else domStop n s1

end Sys2Proof.Machine
end

