-- ==== Sys2Proof/Machine/Window.lean ====
section
/-! DEFINITION. The writing window (R367) and the permanent writes that it governs: lifecycle fuses, the security version,
the certificate chain, the start journal, row fuses and the lifetime counts. -/
namespace Sys2Proof.Machine

/-- Tg lies between 10 and 85 degrees C inclusive (R367). -/
def State.windowOpen (s : State) : Bool := 40 ≤ s.pow.tg && s.pow.tg ≤ 340

/-! ### Row fuses (R405) -/

/-- An admitted cue declares HBM bytes. -/
def State.hbmCued (s : State) : Bool := s.admitted.any (fun c => c.2.2.hbm != 0)

/-- The row's spare can be fused now: an HBM row only while no admitted cue declares HBM bytes. -/
def rowFusable (s : State) (r : RowRep) : Bool := r.switched && !r.fused && (winOf r.addr == .near || !s.hbmCued)

/-- One soft repair becomes permanent and ROW_FUSED is staged. -/
def fuseRow (s : State) (r : RowRep) : State :=
  if !rowFusable s r || s.permWait then s
  else hlog 0x06 true 0 (BitVec.ofNat 64 r.addr) (BitVec.ofNat 64 r.spare)
    { s with rep := { s.rep with rows := mapIf (fun x => x == r) (fun x => { x with fused := true }) s.rep.rows } }

/-- The fuse commit (R405); it is finished when every switched row is fused. A full log refuses it (R397). -/
def fuseCommit (s : State) : State × Bool :=
  if s.rep.pfull then
    ({ s with rep := { s.rep with
        rprBusy := s.rep.rprBusy && s.rep.runOp != 1
        rprStatus := if s.rep.rprBusy && s.rep.runOp == 1 then stRepairExhausted else s.rep.rprStatus } }, true)
  else
    let s1 := s.rep.rows.foldl fuseRow s
    if s1.rep.rows.any (fun r => r.switched && !r.fused) then (s1, false)
    else
      ({ s1 with rep := { s1.rep with
          rprBusy := s1.rep.rprBusy && s1.rep.runOp != 1
          rprStatus := if s1.rep.rprBusy && s1.rep.runOp == 1 then stOk else s1.rep.rprStatus } }, true)

/-! ### The start journal (R473, R474, R477) -/

/-- The stage has an alternate (Table 16.2). -/
def stageAlt (n : Nat) : Bool := [1, 3, 5, 6, 7, 8, 9, 10, 11].contains n
/-- Only S8 is optional. -/
def stageOptional (n : Nat) : Bool := n == 8

/-- A record reaches the ring, and with it the counts and selections that it changes (R473, R474). -/
def Start.write (st : Start) (r : JRec) : Start :=
  let st1 : Start := { st with ring := mput st.ring st.next r, next := (st.next + 1) % 4088 }
  if r.stage == 15 then { st1 with takes := r.take }
  else
    let c := mget (0, 0) st.counts r.stage
    match r.path, r.result with
    | 0, 0 => { st1 with counts := mput st.counts r.stage (0, c.2) }
    | 1, 0 => { st1 with counts := mput st.counts r.stage (c.1, 0), slot := if r.stage == 3 then 1 - st.slot else st.slot }
    | 0, 1 =>
      let n := Nat.min 3 (c.1 + 1)
      { st1 with counts := mput st.counts r.stage (n, c.2), sel := if n == 3 && stageAlt r.stage then mput st.sel r.stage 1 else st.sel }
    | 1, 1 =>
      let n := Nat.min 2 (c.2 + 1)
      { st1 with counts := mput st.counts r.stage (c.1, n), sel := if n == 2 && stageOptional r.stage then mput st.sel r.stage 2 else st.sel }
    | _, _ => st1

/-- The journal as it will stand when the staged records are written. -/
def Start.ahead (st : Start) : Start := st.staged.foldl Start.write st

/-- The stage plan is valid: every byte 0, 1 or 2, and no required stage skipped (R475). -/
def planOk (m : SMap Byte) : Bool :=
  (List.range 12).all (fun k => let b := (mget 0 m k).toNat
    b < 2 || (b == 2 && stageOptional k))

/-! ### The writes -/

/-- The tag of an identity key, or of any byte string (R446). -/
def tagOf (pk : List Byte) : W64 := BitVec.ofNat 64 (leNat (Config.shake256 pk 8))

/-- Bytes put into a byte map. -/
def bytePut (m : SMap Byte) (o : Nat) : List Byte → SMap Byte
  | [] => m
  | b :: bs => bytePut (mput m o b) (o + 1) bs

/-- What a lifecycle transition writes (Table 15.2); NEXT takes the new state. -/
def lcWrite (op : Nat) (arg : List Byte) (secret : BitVec 256) (s : State) : State :=
  let c := s.sec
  let c1 : Sec := match op with
    | 0 =>
      let pk := Config.identityKey secret
      { c with
        uds := secret
        pk := pk
        idTag := tagOf pk
        certWin := bytePut (bytePut c.certWin 0xFFC0 (pk.take 32)) 0xFFE0 (leBytes 8 (tagOf pk).toNat)
        next := 1 }
    | 1 => { c with ownerDig := mput c.ownerDig 0 arg, nextSlot := 0, next := 2 }
    | 2 => { c with ownerDig := mput c.ownerDig (c.slot + 1) arg, nextSlot := c.slot + 1, next := 2 }
    | 3 => { c with next := 3 }
    | _ => { c with next := 4 }
  { s with sec := { c1 with lcBusy := false, lcStatus := stOk } }

/-- A permanent write runs; false when it must go on waiting. -/
def winDo (w : WinWrite) (s : State) : State × Bool :=
  match w with
  | .lc op arg secret => (lcWrite op arg secret s, true)
  | .svn v => ({ s with sec := { s.sec with minSvn := Nat.max s.sec.minSvn v } }, true)
  | .certify chain => ({ s with sec := { s.sec with chain := chain, lcBusy := false, lcStatus := stOk } }, true)
  | .plan off v =>
    let m := bytePut s.start.plan off (leBytes 8 v.toNat)
    ({ s with start := { s.start with plan := m, planv := planOk m } }, true)
  | .journal => ({ s with start := { s.start.ahead with staged := [] } }, true)
  | .clrsel => ({ s with start := { s.start with sel := [], counts := [] } }, true)
  | .altmode v => (splitRequest 8 v { s with start := { s.start with altmode := v } }, true)
  | .fuse => fuseCommit s
  | .fwslot k => ({ s with start := { s.start with slot := k }, rep := { s.rep with fwJpend := false } }, true)
  | .life => ({ s with pow := { s.pow with eqhMram := s.pow.eqh, pohMram := s.pow.poh } }, true)

/-- The registers that show a waiting write. -/
def winShow (w : WinWrite) (s : State) : State :=
  match w with
  | .lc _ _ _ => { s with sec := { s.sec with lcStatus := stWindowWait } }
  | .certify _ => { s with sec := { s.sec with lcStatus := stWindowWait } }
  | .altmode _ => s.modSplit 8 (fun p => { p with status := stWindowWait })
  | .fuse => if s.rep.rprBusy && s.rep.runOp == 1 then { s with rep := { s.rep with rprStatus := stWindowWait } } else s
  | _ => s

/-- Writes of which one waiting instance is enough. -/
def WinWrite.once : WinWrite → Bool
  | .journal => true
  | .clrsel => true
  | .fuse => true
  | .life => true
  | _ => false

/-- A write waits for the window: WWAIT shows it, and one event record tells of it. -/
def winWait (w : WinWrite) (s : State) : State :=
  let s1 := winShow w s
  event stWindowWait 0x0A 0 0 0 0 6 0 { s1 with pow := { s1.pow with winQ := s1.pow.winQ ++ [w] } }

/-- A permanent write is requested: it begins at once inside the window, and otherwise waits, with one event record of
status WINDOW_WAIT (R367). One that another cause holds back inside the window waits apart. -/
def winRequest (w : WinWrite) (s : State) : State :=
  if s.windowOpen then
    let r := winDo w s
    if r.2 || (w.once && (r.1.pow.winQ ++ r.1.pow.winLater).contains w) then r.1
    else { r.1 with pow := { r.1.pow with winLater := r.1.pow.winLater ++ [w] } }
  else if w.once && s.pow.winQ.contains w then winShow w s
  else winWait w (if w.once then { s with pow := { s.pow with winLater := s.pow.winLater.filter (fun x => x != w) } } else s)

/-- The oldest waiting write begins; one that another cause still holds back goes to the end of the line. -/
def execWindowWriteStart (s : State) : Res :=
  .next (if !s.windowOpen then s
    else match s.pow.winQ ++ s.pow.winLater with
    | [] => s
    | w :: _ =>
      let r := winDo w { s with pow := { s.pow with winQ := s.pow.winQ.drop 1, winLater := if s.pow.winQ.isEmpty then s.pow.winLater.drop 1 else s.pow.winLater } }
      let s1 := if r.2 then r.1 else { r.1 with pow := { r.1.pow with winLater := r.1.pow.winLater ++ [w] } }
      match w with
      | .altmode _ => s1.modSplit 8 (fun p => { p with status := stOk })
      | _ => s1)

/-- Tg is outside the range: what waited for another cause waits for the window as well. -/
def winClosed (s : State) : State :=
  if s.windowOpen then s
  else s.pow.winLater.foldl (fun s w => winWait w s) { s with pow := { s.pow with winLater := [] } }

end Sys2Proof.Machine
end

