-- ==== Sys2Proof/Machine/Repair.lean ====
section
/-! DEFINITION. Endurance, repair and sparing (chapter 13): failing rows, row repair, retirement of pseudo-channels, spare
tiles, the health log and the Director's cores. -/
namespace Sys2Proof.Machine

/-- 24 hours in ticks of 1 ns. -/
def day : Nat := 86400000000000

/-! ### Failing rows and soft repair (R403 to R406) -/

/-- First address of the row that holds an address: 8 KiB of a gain-cell bank; for HBM one 4 KiB line (DESIGN CHOICE,
log 12: the row of the stack is not given). -/
def rowBase (o : Nat) : Nat := if winOf o == .hbm then o / 4096 * 4096 else o / 8192 * 8192
/-- The unit whose spare rows serve an address: a gain-cell bank, or an HBM pseudo-channel. -/
def rowUnit (s : State) (o : Nat) : Nat := if winOf o == .hbm then 100000 + s.hbmPc (o - hbmBase) else o / 0x600000
/-- Spare rows of a unit (Table 13.1). -/
def spareRows (u : Nat) : Nat := if u ≥ 100000 then Config.hbmSpares else 24
def usedSpares (s : State) (u : Nat) : Nat := (s.rep.rows.filter (fun r => rowUnit s r.addr == u)).length
/-- A soft repair of the row runs. -/
def rowBusy (s : State) (row : Nat) : Bool := s.rep.rows.any (fun r => r.addr == row && !r.switched)

/-- The row's bank has no spare left. -/
def noSpare (s : State) (row : Nat) : Bool := usedSpares s (rowUnit s row) ≥ spareRows (rowUnit s row)

/-- A failing row with no spare stays in service; REPAIR_EXHAUSTED is staged once for its bank (R406). -/
def rowStays (row : Nat) (s : State) : State :=
  let u := rowUnit s row
  let s1 : State := { s with rep := { s.rep with badRows := if s.rep.badRows.contains row then s.rep.badRows else s.rep.badRows ++ [row] } }
  if s1.rep.exhausted.contains u then s1
  else hlog 0x07 false stRepairExhausted (BitVec.ofNat 64 (if u ≥ 100000 then u - 100000 else u)) 0
    { s1 with rep := { s1.rep with exhausted := s1.rep.exhausted ++ [u] } }

/-! ### Retirement (R407, R408) -/

/-- Retirements that the build permits (R407). -/
def maxRetire : Build → Nat
  | .t => 8
  | .s => 4
/-- Reserve rows that m retirements need. -/
def reserveFor (b : Build) (m : Nat) : Nat := ceilDiv (m * 137329) (Config.pcs b)

/-- A retirement begins, or is refused (R397, R407). -/
def retireStart (p : Nat) (s : State) : State × Status :=
  let m := s.rep.retired.length + 1
  if s.rep.retired.contains p || s.rep.retiring.isSome then (s, stOk)
  else if m > maxRetire s.build || s.rep.rsvRows < reserveFor s.build m || s.rep.pfull then
    ({ s with rep := { s.rep with rsvStatus := stRepairExhausted } }, stRepairExhausted)
  else ({ s with rep := { s.rep with retiring := some p, retNext := 0, retPoison := 0 } }, stOk)

/-- A free reserve line outside a pseudo-channel and the retired ones. Which one the device takes is not given. -/
def freeReserve : Nat → State → Nat → Nat → Option Nat
  | 0, _, _, _ => none
  | k + 1, s, p, j =>
    let P := Config.pcs s.build
    let lo := (137329 - s.rep.rsvRows) * P
    let l := lo + j % (s.rep.rsvRows * P)
    let q := hbmPcOf s.build (l * 4096)
    if q != p && !s.rep.retired.contains q && !s.rep.moved.any (fun m => m.2 == l) then some l else freeReserve k s p (j + 1)

/-- A line is served from a free reserve line from now on. -/
def moveLine (p l : Nat) (s : State) : State :=
  let f := s.fresh
  match freeReserve (s.rep.rsvRows * Config.pcs s.build) f.2 p f.1 with
  | some d => { f.2 with rep := { f.2.rep with moved := mput f.2.rep.moved l d } }
  | none => f.2

/-- The line of row r of a pseudo-channel (R205). -/
def lineInRow (b : Build) (p r : Nat) : Nat := r * Config.pcs b + (p ^^^ (r % Config.pcs b))

/-! ### What the check code finds (R204, R403) -/

/-- Failing rows of a pseudo-channel for which no repair remains. -/
def badRowsOf (s : State) (p : Nat) : Nat := (s.rep.badRows.filter (fun a => winOf a == .hbm && s.hbmPc (a - hbmBase) == p)).length

/-- A pseudo-channel has become a candidate for retirement: retired at once in H mode, reported in A mode (R406, R408). -/
def candidate (p addr : Nat) (s : State) : State :=
  if s.aMode 6 then event 0 0x05 0 0 0 0 (BitVec.ofNat 64 addr) 3 s else (retireStart p s).1

/-- A failing row finds no spare: 8 such rows make their pseudo-channel a candidate. -/
def rowUnrepaired (row : Nat) (s : State) : State :=
  let p := s.hbmPc (row - hbmBase)
  let s1 := rowStays row s
  if winOf row == .hbm && badRowsOf s1 p ≥ 8 && s1.rep.badRows != s.rep.badRows then candidate p row s1 else s1

/-- A soft repair begins; a row that finds no spare stays in service. -/
def softRepair (row : Nat) (s : State) : State × Status :=
  if rowBusy s row then (s, stOk)
  else if noSpare s row then (rowUnrepaired row s, stRepairExhausted)
  else ({ s with rep := { s.rep with rows := s.rep.rows ++ [{ addr := row, spare := usedSpares s (rowUnit s row) }] } }, stOk)

/-- A row fails: repaired at once in H mode, reported in A mode (R403, R406). -/
def rowFails (row : Nat) (s : State) : State :=
  let s1 := splitPoint 6 s
  if s1.aMode 6 then
    let s2 := event 0 0x05 0 0 0 0 (BitVec.ofNat 64 row) 2 s1
    if noSpare s2 row then rowUnrepaired row s2 else s2
  else (softRepair row s1).1

/-- A corrected word: four of a row within 24 hours make it fail. -/
def wordCorrected (w : Nat) (s : State) : State :=
  let now := s.time.tmb.toNat
  let s1 : State := { s with rep := { s.rep with corrAt := mput s.rep.corrAt w now } }
  let row := rowBase (w * 32)
  let s2 := if winOf (w * 32) == .hbm then cntBase (96 + 4 * (s1.hbmPc (w * 32 - hbmBase) / 64) + 2) 1 s1 else s1
  if (s2.rep.corrAt.filter (fun c => rowBase (c.1 * 32) == row && now < c.2 + day)).length ≥ 4 then
    rowFails row { s2 with rep := { s2.rep with corrAt := s2.rep.corrAt.filter (fun c => rowBase (c.1 * 32) != row) } }
  else s2

/-- Repairable memory: near memory and HBM. -/
def repairable (s : State) (o : Nat) : Bool := (winOf o == .near || winOf o == .hbm) && s.populated o

/-- What reading a word found; poison that it finds is reported to the word's watches (R161, R204). -/
def eccFound (e : Ecc) (s : State) : State :=
  if e.bad then
    if s.poison.contains e.word then s
    else
      let s1 := notifyWrites (e.word * 32) 32 (memErr e.word s)
      if repairable s1 (e.word * 32) then rowFails (rowBase (e.word * 32)) s1 else s1
  else if repairable s (e.word * 32) then wordCorrected e.word s else s

/-! ### MEM_RPR_CTL (Table 13.7) -/

/-- A write of an operation with GO, which is ignored while BUSY. -/
def rprGo (op : Nat) (k : State → State) (s : State) : State :=
  let s : State := { s with rep := { s.rep with rprOp := op } }
  if s.rep.rprBusy then s else k { s with rep := { s.rep with runOp := op, runAddr := s.rep.rprAddr } }

def rprEnd (st : Status) (s : State) : State := { s with rep := { s.rep with rprBusy := false, rprStatus := st } }
def rprRun (s : State) : State := { s with rep := { s.rep with rprBusy := true, rprStatus := stOk } }

/-- SOFT (R403, R404, Table 13.7). -/
def rprSoft (s : State) : State :=
  let o := bitsOf s.rep.rprAddr 43 0
  if !s.aMode 6 then rprEnd stFormMismatch s
  else if !repairable s o then rprEnd stNoTarget s
  else
    let r := softRepair (rowBase o) s
    if r.2 == stOk then rprRun r.1 else rprEnd r.2 r.1

/-- FUSE: commits every soft repair not yet committed (R405). -/
def rprFuse (s : State) : State := winRequest .fuse (rprRun s)

/-- RETIRE (R408). -/
def rprRetire (s : State) : State :=
  let o := bitsOf s.rep.rprAddr 43 0
  if !s.aMode 6 then rprEnd stFormMismatch s
  else if winOf o != .hbm || !s.populated o then rprEnd stNoTarget s
  else
    let r := retireStart (hbmPcOf s.build (o - hbmBase)) s
    if r.2 != stOk then rprEnd r.2 r.1
    else if r.1.rep.retiring.isSome then rprRun r.1 else rprEnd stOk r.1

def execSoft (s : State) : Res := .next (hostWrite (fun s => rprGo 0 rprSoft s) s)
def execFuse (s : State) : Res := .next (hostWrite (fun s => rprGo 1 rprFuse s) s)
def execRetire (s : State) : Res := .next (hostWrite (fun s => rprGo 2 rprRetire s) s)

/-- The row switches to its spare in one arbitration, and ROW_SOFT is staged; in H mode its fuse commit is requested
(R404, R405). -/
def execRowRepairSwitch (addr : Nat) (s : State) : Res :=
  .next (match s.rep.rows.find? (fun r => r.addr == addr && !r.switched) with
    | none => s
    | some r =>
      let s1 := hlog 0x05 false 0 (BitVec.ofNat 64 addr) (BitVec.ofNat 64 r.spare)
        { s with rep := { s.rep with rows := mapIf (fun x => x == r) (fun x => { x with switched := true }) s.rep.rows } }
      if s1.rep.rprBusy && s1.rep.runOp == 0 && rowBase (bitsOf s1.rep.runAddr 43 0) == addr then rprEnd stOk s1
      else if s1.aMode 6 then s1 else winRequest .fuse s1)

/-- A retirement is over: the RETIRE that asked for it completes, and one that waited for it goes on; in H mode the next candidate
follows (R408). -/
def retireNext (p : Nat) (s : State) : State :=
  let q := hbmPcOf s.build (bitsOf s.rep.runAddr 43 0 - hbmBase)
  if s.rep.rprBusy && s.rep.runOp == 2 then
    if q == p then rprEnd stOk s
    else
      let r := retireStart q s
      if r.2 != stOk then rprEnd r.2 r.1 else if r.1.rep.retiring.isSome then r.1 else rprEnd stOk r.1
  else if s.aMode 6 then s
  else match (List.range (Config.pcs s.build)).find? (fun q => !s.rep.retired.contains q && (badRowsOf s q ≥ 8 || s.rep.failPcs.contains q)) with
    | some q => (retireStart q s).1
    | none => s

/-- One line of the retiring pseudo-channel moves; after the last the retirement stands and PC_RETIRE is staged (R408). -/
def execPcRetireLineMove (badLine : Bool) (s : State) : Res :=
  .next (match s.rep.retiring with
    | none => s
    | some p =>
      let rows := 137329 - s.rep.rsvRows
      if s.rep.retNext ≥ rows then
        if s.permWait then s
        else
          retireNext p (hlog 0x08 true 0 (BitVec.ofNat 64 (p / 64 + p % 64 * 8)) (BitVec.ofNat 64 s.rep.retPoison)
            { s with rep := { s.rep with retired := s.rep.retired ++ [p], retiring := none, rsvStatus := stOk } })
      else
        let l := lineInRow s.build p s.rep.retNext
        let s1 := moveLine p l s
        let s2 := if badLine then s1.mark (hbmBase + l * 4096) 4096 else s1
        cntBase (96 + 4 * (p / 64) + 3) 1 { s2 with rep := { s2.rep with
          retNext := s2.rep.retNext + 1, retPoison := s2.rep.retPoison + b2n badLine } })

/-- A write of ROWS (R409): taken only while the device is quiet and no retirement runs, and not below the bound of the
retirements made; every HBM byte is undefined afterwards, and the lines moved before find places in the new reserve. -/
def rsvWrite (v : W64) (s : State) : State :=
  let k := bitsOf v 11 0
  if !s.quiet || s.rep.retiring.isSome || k < reserveFor s.build s.rep.retired.length then s
  else if s.rep.pfull then { s with rep := { s.rep with rsvStatus := stRepairExhausted } }
  else
    let old := s.rep.moved
    let s1 : State := { s with rep := { s.rep with rsvRows := k, rsvStatus := stOk, moved := [] } }
    let s2 := (old.filter (fun m => m.1 < (137329 - k) * Config.pcs s.build)).foldl
      (fun s m => moveLine (hbmPcOf s.build (m.1 * 4096)) m.1 s) s1
    hlog 0x09 true 0 (BitVec.ofNat 64 k) 0 (s2.undefine hbmBase (Config.hbmTop s.build))

def execHbmRsvWrite (v : W64) (s : State) : Res := .next (hostWrite (fun s => rsvWrite v s) s)

/-! ### Spare tiles (R398 to R401) -/

/-- A swap is requested; it begins when no earlier one runs. A full log refuses it (R397). -/
def swapRequest (t : Nat) (s : State) : State :=
  if s.rep.pfull then { s with rep := { s.rep with tspStatus := stRepairExhausted } }
  else { s with rep := { s.rep with
    tspQueue := s.rep.tspQueue ++ [t], tspBusy := true
    tspStatus := if s.rep.tspBusy then s.rep.tspStatus else stOk } }

/-- A write of CON_TSPARE_CTL (Table 13.6). A logical tile that is not there has nothing to retire. -/
def tspareWrite (v : W64) (s : State) : State :=
  let t := bitsOf v 7 0
  let s1 : State := { s with rep := { s.rep with tspTile := t } }
  if bitOf v 8 && !s.rep.tspBusy && s.tileThere t then swapRequest t s1 else s1

def execTspareGo (v : W64) (s : State) : Res := .next (hostWrite (fun s => tspareWrite v s) s)

/-- A tile store returned an UNCORRECTABLE read: the third within 24 hours marks the tile failing (R398). -/
def tileUnc (t : Nat) (s : State) : State :=
  let now := s.time.tmb.toNat
  let l := (s.tile t).unc.filter (fun x => now < x + day) ++ [now]
  let s1 := s.modTile t (fun T => { T with unc := l })
  if l.length < 3 then s1
  else
    let s2 := splitPoint 6 s1
    if s2.aMode 6 then event 0 0x05 0 0 0 0 (BitVec.ofNat 64 t) 1 (s2.modTile t (fun T => { T with unc := [] }))
    else if s2.rep.tspQueue.contains t || !s2.tileThere t then s2
    else swapRequest t s2

/-- The tile's physical index now, and its slab's spare's (R19). -/
def physOf (s : State) (t : Nat) : Nat := (mfind s.rep.spareOf t).getD (17 * (t / 16) + t % 16)
def spareOfSlab (t : Nat) : Nat := 17 * (t / 16) + 16

/-- The swap at the head of the line is over, and the next begins. -/
def swapOver (st : Status) (s : State) : State :=
  let rest := s.rep.tspQueue.drop 1
  { s with rep := { s.rep with tspQueue := rest, tspBusy := !rest.isEmpty, tspRetiring := false, tspStatus := st } }

/-- Steps 1 and 2 of Table 13.5; with no usable spare the logical tile becomes absent (R401). -/
def execTileSwapStart (testPass : Bool) (s : State) : Res :=
  .next (match s.rep.tspQueue with
    | [] => s
    | t :: _ =>
      if s.rep.tspRetiring then s
      else
        let slab := t / 16
        let serving := s.rep.spareOf.any (fun x => x.1 / 16 == slab)
        if serving || s.rep.usedSpare.contains slab || !testPass then
          if s.permWait then s
          else
            swapOver stRepairExhausted (hlog 0x02 true stRepairExhausted (BitVec.ofNat 64 t) 0
              { s with rep := { s.rep with
                absent := s.rep.absent ++ [t]
                usedSpare := if !s.rep.usedSpare.contains slab && (!testPass || (mfind s.rep.spareOf t).isSome) then s.rep.usedSpare ++ [slab] else s.rep.usedSpare } })
        else
          let d := 4 * slab + 3
          let s1 := if (s.dom d).st == 0 then s.modDom d (fun d => { d with st := 2 }) else s
          { s1 with rep := { s1.rep with tspRetiring := true } })

/-- No thread, handle or token operation of the tile remains (step 3 of Table 13.5). -/
def tileIdle (s : State) (t : Nat) : Bool :=
  let T := s.tile t
  !T.threads.any (fun x => x.2.live) && T.sets.isEmpty && T.rscs.isEmpty && T.cpyl.isNone && T.cpylWait.isEmpty &&
  T.ops.isEmpty && !s.bank.ops.any (fun o => o.tile == t)

/-! ### Director cores (R410) -/

/-- An active core has failed: a standby core is to take its place, or none is left. -/
def execDirectorWatchdogExpiry (core : Nat) (s : State) : Res :=
  .next (if !s.rep.dirActive.contains core then s
    else
      let act := s.rep.dirActive.filter (fun c => c != core)
      let s1 : State := { s with rep := { s.rep with dirActive := act } }
      if s.rep.dirStandby.length > s.rep.dirFailed.length then { s1 with rep := { s1.rep with dirFailed := s1.rep.dirFailed ++ [core] } }
      else
        let s2 := event 0 0x0E 0 0 0 0 (BitVec.ofNat 64 core) 0xF (hlog 0x0A true 0 (BitVec.ofNat 64 (core + 0xF0)) 0 s1)
        if act.isEmpty && s.rep.dirFailed.isEmpty then { s2 with start := { s2.start with alert := true } } else s2)

/-- The standby core has taken the failed core's role, and DIR_CORE is staged. -/
def execDirectorTakeoverComplete (s : State) : Res :=
  .next (match s.rep.dirFailed, s.rep.dirStandby with
    | f :: fs, c :: cs =>
      if s.permWait then s
      else
        event 0 0x0E 0 0 0 0 (BitVec.ofNat 64 f) (BitVec.ofNat 64 c) (hlog 0x0A true 0 (BitVec.ofNat 64 (f + 16 * c)) 0
          { s with rep := { s.rep with dirFailed := fs, dirStandby := cs, dirActive := s.rep.dirActive ++ [c] } })
    | _, _ => s)

end Sys2Proof.Machine
end

