-- ==== Sys2Proof/Machine/MemPath.lean ====
section
/-! DEFINITION. Memory operations of a tile: slots and caps, the issue of their requests, and their completion (R155,
R162, R163, R387, R388, R533). -/
namespace Sys2Proof.Machine

/-- The slot target of a physical address (Table 5.15), as a number. -/
def slotTarget (s : State) (pa : Nat) : Nat :=
  if !s.isLocal pa then 300000 + paDev pa
  else
    let o := paLocal pa
    match winOf o with
    | .near => nearLayer o * 2048 + nearCol o * 32 + nearBank o
    | .store => 100000 + (o - storeBase) / 0x200000
    | .table => 100000 + (o - tableBase) / 0x10000
    | .hbm => 200000 + s.hbmPc (o - hbmBase)
    | _ => 400000

/-- Cap of a target on a tile's slots (Table 5.15). -/
def slotCap (target : Nat) : Nat := if target ≥ 300000 then 16 else 8

def Part.pa (p : Part) : Nat := p.sector * 256
def Part.bytes (p : Part) : Nat := sumN (p.segs.map (fun g => g.2.2))

/-- The requests of a tile that hold a slot. -/
def heldSlots (T : Tile) : List (MemOp × Part) :=
  T.ops.flatMap (fun o => (o.parts.filter (fun p => p.issued && !p.done && !p.sent)).map (fun p => (o, p)))

/-- A request is untimed at its target's arbiter (R387, R533). -/
def untimed (s : State) (tile reel slot pa : Nat) (store : Bool) : Bool :=
  match s.cueIn reel slot with
  | none => true
  | some c =>
    if !s.isLocal pa then
      match routePort s (paDev pa) with
      | none => true
      | some n => if store then mget 0 c.servSend n ≥ c.send n else mget 0 c.servRecv n ≥ c.recv n
    else
      let o := paLocal pa
      match winOf o with
      | .near => mget 0 c.servNear tile ≥ c.near
      | .store => (o - storeBase) / 0x200000 != tile && mget 0 c.servNear tile ≥ c.near
      | .table => (o - tableBase) / 0x10000 != tile && mget 0 c.servNear tile ≥ c.near
      | .hbm => c.servHbm ≥ c.hbm
      | _ => true

/-- An admitted cue has a thread on the tile (R388). -/
def cueOnTile (s : State) (tile : Nat) : Bool :=
  (s.tile tile).threads.any (fun t => t.2.live && !t.2.helper && (s.cueIn t.2.reel t.2.slot).isSome)

/-- A request may take a slot now (R162, R163, R164, R388). -/
def slotOk (s : State) (tile : Nat) (o : MemOp) (p : Part) : Bool :=
  let T := s.tile tile
  let h := heldSlots T
  let target := slotTarget s p.pa
  let isStore := o.kind == .store
  h.length < 64 && (h.filter (fun x => x.1.th == o.th)).length < 32 &&
  (h.filter (fun x => slotTarget s x.2.pa == target)).length < slotCap target &&
  (o.kind != .runahead ||
    ((h.filter (fun x => x.1.kind == .runahead)).length < Nat.min T.raSlots 16 && h.length + 8 < 64)) &&
  (!cueOnTile s tile || !untimed s tile o.reel o.slot p.pa isStore ||
    (h.filter (fun x => untimed s tile x.1.reel x.1.slot x.2.pa (x.1.kind == .store))).length < 48)

def State.op (s : State) (tile id : Nat) : Option MemOp := (s.tile tile).ops.find? (fun o => o.id == id)
def State.modOp (s : State) (tile id : Nat) (f : MemOp → MemOp) : State :=
  s.modTile tile (fun T => { T with ops := mapIf (fun o => o.id == id) f T.ops })
def State.modPart (s : State) (tile id k : Nat) (f : Part → Part) : State :=
  s.modOp tile id (fun o => { o with parts := o.parts.set k (f (o.parts.getD k { sector := 0, va := 0, segs := [] })) })
def State.dropOp (s : State) (tile id : Nat) : State :=
  s.modTile tile (fun T => { T with ops := T.ops.filter (fun o => o.id != id) })

/-- Replace bytes of a list from an offset. -/
def patch (data : List Byte) (off : Nat) (bs : List Byte) : List Byte := data.take off ++ bs ++ data.drop (off + bs.length)

/-- A vector register from 32-bit lanes, lane 0 first. -/
def ofLanes (l : List Nat) : VReg := BitVec.ofNat 4096 (l.foldr (fun x acc => x % 2 ^ 32 + acc * 2 ^ 32) 0)
/-- Lane i of a vector register (R110). -/
def lane (v : VReg) (i : Nat) : Nat := (v.toNat >>> (32 * i)) % 2 ^ 32
def lanes (v : VReg) : List Nat := (List.range 128).map (lane v)
def mbit (m : MReg) (i : Nat) : Bool := bitOf m i

/-- The lanes of a result under a mask (R130): the new value, or the old value or zero where the mask bit is 0. -/
def maskLanes (z : Bool) (m : MReg) (old : VReg) (new : List Nat) : VReg :=
  ofLanes ((List.range 128).map (fun i => if mbit m i then new.getD i 0 else if z then 0 else lane old i))

/-- The data of a load reaches its destination (R181, R233). -/
def deliver (t : Thread) (d : Dst) (data : List Byte) : Thread :=
  match d with
  | .none => t
  | .scalar rd n => t.setS rd (BitVec.ofNat 64 (leNat (data.take n)))
  | .desc rd => t.setD rd (BitVec.ofNat 256 (leNat data))
  | .lanes vd z m => t.setV vd (maskLanes z m (t.vreg vd) ((List.range 128).map (fun i => leNat ((data.drop (4 * i)).take 4))))
  | .stream vd bits => t.setV vd (BitVec.ofNat 4096 (leNat data % 2 ^ bits))
  | .job => t

/-- A stream's operation has ended: its bytes reach the staging of its MMA or the CPYL that it reads for, and a store's
status its RSC or CPYL. The first status that is not success stays. -/
def Tile.jobDone (T : Tile) (o : MemOp) : Tile :=
  let keep := fun (a : Status) => if a == 0 then o.status else a
  let mine := some o.id
  { T with
    mmas := mapIf (fun q => q.staged.any (fun x => x.op == mine)) (fun q => { q with
      st := keep q.st
      staged := mapIf (fun x => x.op == mine) (fun x => { x with op := none, data := o.data, bad := o.bad }) q.staged }) T.mmas
    rscs := mapIf (fun q => q.op == mine) (fun q => { q with op := none, st := keep q.st }) T.rscs
    cpyl := T.cpyl.map (fun q => if q.op == mine then
        { q with op := none, st := keep q.st, data := if q.stored then q.data else o.data, bad := if q.stored then q.bad else o.bad }
      else q) }

/-- The same for a stream that a token operation reads from. -/
def bankJobDone (tile : Nat) (o : MemOp) (s : State) : State :=
  let mine (b : BOp) : Bool := b.tile == tile && b.job == some o.id
  let done (b : BOp) : BOp := { b with job := none, buf := [(0, o.data)], bad := o.bad, phase := 2 }
  { s with bank := { s.bank with ops := mapIf mine done s.bank.ops } }

/-- A thread's accesses after an acquire see what came before it: its run-ahead copies of peer and host memory go (R157, R159, R161;
DESIGN CHOICE, log 97). -/
def acquire (r : TRef) (s : State) : State :=
  if (s.tile r.tile).ra.any (fun x => x.th == r.th && s.far (x.pa * 256)) then raDrop r.tile (fun x => x.th == r.th && s.far (x.pa * 256)) s else s

/-- A memory operation whose every request is done completes: its data is delivered on success, its status recorded
(R144, R532). -/
def opComplete (tile id : Nat) (s : State) : State :=
  match s.op tile id with
  | none => s
  | some o =>
    if o.parts.any (fun p => !p.done) then s
    else
      let r : TRef := ⟨tile, o.th⟩
      let s1 := s.dropOp tile id
      if o.dst == .job then bankJobDone tile o (s1.modTile tile (fun T => T.jobDone o))
      else if o.kind == .runahead || !(s1.thread r).live then s1
      else
        let s2 := if o.status == 0 then
            s1.modThread r (fun t => match o.kind with
              | .sem => t.setS (match o.dst with
                  | .scalar rd _ => rd
                  | _ => 0) (o.old.getD 0)
              | _ => deliver t o.dst o.data)
          else s1
        complete r o.status o.pc (if o.acq then acquire r s2 else s2)

/-- A request that has been performed counts as service (R533): one that failed moved nothing, one that the run-ahead buffer served was
counted when it was fetched, and of HBM only what the controllers performed counts, which a line of the cache spares them. -/
def counts (s : State) (o : MemOp) (p : Part) (st : Status) : Bool :=
  (st == stOk || st == stUncorrectable) && !p.sent &&
  (!s.isLocal p.pa || winOf (paLocal p.pa) != .hbm ||
    (if o.kind == .load || o.kind == .runahead then !p.hit else (s.line (lineOf p.pa)).isNone))

/-- Near-memory, other-store and HBM bytes that a request moved (R533). -/
def serveBytes (tile reel slot pa n : Nat) (s : State) : State :=
  if !s.isLocal pa then s
  else
    let o := paLocal pa
    let near := fun (s : State) => serveCue reel slot (fun c => { c with servNear := mput c.servNear tile (mget 0 c.servNear tile + n) }) s
    match winOf o with
    | .near => near s
    | .store => if (o - storeBase) / 0x200000 != tile then near s else s
    | .hbm => serveCue reel slot (fun c => { c with servHbm := c.servHbm + n }) s
    | _ => s

/-- Offsets of the data that a stretch covers. -/
def segOffs (g : Nat × Nat × Nat) : List Nat := (List.range g.2.2).map (fun j => g.2.1 + j)

/-- One request is done, with a status and the offsets of the bytes it could not read: its slot returns. -/
def partDoneBad (bad : List Nat) (tile id k : Nat) (st : Status) (s : State) : State :=
  match s.op tile id with
  | none => s
  | some o =>
    match o.parts[k]? with
    | none => s
    | some p =>
      let s1 := (s.modPart tile id k (fun p => { p with done := true })).modOp tile id
        (fun o => { o with status := if o.status == 0 then st else o.status, bad := o.bad ++ bad })
      opComplete tile id (if counts s o p st then serveBytes tile o.reel o.slot p.pa p.bytes s1 else s1)

/-- One request is done: when it failed, none of its bytes could be read. -/
def partDone (tile id k : Nat) (st : Status) (s : State) : State :=
  partDoneBad (if st == stOk then [] else (((s.op tile id).bind (fun o => o.parts[k]?)).map (fun p => p.segs.flatMap segOffs)).getD [])
    tile id k st s

/-- A request's data reaches the tile: its bytes enter the operation's data, and its slot returns. -/
def loadPart (tile id k : Nat) (s : State) : State :=
  match s.op tile id with
  | none => s
  | some o =>
    match o.parts[k]? with
    | none => s
    | some p =>
      let st := ((p.segs.map (fun g => readStatus s g.1 g.2.2)).find? (fun x => x != stOk)).getD stOk
      let pa := (p.segs.head?.map (fun g => g.1)).getD p.pa
      let s1 := if st == stUncorrectable && s.isLocal pa && winOf (paLocal pa) == .store then
          tileUnc ((paLocal pa - storeBase) / 0x200000) s
        else s
      let s2 := s1.modOp tile id (fun o => { o with data := p.segs.foldl (fun d g => patch d g.2.1 (readAt s g.1 g.2.2)) o.data })
      let bad := if st == stOk then [] else p.segs.flatMap (fun g =>
        ((List.range g.2.2).filter (fun j => readStatus s (g.1 + j) 1 != stOk)).map (fun j => g.2.1 + j))
      partDoneBad bad tile id k st s2

/-- The tile's run-ahead buffer has the sector, or has it in flight (R164). -/
def Tile.raFind (T : Tile) (sector : Nat) : Option RaSector := T.ra.find? (fun x => x.pa == sector && !x.stale)

/-- None of a request's bytes waits for a roll slot (R253). -/
def Part.rollFree (s : State) (p : Part) : Bool := !p.segs.any (fun g => s.isLocal g.1 && s.rollHeld (paLocal g.1) g.2.2)

/-- The run-ahead buffer of the tile serves the sector of a load's request (R164), unless its column must first commit (R253). -/
def raHolds (s : State) (tile : Nat) (o : MemOp) (p : Part) : Bool := o.kind == .load && p.rollFree s && ((s.tile tile).raFind p.sector).isSome

/-- A request whose sector is peer or host memory takes its bytes from the run-ahead buffer, with their poison (R204). -/
def farPart (tile id k : Nat) (data : List Byte) (bad : Bool) (s : State) : State :=
  match s.op tile id with
  | none => s
  | some o =>
    match o.parts[k]? with
    | none => s
    | some p =>
      let s1 := s.modOp tile id (fun o => { o with data := p.segs.foldl (fun d g => patch d g.2.1 ((data.drop (g.1 % 256)).take g.2.2)) o.data })
      partDone tile id k (if bad then stUncorrectable else stOk) s1

/-- A sector of the run-ahead buffer serves a request: local memory has one copy, which is read now. -/
def raServe (tile id k : Nat) (x : RaSector) (s : State) : State :=
  if s.far (x.pa * 256) then farPart tile id k x.data x.poisoned s else loadPart tile id k s

/-- Demand meets a sector of the run-ahead buffer: used when it has arrived, late while it is in flight (R495). -/
def raDemand (tile id k : Nat) (p : Part) (s : State) : State :=
  match (s.tile tile).raFind p.sector with
  | none => s
  | some x =>
    let s1 := s.modTile tile (fun T => { T with
      ra := T.ra.filter (fun y => y != x)
      threads := T.threads.map (fun t => if t.1 != x.th then t
        else (t.1, { t.2 with stream := t.2.stream.map (fun q => if q.1 != x.d then q else (q.1, { q.2 with ahead := q.2.ahead - 1 })) })) })
    let s2 := s1.modPart tile id k (fun p => { p with issued := true, sent := true })
    if x.arrived then raServe tile id k x (cntPmc tile 0x13 x.reel 1 s2) else cntPmc tile 0x14 x.reel 1 s2

/-- A tile's own store leaves no run-ahead copy of the sectors it writes (R155; DESIGN CHOICE, log 97). -/
def raStored (tile : Nat) (ps : List (Piece × Nat × Nat)) (s : State) : State :=
  let hit := fun (x : RaSector) => ps.any (fun p => p.2.1 / 256 == x.pa)
  if (s.tile tile).ra.any hit then raDrop tile hit s else s

/-- Bytes that a store's request writes: (physical address, bytes) for each stretch. -/
def storeSegs (o : MemOp) (p : Part) : List (Nat × List Byte) :=
  p.segs.map (fun g => (g.1, (o.data.drop g.2.1).take g.2.2))

/-- The request leaves the tile (R162): local requests wait for their response; a peer's becomes a message, the host's a
request on the link. A request without a route, or to a closed host window, is done at once with its status. -/
def sendPart (tile id k : Nat) (s : State) : State :=
  match s.op tile id with
  | none => s
  | some o =>
    match o.parts[k]? with
    | none => s
    | some p =>
      let s := if o.kind == .runahead then cntPmc tile 0x12 o.reel 1 s
        else if o.kind == .load && raHolds s tile o p then s
        else cntPmc tile (if o.kind == .load then 0x0A else 0x0B) o.reel 1 s
      let s := s.modPart tile id k (fun p => { p with issued := true })
      let pa := (p.segs.head?.map (fun g => g.1)).getD p.pa
      let loc := s.isLocal pa
      let host := loc && winOf (paLocal pa) == .host
      let n := p.bytes
      let touch := fun (s : State) => cacheRead (some (tile, o.reel)) pa p.ca (s.modPart tile id k (fun p => { p with hit := !s.mustFetch pa }))
      let own : RemOwner := .part tile id k
      match o.kind with
      | .load =>
        if raHolds s tile o p then raDemand tile id k p s
        else if s.cached pa p.ca && !(s.mustFetch pa && s.fetchStatus pa != stOk) then touch s
        else if s.far pa then
          let q := farRead pa n own s
          if q.2 == stOk then q.1 else partDone tile id k q.2 s
        else s
      | .runahead => if s.cached pa p.ca then touch s else if s.far pa then (farRead pa n own s).1 else s
      | .store =>
        let bs := (storeSegs o p).flatMap (fun g => g.2)
        if !loc then
          let s := if s.cached pa p.ca then cacheWrite pa p.ca bs s else s
          let r := sendReq { mtype := mtWR, dst := paDev pa, src := s.ownId, addr := paLocal pa, param := 0, data := bs } own s
          if r.2 then r.1 else partDone tile id k stNoRoute s
        else if host then
          if !s.hostOpen then partDone tile id k stHostAbort s
          else (if s.cached pa p.ca then cacheWrite pa p.ca bs s else s).send (.write (s.busAddr pa) bs)
        else s
      | .sem =>
        if !loc then
          let r := sendReq { mtype := mtSEM, dst := paDev pa, src := s.ownId, addr := paLocal pa, param := o.semOp, data := leBytes 8 o.a.toNat ++ leBytes 8 o.b.toNat } own (cacheDrop pa s)
          if r.2 then r.1 else partDone tile id k stNoRoute s
        else if s.cached pa p.ca then touch s
        else s

/-- Issue the requests of an operation in order while each receives a slot; a thread that begins to wait is counted as a
refusal (R163). -/
def issueGo (cnt : Bool) : Nat → Nat → Nat → Nat → State → State
  | 0, _, _, _, s => s
  | fuel + 1, tile, id, k, s =>
    match s.op tile id with
    | none => s
    | some o =>
      match o.parts[k]? with
      | none => s
      | some p =>
        if p.issued then issueGo cnt fuel tile id (k + 1) s
        else if slotOk s tile o p || raHolds s tile o p then issueGo cnt fuel tile id (k + 1) (sendPart tile id k s) else if cnt then cntFix tile 3 1 s else s

def issueParts (cnt : Bool) (tile id : Nat) (s : State) : State :=
  match s.op tile id with
  | none => s
  | some o => issueGo cnt o.parts.length tile id 0 s

/-- Join neighbouring stretches of one sector into one. -/
def joinSegs : List (Nat × Nat × Nat) → List (Nat × Nat × Nat)
  | [] => []
  | g :: gs =>
    match joinSegs gs with
    | h :: hs => if g.1 + g.2.2 == h.1 && g.2.1 + g.2.2 == h.2.1 && g.1 / 256 == h.1 / 256 then (g.1, g.2.1, g.2.2 + h.2.2) :: hs else g :: h :: hs
    | [] => [g]

/-- The requests of an access: one for each local sector, one for each stretch at a peer or the host (R162). -/
def partsOf (s : State) (ps : List (Piece × Nat × Nat)) : List Part :=
  ps.foldl (fun (acc : List Part) (x : Piece × Nat × Nat) =>
    let pa := x.2.1
    let seg := (pa, x.1.off, x.1.n)
    let far := !s.isLocal pa || winOf (paLocal pa) == .host
    match acc.find? (fun p => p.sector == pa / 256 && (!far || (joinSegs (p.segs ++ [seg])).length == p.segs.length)) with
    | some q => mapIf (fun p => p.sector == q.sector && p.segs == q.segs) (fun p => { p with segs := joinSegs (p.segs ++ [seg]) }) acc
    | none => acc ++ [{ sector := pa / 256, va := x.1.va, ca := x.2.2, segs := [seg] }]) []

/-- An earlier access of the thread to overlapping bytes, wherever their virtual addresses lie, is not yet performed (R155). -/
def mustWait (s : State) (r : TRef) (ps : List (Piece × Nat × Nat)) : Bool :=
  let T := s.tile r.tile
  let span := fun (g : Nat × Nat) => ps.any (fun x => rangesMeet x.2.1 x.1.n g.1 (g.2 - g.1))
  T.ops.any (fun o => o.th == r.th && o.kind != .runahead && o.parts.any (fun p => !p.done && p.segs.any (fun g =>
    ps.any (fun x => rangesMeet x.2.1 x.1.n g.1 g.2.2)))) ||
  T.mmas.any (fun o => o.th == r.th && o.spans.any span) || T.rscs.any (fun o => o.th == r.th && o.spans.any span) ||
  T.cpylWait.any (fun o => o.th == r.th && o.spans.any span) ||
  (match T.cpyl with
    | some o => o.th == r.th && o.spans.any span
    | none => false)

/-- The thread goes on past an instruction that completes later. -/
def advance (r : TRef) (x : Option W64) (s : State) : State :=
  s.modThread r (fun t => { t with
    pc := t.pc + BitVec.ofNat 64 (8 * lenOf x), held := none, desc := [], descRead := [], fetched := t.fetched.drop (lenOf x) })

/-- The sequence slot whose cue a thread's work belongs to; 8 for a helper, which has none. -/
def Thread.cueSlot (t : Thread) : Nat := if t.helper then 8 else t.slot

/-- Physical spans of checked stretches, as (first, end). -/
def spansOf (ps : List (Piece × Nat × Nat)) : List (Nat × Nat) := ps.map (fun p => (p.2.1, p.2.1 + p.1.n))

/-- Begin a memory operation of a thread on checked stretches: it waits for earlier overlapping accesses (R155), and
with no stretch at all completes with success (R131). -/
def startOp (r : TRef) (i : Instr) (x : Option W64) (o : MemOp) (ps : List (Piece × Nat × Nat)) (s : State) : State :=
  if mustWait s r ps || acqWaiting s r then hold r i .order s
  else if ps.isEmpty then finish r x stOk s
  else
    let t := s.thread r
    let id := s.opSeq
    let s1 : State := { s with opSeq := id + 1 }
    let s1 := if o.kind == .load then s1 else raStored r.tile ps s1
    let s2 := (advance r x s1).modTile r.tile (fun T => { T with
      ops := T.ops ++ [{ o with id, th := r.th, pc := t.pc, reel := t.reel, slot := t.cueSlot, parts := partsOf s ps }] })
    issueParts true r.tile id s2

/-- A stream of an MMA, RSC or CPYL begins as a memory operation of the thread that issued it; its number. -/
def startJob (tile th reel slot : Nat) (kind : MKind) (data : List Byte) (ps : List (Piece × Nat × Nat)) (s : State) : Nat × State :=
  let id := s.opSeq
  let s0 : State := { s with opSeq := id + 1 }
  let s1 := if kind == .load then s0 else raStored tile ps s0
  (id, s1.modTile tile (fun T => { T with
    ops := T.ops ++ [{ id, th, kind, dst := .job, data, reel, slot, parts := partsOf s ps }] }))

/-- The instruction that STANDBY_ACCESS excludes (R148): on a standby thread it does nothing and halts the thread. -/
def notStandby (r : TRef) (x : Option W64) (k : State → State) (s : State) : State :=
  if (s.thread r).stby then finishHalt r x stStandbyAccess s else k s

end Sys2Proof.Machine
end

