-- ==== Sys2Proof/Machine/MemInstr.lean ====
section
/-! DEFINITION. The memory instructions of a tile (R158, R159, R181, R233), the events that serve their requests (R162,
R163), instruction fetch (R171, R172) and run-ahead (R164, R230). -/
namespace Sys2Proof.Machine

/-! ### Loads and stores -/

/-- A scalar or descriptor load of n bytes at RA + offset. -/
def loadT (i : Instr) (f : SForm) (n : Nat) (dst : Dst) (r : TRef) (s : State) : State :=
  notStandby r f.x (fun s =>
    let va := ((s.thread r).sreg f.ra.toNat + offsetOf f).toNat
    withAccess r i f.x .r (pieces va 0 n) (fun ps => startOp r i f.x { id := 0, th := 0, kind := .load, dst, data := List.replicate n 0 } ps) s) s

/-- A scalar or descriptor store of bytes at RA + offset. -/
def storeT (i : Instr) (f : SForm) (data : Thread → List Byte) (r : TRef) (s : State) : State :=
  notStandby r f.x (fun s =>
    let t := s.thread r
    let va := (t.sreg f.ra.toNat + offsetOf f).toNat
    withAccess r i f.x .w (pieces va 0 (data t).length) (fun ps => startOp r i f.x { id := 0, th := 0, kind := .store, data := data t } ps) s) s

/-- Bytes of the scalar register RB that a store of n bytes writes. -/
def scalarData (f : SForm) (n : Nat) (t : Thread) : List Byte := leBytes n (t.sreg f.rb.toNat).toNat

/-- LDX.B to LDX.L of a tile. -/
def ldxScalarT (i : Instr) (f : SForm) (n : Nat) : TRef → State → State := loadT i f n (.scalar f.rd.toNat n)
/-- STX.B to STX.L of a tile. -/
def stxScalarT (i : Instr) (f : SForm) (n : Nat) : TRef → State → State := storeT i f (scalarData f n)

def execLdxD (w : Who) (f : SForm) (s : State) : Res :=
  tOnly w (.ldxD w f) f.x true [.d (f.rd.toNat % 8), .s f.ra.toNat] (loadT (.ldxD w f) f 32 (.desc (f.rd.toNat % 8))) s
def execStxD (w : Who) (f : SForm) (s : State) : Res :=
  tOnly w (.stxD w f) f.x true [.d (f.rb.toNat % 8), .s f.ra.toNat]
    (storeT (.stxD w f) f (fun t => leBytes 32 (t.dreg (f.rb.toNat % 8)).toNat)) s

/-- Address of lane i of LDX.V and STX.V (Table 6.7). -/
def laneAddr (f : VForm) (t : Thread) (i : Nat) : Nat := (t.sreg f.sr.toNat + sext16 f.imm + BitVec.ofNat 64 (4 * i)).toNat
/-- Address of lane i of LDX.VI and STX.VI. -/
def laneAddrI (f : VForm) (t : Thread) (i : Nat) : Nat :=
  (t.sreg f.sr.toNat + BitVec.ofNat 64 (lane (t.vreg f.vb.toNat) i * 2 ^ (f.imm.toNat % 4))).toNat

/-- The stretches of a vector form: 4 bytes for each unmasked lane (R181, R131). -/
def lanePieces (m : MReg) (addr : Nat → Nat) : List Piece :=
  (List.range 128).flatMap (fun i => if mbit m i then pieces (addr i) (4 * i) 4 else [])

/-- A vector memory form has no immediate source: I = 1 is FORM_MISMATCH (R174). -/
def noImmV (r : TRef) (f : VForm) (k : State → State) (s : State) : State := if f.i then finish r f.x stFormMismatch s else k s

/-- A vector load. With no unmasked lane it makes no access. -/
def loadLanesT (i : Instr) (f : VForm) (addr : VForm → Thread → Nat → Nat) (r : TRef) (s : State) : State :=
  notStandby r f.x (noImmV r f fun s =>
    let t := s.thread r
    let m := t.mreg f.mm.toNat
    let dst : Dst := .lanes f.vd.toNat f.z m
    let ps := lanePieces m (addr f t)
    if ps.isEmpty then finishWith r f.x (fun t => deliver t dst []) s
    else withAccess r i f.x .r ps (fun ps => startOp r i f.x { id := 0, th := 0, kind := .load, dst, data := List.replicate 512 0 } ps) s) s

/-- A vector store. -/
def storeLanesT (i : Instr) (f : VForm) (addr : VForm → Thread → Nat → Nat) (r : TRef) (s : State) : State :=
  notStandby r f.x (noImmV r f fun s =>
    let t := s.thread r
    let ps := lanePieces (t.mreg f.mm.toNat) (addr f t)
    withAccess r i f.x .w ps (fun ps => startOp r i f.x { id := 0, th := 0, kind := .store, data := leBytes 512 (t.vreg f.vd.toNat).toNat } ps) s) s

def vmemRegs (f : VForm) (idx : Bool) : List Reg :=
  [.v f.vd.toNat, .s f.sr.toNat, .m f.mm.toNat] ++ (if idx then [.v f.vb.toNat] else [])

def execLdxV (w : Who) (f : VForm) (s : State) : Res :=
  tOnly w (.ldxV w f) f.x f.x.isNone (vmemRegs f false) (loadLanesT (.ldxV w f) f laneAddr) s
def execLdxVI (w : Who) (f : VForm) (s : State) : Res :=
  tOnly w (.ldxVI w f) f.x f.x.isNone (vmemRegs f true) (loadLanesT (.ldxVI w f) f laneAddrI) s
def execStxV (w : Who) (f : VForm) (s : State) : Res :=
  tOnly w (.stxV w f) f.x f.x.isNone (vmemRegs f false) (storeLanesT (.stxV w f) f laneAddr) s
def execStxVI (w : Who) (f : VForm) (s : State) : Res :=
  tOnly w (.stxVI w f) f.x f.x.isNone (vmemRegs f true) (storeLanesT (.stxVI w f) f laneAddrI) s

/-- Element data bits from element i0 to the row's last, at most 512 bytes (R231, R233). -/
def streamBits (d : DReg) (i0 : Nat) : Nat := Nat.min 4096 (dWidth d * dExt d 0 - dWidth d * i0)

/-- The checks of a stream form, and its first byte's address: the element must begin a byte (R233). -/
def streamAt (f : DForm) (t : Thread) : Option (Nat × Nat) :=
  let d := t.dreg f.d1.toNat
  let st := starts d (t.sreg f.i10.toNat) (t.sreg f.i11.toNat)
  let e := elemAt d (st.getD 0 0) (st.getD 1 0) (st.getD 2 0) (st.getD 3 0)
  if descOk d && startsOk d st && e.2 == 0 then some (e.1, streamBits d (st.getD 0 0)) else none

/-- The run-ahead stream of a descriptor register follows what was last delivered, to the end of the row's data (R164); `ahead` sectors of
it are fetched already. -/
def streamNext (f : DForm) (ahead : Nat) (t : Thread) : Thread :=
  let d := t.dreg f.d1.toNat
  let st := starts d (t.sreg f.i10.toNat) (t.sreg f.i11.toNat)
  let a := (elemAt d (st.getD 0 0) (st.getD 1 0) (st.getD 2 0) (st.getD 3 0)).1
  let e := rowAddr d (st.getD 1 0) (st.getD 2 0) (st.getD 3 0) + ceilDiv (dWidth d * dExt d 0) 8
  { t with stream := mput t.stream f.d1.toNat { rows := [(a + 512, e)], ahead } }

/-- Sectors of a stream fetched ahead of demand that the buffer holds or awaits. -/
def raAhead (T : Tile) (th d : Nat) : Nat := (T.ra.filter (fun x => x.th == th && x.d == d && !x.stale)).length

def streamRegs (f : DForm) : List Reg := [.v (f.rd.toNat % 16), .d f.d1.toNat, .s f.i10.toNat, .s f.i11.toNat]

def ldxST (i : Instr) (f : DForm) (r : TRef) (s : State) : State :=
  notStandby r f.x (fun s =>
    match streamAt f (s.thread r) with
    | none => finish r f.x stFormMismatch s
    | some (va, bits) =>
      let n := ceilDiv bits 8
      withAccess r i f.x .r (pieces va 0 n) (fun ps s =>
        startOp r i f.x { id := 0, th := 0, kind := .load, dst := .stream (f.rd.toNat % 16) bits, data := List.replicate n 0 } ps
          (s.modThread r (streamNext f (raAhead (s.tile r.tile) r.th f.d1.toNat)))) s) s

def stxST (i : Instr) (f : DForm) (r : TRef) (s : State) : State :=
  notStandby r f.x (fun s =>
    let t := s.thread r
    match streamAt f t with
    | none => finish r f.x stFormMismatch s
    | some (va, bits) =>
      let n := ceilDiv bits 8
      withAccess r i f.x .w (pieces va 0 n) (fun ps =>
        startOp r i f.x { id := 0, th := 0, kind := .store, data := leBytes n ((t.vreg (f.rd.toNat % 16)).toNat % 2 ^ bits) } ps) s) s

def execLdxS (w : Who) (f : DForm) (s : State) : Res :=
  tOnly w (.ldxS w f) f.x f.x.isNone (streamRegs f) (ldxST (.ldxS w f) f) s
def execStxS (w : Who) (f : DForm) (s : State) : Res :=
  tOnly w (.stxS w f) f.x f.x.isNone (streamRegs f) (stxST (.stxS w f) f) s

/-! ### SEM (R158, R159) -/

/-- New value of the word (Table 5.13): `a` is the operand, `b` the second operand of CAS. -/
def semNew (op : Nat) (old a b : W64) : W64 :=
  match op with
  | 0 => old + a
  | 1 => a
  | 2 => if old == a then b else old
  | _ => old

/-- Every earlier access of the thread is performed, the operand streams of its MMAs included (R155); what its operations with
tokens access is not among them (R157). -/
def accessesDone (s : State) (r : TRef) : Bool :=
  !(s.tile r.tile).ops.any (fun o => o.th == r.th && o.kind != .runahead && o.dst != .job) &&
    !(s.tile r.tile).mmas.any (fun o => o.th == r.th)

/-- SEM of a tile: REL waits for the thread's earlier accesses; a word in the host window, of any device, gives FORM_MISMATCH in step 6
of R197. A word of a table window is served from its shadow copy, as R207 says of loads and stores there; R158 does not name it
(DESIGN CHOICE, log 95). -/
def semT (i : Instr) (f : SForm) (op : Nat) (r : TRef) (s : State) : State :=
  notStandby r f.x (fun s =>
    let t := s.thread r
    let va := (t.sreg f.ra.toNat).toNat
    if va % 8 != 0 then finish r f.x stMisaligned s
    else withAccess r i f.x .rw (pieces va 0 8) (fun ps s =>
      if ps.any (fun p => winOf (paLocal p.2.1) == .host) then finish r f.x stFormMismatch s
      else if bitOf f.sub 0 && !accessesDone s r then hold r i .order s
      else startOp r i f.x { id := 0, th := 0, kind := .sem, dst := .scalar f.rd.toNat 8, data := List.replicate 8 0, semOp := op, a := opB f t.sreg, b := t.sreg f.rc.toNat, acq := bitOf f.sub 1 } ps s) s) s

def semRegs (f : SForm) : List Reg := [.s f.rd.toNat, .s f.ra.toNat, .s f.rc.toNat] ++ (if f.i then [] else [.s f.rb.toNat])

/-- A read-modify-write of a local word at its home, with the cache attribute of its translation; the previous value, or none where the
word reads as poisoned. -/
def semAt (ca o op : Nat) (a b : W64) (s : State) : Option W64 × State :=
  if s.poisoned o 8 then (none, s)
  else
    let old := s.word o
    let s1 := if op == 3 then s else homeWrite o ca (leBytes 8 (semNew op old a b).toNat) s
    (some old, s1)

/-- The HBM or cache line of an address serves now: its interface is ON and not in self-refresh (R349, R465). -/
def hbmServes (s : State) (o : Nat) : Bool :=
  winOf o != .hbm || (s.domOn (81 + s.stackOf o) && !(s.sec.retention && (upPorts s).isEmpty) && !s.start.ioDown.contains 12)

/-- The window of a table waits while its swap is pending, and then while an instruction reads the old active copy (R103). -/
def Tile.rtWaits (T : Tile) : Bool := T.rtPend || T.rscs.any (fun o => o.rt != T.rtActive)
def Tile.cbWaits (T : Tile) : Bool := T.cbPend || T.mmas.any (fun o => o.cb.any (fun c => c != T.cbActive)) ||
  (T.cpyl.toList ++ T.cpylWait).any (fun o => o.cb.any (fun c => c != T.cbActive))
def tableReady (s : State) (o : Nat) : Bool :=
  winOf o != .table ||
  (let T := s.tile ((o - tableBase) / 0x10000)
   let k := (o - tableBase) % 0x10000
   if k < 0x4000 then !T.rtWaits else if k < 0x5000 then !T.cbWaits else true)

/-- The address lies in a table window of a tile that is being swapped (R399); what the tile itself has asked for does not wait, since
the swap waits for it (DEDUCED, log 62). -/
def swapHeld (s : State) (tile : Option Nat) (o : Nat) : Bool :=
  winOf o == .table && s.rep.tspRetiring && s.rep.tspQueue.head? == some ((o - tableBase) / 0x10000) && tile != some ((o - tableBase) / 0x10000)

/-- A tile's local request: its home can serve it now. -/
def homeReady (s : State) (tile pa : Nat) : Bool :=
  s.isLocal pa && winOf (paLocal pa) != .host && hbmServes s (paLocal pa) && tableReady s (paLocal pa) && !s.fillPending pa &&
  !swapHeld s (some tile) (paLocal pa)

/-- A SEM reaches its home and is performed there (R158). -/
def semPerform (tile op : Nat) (s : State) : State :=
  match s.op tile op with
  | none => s
  | some o =>
    match o.parts.head? with
    | none => s
    | some p =>
      let pa := (p.segs.head?.map (fun g => g.1)).getD p.pa
      if o.kind != .sem || !p.issued || o.old.isSome || o.status != 0 || !homeReady s tile pa || !p.rollFree s then s
      else
        let q := semAt p.ca (paLocal pa) o.semOp o.a o.b s
        match q.1 with
        | some old => q.2.modOp tile op (fun o => { o with old := some old })
        | none => q.2.modOp tile op (fun o => { o with status := stUncorrectable })

/-- The same from outside a reduction that holds the word's line: while one holds it, the SEM waits (R219). -/
def semHome (tile op : Nat) (s : State) : State :=
  match (s.op tile op).bind (fun o => o.parts.head?) with
  | none => s
  | some p => if s.lineHeld (paLocal ((p.segs.head?.map (fun g => g.1)).getD p.pa)) then s else semPerform tile op s

/-! ### Responses and acknowledgements (R162) -/

/-- The sector of a run-ahead fetch arrives, with its poison, and the bytes of peer or host memory; or the fetch fails. It enters the
buffer, or leaves it at once when it is stale or has failed; requests that wait for it are served, or are to be made again (R164, R204). -/
def raArrive (tile id : Nat) (st : Status) (bad : Bool) (data : List Byte) (s : State) : State :=
  match (s.op tile id).bind (fun o => o.parts.head?) with
  | none => s
  | some p =>
    let lost := st != stOk && st != stUncorrectable
    let bad := bad || st == stUncorrectable
    let s1 := s.modTile tile (fun T => { T with
      ra := mapIf (fun x => x.op == id) (fun x => { x with arrived := true, poisoned := bad, data }) T.ra })
    let s2 := raDrop tile (fun x => x.op == id && (lost || x.stale)) s1
    let s3 := partDone tile id 0 stOk s2
    let waiting := (s3.tile tile).ops.flatMap (fun q =>
      (q.parts.zipIdx.filter (fun y => y.1.sector == p.sector && y.1.sent && !y.1.done)).map (fun y => (q.id, y.2)))
    waiting.foldl (fun s w =>
      if lost then s.modPart tile w.1 w.2 (fun y => { y with issued := false, sent := false })
      else if !p.rollFree s then s.modPart tile w.1 w.2 (fun y => { y with sent := false })
      else raServe tile w.1 w.2 { op := id, th := 0, reel := 0, d := 0, pa := p.sector, poisoned := bad, data } s) s3

/-- The data of a local sector load returns, with what its check code found; the sector of a run-ahead fetch enters the
run-ahead buffer with its poison, and serves a demand that already waits for it (R164, R204). -/
def loadResponse (tile id k : Nat) (ecc : List Ecc) (s : State) : State :=
  match s.op tile id with
  | none => s
  | some o =>
    match o.parts[k]? with
    | none => s
    | some p =>
      let pa := (p.segs.head?.map (fun g => g.1)).getD p.pa
      let here := homeReady s tile pa || (s.cached pa p.ca && !s.fillPending pa && (s.line (lineOf pa)).isSome)
      if !p.issued || p.done || p.sent || !(o.kind == .load || o.kind == .runahead) || !here || !p.rollFree s then s
      else
        let mine := ecc.filter (fun e => p.segs.any (fun g => s.isLocal g.1 && rangesMeet (e.word * 32) 32 (paLocal g.1) g.2.2))
        let s1 := mine.foldl (fun s e => eccFound e s) s
        let s1 := cntPmc tile 0x18 o.reel (mine.filter (fun e => !e.bad)).length s1
        let s1 := if s.isLocal pa && winOf (paLocal pa) == .hbm && (s.line (lineOf pa)).isNone then
            cntBase (96 + 4 * s.stackOf (paLocal pa)) p.bytes s1
          else s1
        if o.kind == .load then loadPart tile id k s1
        else raArrive tile id stOk (p.segs.any (fun g => readStatus s1 g.1 g.2.2 != stOk)) (if s1.far pa then readAt s1 (p.sector * 256) 256 else []) s1

/-- A store miss that allocates finds no eligible way: it waits for one (R214, R220). -/
def State.wayStalls (s : State) (pa ca : Nat) : Bool :=
  s.cacheCols != 0 && winOf (paLocal pa) == .hbm && allocates ca && (s.line (lineOf pa)).isNone && (s.pickWay (lineOf pa)).isNone

/-- The acknowledgement of a local store or SEM returns: the store is performed at its home (R156, R162). -/
def storeAck (tile id k : Nat) (s : State) : State :=
  match s.op tile id with
  | none => s
  | some o =>
    match o.parts[k]? with
    | none => s
    | some p =>
      let pa := (p.segs.head?.map (fun g => g.1)).getD p.pa
      if !p.issued || p.done || !s.isLocal pa then s
      else match o.kind with
        | .store =>
          if winOf (paLocal pa) == .host then partDone tile id k stOk s
          else if !homeReady s tile pa || !p.rollFree s then s
          else if s.wayStalls pa p.ca then (if s.cache.fills.any (fun f => f.line == lineOf pa) then s else stallBegin (some (tile, o.reel)) (lineOf pa) p.ca 0 s)
          else
            let st := if p.segs.all (fun g => s.populated (paLocal g.1)) then stOk else stNoTarget
            let s1 := if st == stOk then (storeSegs o p).foldl (fun s g => homeWrite (paLocal g.1) p.ca g.2 s) s else s
            partDone tile id k st s1
        | .sem => if o.old.isSome || o.status != 0 then partDone tile id k o.status s else s
        | _ => s

/-- The thread's waiting requests take slots that have become free (R163). -/
def slotGrant (r : TRef) (s : State) : State :=
  ((s.tile r.tile).ops.filter (fun o => o.th == r.th && o.kind != .runahead && o.parts.any (fun p => !p.issued))).foldl
    (fun s o => issueParts false r.tile o.id s) s

/-! ### Instruction fetch (R171, R172) -/

/-- The next instruction of the thread needs the word that is being fetched: its base word, or its extension word. -/
def fetchNeeded (t : Thread) : Bool :=
  match t.fetched with
  | [] => true
  | [w] => bitOf w 8
  | _ => false

/-- A fetch fault: the instruction that needs the word completes with its status and the thread halts, its program counter
naming the base word (R171). -/
def fetchFault (r : TRef) (st : Status) (s : State) : State :=
  let t := s.thread r
  let s1 := s.modThread r (fun t => { t with fetchPage := none })
  if fetchNeeded t && canIssue s r then finishAt r st true 0 t.pc s1 else s1

/-- A fetched word arrives. -/
def fetchWord (r : TRef) (w : W64) (s : State) : State :=
  s.modThread r (fun t => if t.fetched.length < 4 then { t with fetched := t.fetched ++ [w], fetchPage := none } else t)

/-- The address of the word that the thread fetches next. -/
def Thread.fetchVa (t : Thread) : Nat := t.pc.toNat + 8 * t.fetched.length

/-- A fetched word is still the thread's next one: a jump or BAR, which discards the words fetched ahead, leaves it behind (R172). -/
def nextFetch (s : State) (r : TRef) (va : Nat) : Bool := (s.thread r).fetchVa == va

/-- A request for the thread's next word is on its way to a peer or to the host. -/
def fetching (s : State) (r : TRef) : Bool :=
  let o := RemOwner.fetch r (s.thread r).fetchVa
  s.links.reqs.any (fun q => q.owner == o) || s.host.reqs.any (fun q => q.owner == o)

/-- The word at a physical address that the fetch has reached: in memory, or in the line of peer or host memory that holds it. -/
def fetchServe (r : TRef) (pa : Nat) (s : State) : State :=
  let s := s.modThread r (fun t => { t with fetchFill := none })
  if s.far pa then fetchWord r (BitVec.ofNat 64 (leNat (s.lineBytes pa 8))) s
  else if s.poisoned (paLocal pa) 8 then fetchFault r stUncorrectable s
  else fetchWord r (s.word (paLocal pa)) s

/-- A fetch whose line passes through the cache (R212, R213): a hit is served; a miss waits for its fill where one starts. -/
def fetchCached (r : TRef) (pa ca : Nat) (s : State) : State :=
  let t := s.thread r
  if s.mustFetch pa && s.fetchStatus pa != stOk then fetchFault r (s.fetchStatus pa) s
  else
    let s1 := if t.fetchFill == some pa && !s.mustFetch pa then s else cacheRead (some (r.tile, t.reel)) pa ca s
    if s1.fillPending pa then s1.modThread r (fun t => { t with fetchFill := some pa }) else fetchServe r pa s1

/-- One fetch of the next sequential word, through translation with R permission; it holds no slot. -/
def fetchT (r : TRef) (s : State) : State :=
  let t := s.thread r
  let va := t.fetchVa
  if !t.live || t.halted || t.fetched.length ≥ 4 || fetching s r || s.sec.retention then s
  else match xlate s (some r.tile) .r va with
    | .bad _ st => fetchFault r st s
    | .miss => needPage va r.tile (s.modThread r (fun t => { t with fetchPage := some (pageOf va) }))
    | .ok pa ca =>
      let s := installTile r.tile va s
      if !s.far pa && (!hbmServes s (paLocal pa) || s.rollHeld (paLocal pa) 8) then s
      else if s.cached pa ca then fetchCached r pa ca s
      else if s.far pa then
        let q := farRead pa 8 (.fetch r va) s
        if q.2 == stOk then q.1 else fetchFault r q.2 s
      else fetchServe r pa s

def execInstructionFetch (r : TRef) (s : State) : Res := .next (fetchT r s)

/-! ### Run-ahead (R164, R230) -/

/-- The run-ahead buffer takes one sector more: full, with 128 sectors, it gives up the oldest that has arrived; none is
given up while none has arrived (R164; which one goes is DESIGN CHOICE, log 97). -/
def raRoom (tile : Nat) (s : State) : Option State :=
  if (s.tile tile).ra.length < 128 then some s
  else ((s.tile tile).ra.find? (fun x => x.arrived)).map (fun x => raDrop tile (fun y => y == x) s)

/-- A run-ahead fetch of the next sector of a descriptor register's stream, which takes its stretches in turn. A fetch whose page is
not held, or whose checks fail, is dropped and counted. -/
def raFetch (r : TRef) (d : Nat) (s : State) : State :=
  let t := s.thread r
  let T := s.tile r.tile
  let x : RaStream := (mfind t.stream d).getD {}
  match x.rows.filter (fun g => g.1 < g.2) with
  | [] => s
  | (va, e) :: rest =>
    if !t.live || !T.raEn || s.sec.retention || x.ahead ≥ Nat.min T.raDist 64 then s
    else
      let next := (va / 256 + 1) * 256
      let go := fun (n : Nat) (s : State) => s.modThread r (fun t => { t with
        stream := mput t.stream d { rows := rest ++ (if next < e then [(next, e)] else []), ahead := x.ahead + n } })
      match xlate s (some r.tile) .r va with
      | .ok pa ca =>
        let part : Part := { sector := pa / 256, va, ca, segs := [(pa / 256 * 256, 0, 256)] }
        let id := s.opSeq
        let o : MemOp := { id, th := r.th, kind := .runahead, parts := [part], data := List.replicate 256 0, reel := t.reel, slot := t.cueSlot }
        if (T.raFind (pa / 256)).isSome then go 0 s
        else if !slotOk s r.tile o part || s.fetchStatus pa != stOk then s
        else match raRoom r.tile s with
          | none => s
          | some s0 =>
            let s1 := installTile r.tile va { s0 with opSeq := id + 1 }
            let s2 := s1.modTile r.tile (fun T => { T with
              ops := T.ops ++ [o]
              ra := T.ra ++ [{ op := id, th := r.th, reel := t.reel, d, pa := pa / 256 }] })
            issueParts false r.tile id (go 1 s2)
      | _ => cntPmc r.tile 0x16 t.reel 1 s

def execRunaheadFetch (r : TRef) (d : BitVec 3) (s : State) : Res := .next (raFetch r d.toNat s)

end Sys2Proof.Machine
end

