-- ==== Sys2Proof/Machine/Flags.lean ====
section
/-! DEFINITION. The draws of stochastic rounding (R69), and conversions that take them and raise numeric flags (R72). -/
namespace Sys2Proof.Machine

/-- The 16-bit number that a site draws at a counter value (R69). -/
def drawU (seed : W64) (site counter : Nat) : Nat :=
  let z0 := seed ^^^ BitVec.ofNat 64 (site * 2 ^ 48) ^^^ BitVec.ofNat 64 counter
  let z1 := (z0 ^^^ (z0 >>> 30)) * 0xBF58476D1CE4E5B9
  let z2 := (z1 ^^^ (z1 >>> 27)) * 0x94D049BB133111EB
  let z3 := z2 ^^^ (z2 >>> 31)
  (z3 >>> 48).toNat

/-- Sites of R69. -/
def siteRescale (tile : Nat) : Nat := tile
def siteBank (layer col : Nat) : Nat := 256 + 64 * layer + col
def siteVector (tile : Nat) : Nat := 1024 + tile

/-- The flags that any of a list raises. -/
def orFlags : List Flags4 → Flags4
  | [] => 0
  | f :: fs => f ||| orFlags fs

/-- Conversions of one site, in the order given: each that draws takes one of the counters, and which one is left open
(R69), so the choice among several is a free value. -/
def drawEach (u : Nat → Nat) : List (Nat → Conv) → List Nat → State → List Conv × State
  | [], _, s => ([], s)
  | f :: fs, cs, s =>
    let c0 := f 0
    if !c0.drew then
      let r := drawEach u fs cs s
      (c0 :: r.1, r.2)
    else
      let pick := if cs.length ≤ 1 then (0, s) else s.fresh
      let c := cs.getD (pick.1 % cs.length) 0
      let r := drawEach u fs (cs.erase c) pick.2
      (f (u c) :: r.1, r.2)

/-- The conversions of one operation at a site, each a function of its draw; the reel's counter for the site advances once
for each draw (R69). -/
def convEach (site reel : Nat) (items : List (Nat → Conv)) (s : State) : List Conv × State :=
  let n := (items.filter (fun f => (f 0).drew)).length
  if n == 0 then (items.map (fun f => f 0), s)
  else
    let R := s.reel reel
    let c := mget 0 R.draws site
    let r := drawEach (drawU R.seed site) items ((List.range n).map (fun k => (c + k) % 2 ^ 48)) s
    (r.1, r.2.modReel reel (fun R => { R with draws := mput R.draws site ((c + n) % 2 ^ 48) }))

end Sys2Proof.Machine
end

