-- ==== Sys2Proof/Machine/Tensor.lean ====
section
/-! DEFINITION. Tensors element by element: reading them in the C32 layout (R231, R232), the products of the arrays (R76 to
R78, R91), the ledger and the tally (R87 to R93), the rescale arithmetic (R96, R97), and the conversion of CPYL (R234). -/
namespace Sys2Proof.Machine

/-! ### Elements -/

/-- What a byte address reads as; none when it could not be read. -/
abbrev Rd := Nat → Option Byte

/-- The w bits at a bit of a byte address. -/
def readBits (rd : Rd) (a bit w : Nat) : Option Nat :=
  let bs := (List.range (ceilDiv (bit + w) 8)).map (fun k => rd (a + k))
  if bs.all Option.isSome then some ((leNat (bs.map (fun b => b.getD 0)) >>> bit) % 2 ^ w) else none

/-- Pattern of an element. -/
def patAt (rd : Rd) (d : DReg) (i0 i1 i2 i3 : Nat) : Option Nat :=
  let e := elemAt d i0 i1 i2 i3
  readBits rd e.1 e.2 (dWidth d)

/-- Scale code of an element's group; 127 for an unscaled tensor. -/
def scaleOfElem (rd : Rd) (d : DReg) (i0 i1 i2 i3 : Nat) : Option Nat :=
  if dScaled d then (rd (scaleAt d i0 i1 i2 i3)).map BitVec.toNat else some 127

/-- Expansion of an I4 pattern under a selector byte (R63, R64). -/
def expandI4 (cb : Nat → Byte) (zp : Bool) (sel q : Nat) : Num :=
  if zp then finOf (signedOf 4 q - signedOf 4 (sel % 16)) 0 false else fE4M3.decode (cb (16 * sel + q)).toNat

/-- An element before its scale, and its scale code; none when a byte it needs could not be read. -/
def elemVal (rd : Rd) (cb : Nat → Byte) (d : DReg) (i0 i1 i2 i3 : Nat) : Option (Num × Nat) :=
  match patAt rd d i0 i1 i2 i3, scaleOfElem rd d i0 i1 i2 i3, elemOf (dFmt d) with
  | some p, some sc, some el =>
    if el == .i4 then (rd (selectorAt d i0 i1 i2 i3)).map (fun sel => (expandI4 cb (dI4zp d) sel.toNat p, sc))
    else some (el.decode p, sc)
  | _, _, _ => none

/-! ### Stretches of memory -/

/-- The bytes of elements lo to hi - 1 of a row, with their scales and selectors, as (address, length). -/
def rowRanges (d : DReg) (lo hi i1 i2 i3 : Nat) : List (Nat × Nat) :=
  if lo ≥ hi then []
  else
    let a := elemAt d lo i1 i2 i3
    let z := elemAt d (hi - 1) i1 i2 i3
    let data := (a.1, z.1 + ceilDiv (z.2 + dWidth d) 8 - a.1)
    if !dScaled d then [data]
    else
      let sa := scaleAt d lo i1 i2 i3
      let n := scaleAt d (hi - 1) i1 i2 i3 + 1 - sa
      [data, (sa, n)] ++ (if dFmt d == 9 then [(selectorAt d lo i1 i2 i3, n)] else [])

/-- Cut a stretch at the bounds of 64 KiB pages. -/
def cutPages : Nat → Nat → Nat → List (Nat × Nat)
  | 0, _, _ => []
  | k + 1, a, n =>
    let m := Nat.min n (65536 - a % 65536)
    if n == 0 then [] else (a, m) :: cutPages k (a + m) (n - m)
def pageCuts (g : Nat × Nat) : List (Nat × Nat) := cutPages (g.2 / 65536 + 2) g.1 g.2

/-- The bytes that span a whole tensor (R235): to the end of the last row's elements, or of the scales and selectors of the last row that
holds any. -/
def tensorSpan (d : DReg) : Nat × Nat :=
  let top := fun (last : Nat → Nat) => (List.range 3).foldl (fun a k => a + last (k + 1) * dStride d (k + 1)) (dBase d)
  let last := fun (k : Nat) => dExt d k - 1
  let elems := top last + ceilDiv (dWidth d * dExt d 0) 8
  if !dScaled d then (dBase d, elems)
  else
    let lastScaled := fun (k : Nat) => if k == dGaxis d then last k / dGsz d * dGsz d else last k
    (dBase d, Nat.max elems (top lastScaled + scaleOff d + scaleCount d * (if dFmt d == 9 then 2 else 1)))

/-- Every row of the part of a tensor from start indices: (i1, i2, i3). -/
def rowsFrom (d : DReg) (st : List Nat) : List (Nat × Nat × Nat) :=
  (List.range (dExt d 3 - st.getD 3 0)).flatMap (fun c => (List.range (dExt d 2 - st.getD 2 0)).flatMap (fun b =>
    (List.range (dExt d 1 - st.getD 1 0)).map (fun a => (st.getD 1 0 + a, st.getD 2 0 + b, st.getD 3 0 + c))))

/-- A byte of stretches that were read as (address, offset, length), with the offsets that could not be. -/
def rdSegs (segs : List (Nat × Nat × Nat)) (data : List Byte) (bad : List Nat) : Rd := fun a =>
  match segs.find? (fun g => g.1 ≤ a && a < g.1 + g.2.2) with
  | none => none
  | some g => let o := g.2.1 + (a - g.1); if bad.contains o then none else data[o]?

/-- Lay stretches one after another: (address, offset, length). -/
def laySegs : Nat → List (Nat × Nat) → List (Nat × Nat × Nat)
  | _, [] => []
  | o, g :: gs => (g.1, o, g.2) :: laySegs (o + g.2) gs

/-! ### Products (R76 to R78, R91) -/

/-- Rank of a format among the array's operands: the narrow floats and I4, I8, F16 (Table 3.1). -/
def narrowFloat (c : Nat) : Bool := 3 ≤ c && c ≤ 7
/-- Products per beat of an operand pair; none when the pair is not accepted (Table 3.1). -/
def pairRate (a b : Nat) : Option Nat :=
  if a == 7 && b == 7 then some 64
  else if narrowFloat a && narrowFloat b then some 32
  else if (a == 9 && narrowFloat b) || (narrowFloat a && b == 9) then some 32
  else if a == 8 && b == 8 then some 32
  else if a == 1 && b == 1 then some 16
  else none

/-- fX of Table 3.2. -/
def unitOf (c : Nat) : Int :=
  match elemOf c with
  | some (.fl f) => f.qmin
  | some .i4 => fE4M3.qmin
  | _ => 0

/-- A product: zero, counted with its combined scale, its value in units of 2^(fA + fB) and its binade before scaling, or
not finite. -/
inductive Prod where
  | zero
  | fin (sc : Int) (v : Int) (lg : Int)
  | inf (neg : Bool)
  | nan (fresh : Bool)
  deriving DecidableEq, Repr

def log2Of : Num → Int
  | .fin _ m e => (Nat.log2 m : Int) + e
  | _ => 0

/-- The exact product of two elements (R78, R91); one that could not be read gives a NaN that is not fresh (R84). -/
def mkProd (f : Int) (a b : Option (Num × Nat)) : Prod :=
  match a, b with
  | some (x, sx), some (y, sy) =>
    if sx == 0xFF || sy == 0xFF then .nan false
    else
      let p := numMul x y
      match p.1 with
      | .nan => .nan p.2
      | .inf neg => .inf neg
      | .fin neg m e =>
        if m == 0 then .zero
        else .fin ((sx : Int) + sy - 254) (alignTo (sgnMul neg m) e f) (log2Of x + log2Of y)
  | _, _ => .nan false

/-! ### Accumulation -/

/-- A product that is not finite enters TAG (R91): 0 finite, 1 and 2 the infinities, 3 NaN. -/
def tagInf (o : Output) (neg : Bool) : Output :=
  let t := if neg then 2 else 1
  if o.tag == 0 then { o with tag := t } else if o.tag == t || o.tag == 3 then o else { o with tag := 3, nvg := true }
def tagNan (o : Output) (fresh : Bool) : Output := if o.tag == 3 then o else { o with tag := 3, nvg := o.nvg || fresh }

/-- Add one product to a ledger output (R88 to R91). -/
def addLedger (f : Int) (o : Output) (p : Prod) : Output :=
  if o.rng then o
  else match p with
    | .zero => o
    | .inf neg => tagInf o neg
    | .nan fresh => tagNan o fresh
    | .fin sc v _ =>
      if o.count ≥ 2 ^ 31 then { o with rng := true }
      else if !o.v then { o with l := v, anchor := sc + f, spread := 0, v := true, count := 1 }
      else
        let smin := o.anchor - f
        let smax := smin + o.spread
        if sc < smin then
          if smax - sc > 96 then { o with rng := true }
          else { o with l := o.l * 2 ^ (smin - sc).toNat + v, anchor := sc + f, spread := (smax - sc).toNat, count := o.count + 1 }
        else if sc - smin > 96 then { o with rng := true }
        else { o with l := o.l + v * 2 ^ (sc - smin).toNat, spread := if sc > smax then (sc - smin).toNat else o.spread, count := o.count + 1 }

/-- Window exponent Aw of a list of products; none when none is counted (R92). -/
def windowExp : List Prod → Option Int
  | [] => none
  | .fin sc _ lg :: ps =>
    let a := lg + sc + 2
    match windowExp ps with
    | none => some a
    | some b => some (if a ≥ b then a else b)
  | _ :: ps => windowExp ps

/-- A value v 2^q rounded to the nearest multiple of 2^k, ties to even, as that multiple. -/
def roundUnits (v : Int) (q k : Int) : Int := sgnMul (v < 0) (roundAt .rne 0 v.natAbs q k false).1

/-- Add one product to a tally output's register (R92). -/
def addTally (f : Int) (o : Output) (p : Prod) : Output :=
  match p with
  | .zero => o
  | .inf neg => tagInf o neg
  | .nan fresh => tagNan o fresh
  | .fin sc v _ => { o with v := true, win := o.win + roundUnits v (f + sc) (o.anchor - 11) }

/-- Promotion at the end of a window (R93); `any` says that the window held a counted product. -/
def promote (o : Output) (any : Bool) : Output :=
  if !any then { o with win := 0 }
  else
    let x := fF32.decode o.part.toNat
    let c := fF32.conv .rne false 0 (numAdd x (finOf o.win (o.anchor - 11) false)).1
    let o1 := { o with part := BitVec.ofNat 32 c.pat, win := 0 }
    match x, fF32.decode c.pat with
    | .fin .., .inf neg => { tagInf o1 neg with tof := true }
    | _, _ => o1

/-! ### The rescale stage (R96, R97) -/

/-- y of an output under a table entry, before rounding, and the flags that it raises by itself: NV and NF for a range event (R90),
whatever the output format. -/
def rescale (tally : Bool) (o : Output) (e : BitVec 128) : Num × Flags4 :=
  let fl : Flags4 := (if o.tof then fOF else 0)
  if o.rng || o.tag == 3 then (.nan, fl ||| (if o.rng then fNV ||| fNF else if o.nvg then fNV else 0))
  else
    let x : Num :=
      if o.tag == 1 then .inf false
      else if o.tag == 2 then .inf true
      else if tally then (let p := fF32.decode o.part.toNat; if p.isZero then .fin false 0 0 else p)
      else finOf o.l o.anchor false
    let r := numFma x (fF32.decode (bitsOf e 31 0)) (fF32.decode (bitsOf e 63 32))
    let y := if bitOf e 100 && !r.1.isNan then
        numMin (numMax r.1 (fBF16.decode (bitsOf e 79 64))) (fBF16.decode (bitsOf e 95 80))
      else r.1
    (y, fl ||| (if r.2 then fNV else 0))

/-! ### Writing elements -/

/-- One element to write: its indices, and its pattern. -/
structure Cell where
  i0 : Nat
  i1 : Nat
  i2 : Nat
  i3 : Nat
  pat : Nat
  deriving DecidableEq, Repr

/-- The bytes that a run of neighbouring elements of one row writes, from element `lo`: bits of the first and last byte
that belong to other elements stay as `old` has them, and padding bits beyond the row's last element are zero (R231). -/
def runBytes (d : DReg) (old : Nat → Byte) (lo i1 i2 i3 : Nat) (pats : List Nat) : List (Nat × Byte) :=
  let w := dWidth d
  let a := elemAt d lo i1 i2 i3
  let bits := a.2 + w * pats.length
  let n := ceilDiv bits 8
  let mine := pats.foldr (fun x acc => x % 2 ^ w + acc * 2 ^ w) 0 * 2 ^ a.2
  let before := (old a.1).toNat % 2 ^ a.2
  let last := if lo + pats.length ≥ dExt d 0 then 0 else (old (a.1 + n - 1)).toNat / 2 ^ ((bits - 1) % 8 + 1) * 2 ^ bits
  (List.range n).map (fun k => (a.1 + k, BitVec.ofNat 8 ((before + mine + last) / 2 ^ (8 * k))))

/-- Neighbouring bytes joined into stretches: (address, bytes). -/
def joinBytes : List (Nat × Byte) → List (Nat × List Byte)
  | [] => []
  | (a, b) :: l =>
    match joinBytes l with
    | (a', bs) :: r => if a + 1 == a' then (a, b :: bs) :: r else (a, [b]) :: (a', bs) :: r
    | [] => [(a, [b])]

/-- A group of a block-scaled result converted: its scale code, and for each member the conversion as a function of its
draw, under the member's own rounding control (R60, R61, R98). -/
def groupConv (el : Elem) (vals : List Num) (ctl : Nat → Nat) : Nat × Flags4 × List (Nat → Conv) :=
  if groupBad el vals then (0xFF, groupBadFlags vals, vals.map (fun _ _ => ⟨0, 0, false⟩))
  else
    let sc := scaleCode el vals
    (sc, 0, vals.zipIdx.map (fun v u => el.conv (rmodeOf (ctl v.2)) (satOf (ctl v.2)) u ((sc : Int) - 127) v.1))

/-! ### CPYL (R234) -/

/-- Source and destination have one encoding. -/
def sameEncoding (a b : DReg) : Bool :=
  dFmt a == dFmt b && dScaled a == dScaled b && dGsz a == dGsz b && dGaxis a == dGaxis b && (dFmt a != 9 || dI4zp a == dI4zp b)

/-- Decoded value of a source element with the flags of its decoding; an element that could not be read is a NaN. -/
def cpylValue (rd : Rd) (cb : Nat → Byte) (d : DReg) (i0 i1 i2 i3 : Nat) : Num × Flags4 :=
  match elemVal rd cb d i0 i1 i2 i3 with
  | none => (.nan, 0)
  | some (x, sc) =>
    if !dScaled d then (x, 0)
    else if sc == 0xFF then (.nan, 0)
    else
      let y := numScale x ((sc : Int) - 127)
      let c := fF32.conv .rne false 0 y
      (fF32.decode c.pat, if y.isFin then c.flags else 0)

end Sys2Proof.Machine
end

