-- ==== Sys2Proof/Machine/Array.lean ====
section
/-! DEFINITION. The matrix arrays (chapter 3): output sets and handles, operand staging, beats, the rescale stage, and the
layout and format copy CPYL (R234, R235). -/
namespace Sys2Proof.Machine

/-! ### Shapes and streams -/

/-- M and N of a SHAPE code (Table 6.3). -/
def shapeMN : Nat → Nat × Nat
  | 0 => (32, 32)
  | 1 => (16, 64)
  | 2 => (64, 16)
  | 3 => (8, 128)
  | _ => (128, 8)

/-- Stretches cut at page bounds, as the check of an access takes them. -/
def pagePieces (l : List (Nat × Nat)) : List Piece := (l.flatMap pageCuts).map (fun g => ⟨g.1, 0, g.2⟩)

/-- Stretches laid one after another and cut into sector requests. -/
def streamPieces (pages : PageMap) (segs : List (Nat × Nat × Nat)) : List (Piece × Nat × Nat) :=
  (segs.flatMap (fun g => pieces g.1 g.2.1 g.2.2)).map (fun p => let x := paOf pages p.va; (p, x.1, x.2))

/-! ### MMA: operands -/

/-- Rows of an operand within its extent: i1 for each m or n. -/
def rowsIn (d : DReg) (st : List Nat) (n : Nat) : List Nat :=
  ((List.range n).map (fun k => st.getD 1 0 + k)).filter (fun i => i < dExt d 1)

/-- Stretches of one operand for reduction indices lo to hi - 1, relative to its start. -/
def operandRanges (d : DReg) (st : List Nat) (n lo hi : Nat) : List (Nat × Nat) :=
  let a := st.getD 0 0 + lo
  let b := Nat.min (st.getD 0 0 + hi) (dExt d 0)
  ((rowsIn d st n).flatMap (fun i => rowRanges d a b i (st.getD 2 0) (st.getD 3 0))).eraseDups

def ArrOp.rate (o : ArrOp) : Nat := (pairRate (dFmt o.da) (dFmt o.db)).getD 32
/-- Beats of an MMA (R106). -/
def ArrOp.beats (o : ArrOp) : Nat := ceilDiv o.k o.rate

/-- Stretches of both operands for one beat (R77, R81). -/
def ArrOp.beatRanges (o : ArrOp) (shape b : Nat) : List (Nat × Nat) :=
  let mn := shapeMN shape
  let lo := b * o.rate
  let hi := Nat.min ((b + 1) * o.rate) o.k
  operandRanges o.da o.sa mn.1 lo hi ++ operandRanges o.db o.sb mn.2 lo hi

/-- The next beats of a handle, at most 8 over its MMAs in order (R80): position in the tile's list, and beat. -/
def wantBeats : Nat → Nat → Nat → List ArrOp → List (Nat × Nat)
  | _, _, _, [] => []
  | h, budget, j, o :: l =>
    if o.h != h then wantBeats h budget (j + 1) l
    else
      let n := Nat.min budget (o.beats - o.at_)
      ((List.range n).map (fun k => (j, o.at_ + k))) ++ wantBeats h (budget - n) (j + 1) l

/-- Demand has reached these ranges of a run-ahead stream: what it fetches next lies beyond them (R164). -/
def RaStream.demand (l : List (Nat × Nat)) (x : RaStream) : RaStream :=
  { x with rows := (x.rows.map (fun p => l.foldl (fun (p : Nat × Nat) g =>
      if p.1 < g.1 + g.2 && g.1 + g.2 ≤ p.2 then (ceilDiv (g.1 + g.2) 256 * 256, p.2) else p) p)).filter (fun p => p.1 < p.2) }

/-- Fetch one beat's operands into staging. -/
def fetchBeat (tile h j b : Nat) (s : State) : State :=
  let T := s.tile tile
  match T.mmas[j]?, mfind T.sets h with
  | some o, some S =>
    if o.staged.any (fun x => x.beat == b) then s
    else
      let segs := laySegs 0 (o.beatRanges S.shape b)
      if segs.isEmpty then
        s.modTile tile (fun T => { T with mmas := T.mmas.set j { o with staged := o.staged ++ [{ beat := b, segs := [] }] } })
      else
        let n := sumN (segs.map (fun g => g.2.2))
        let r := startJob tile o.th o.reel o.slot .load (List.replicate n 0) (streamPieces o.pages segs) s
        let s1 := (r.2.modTile tile (fun T => { T with
          mmas := T.mmas.set j { o with staged := o.staged ++ [{ beat := b, op := some r.1, segs }] } })).modThread ⟨tile, o.th⟩
            (fun t => { t with stream := t.stream.map (fun x => (x.1, x.2.demand (segs.map (fun g => (g.1, g.2.2))))) })
        issueParts true tile r.1 s1
  | _, _ => s

/-- The handle's staging is filled ahead of its beats (R81). -/
def fillStage (tile h : Nat) (s : State) : State :=
  (wantBeats h 8 0 (s.tile tile).mmas).foldl (fun s x => fetchBeat tile h x.1 x.2 s) s

/-! ### MMA: issue -/

/-- The T bits of the columns of a set opened at base b on the active table (R85). -/
def tallyCols (T : Tile) (b n : Nat) : BitVec 128 :=
  BitVec.ofNat 128 ((List.range n).foldr (fun k acc => b2n (bitOf (mget 0 T.rtLive ((b + k) % 1024)) 99) + 2 * acc) 0)

def OutSet.isTally (S : OutSet) (d : Nat) : Bool := bitOf S.tcols (d % (shapeMN S.shape).2)

/-- The pool and staging conditions of R86 hold for these sets together. -/
def poolOk (sets : List OutSet) : Bool :=
  (List.range 1024).all (fun d =>
    let nT := (sets.filter (fun S => S.isTally d)).length
    let nL := sets.length - nT
    6 * nL + nT ≤ 24 && nL ≤ 4 && nT ≤ 8) &&
  sumN (sets.map (fun S => 8 * (shapeMN S.shape).1 * 32)) ≤ 65536 && sumN (sets.map (fun S => 8 * (shapeMN S.shape).2 * 32)) ≤ 65536

/-- Format of an operand as an open fixes it: FMT and SCALED. -/
def operandFmt (d : DReg) : Nat := dFmt d + 16 * b2n (dScaled d)

/-- GDIR agrees with GAXIS (R154). -/
def gdirOk (d : DReg) : Bool := (dGaxis d == 0 && !dGdirN d) || (dGaxis d == 1 && dGdirN d)

/-- The field and descriptor checks of an MMA (R76, R84, R153, R154, R175, R184). -/
def mmaFormOk (f : DForm) (t : Thread) : Bool :=
  let da := t.dreg f.d1.toNat
  let db := t.dreg f.d2.toNat
  f.shape.toNat ≤ 4 && bitsOf (f.x.getD 0) 19 0 != 0 && descOk da && descOk db && gdirOk da && gdirOk db &&
  startsOk da (starts da (t.sreg f.i10.toNat) (t.sreg f.i11.toNat)) && startsOk db (starts db (t.sreg f.i20.toNat) (t.sreg f.i21.toNat)) &&
  (pairRate (dFmt da) (dFmt db)).isSome

/-- The MMA as it enters the array. -/
def mmaOp (f : DForm) (r : TRef) (T : Tile) (h : Nat) : ArrOp :=
  let t : Thread := mget {} T.threads r.th
  let da := t.dreg f.d1.toNat
  let db := t.dreg f.d2.toNat
  { h
    th := r.th
    reel := t.reel
    slot := t.cueSlot
    da
    db
    sa := starts da (t.sreg f.i10.toNat) (t.sreg f.i11.toNat)
    sb := starts db (t.sreg f.i20.toNat) (t.sreg f.i21.toNat)
    k := bitsOf (f.x.getD 0) 19 0
    cb := if dFmt da == 9 || dFmt db == 9 then some T.cbActive else none
    pc := t.pc }

/-- The stream of an MMA operand for run-ahead: every stretch of its rows beyond the beats that staging asks for at once (R80, R164). -/
def mmaStream (d : DReg) (st : List Nat) (n rate k : Nat) : RaStream :=
  { rows := (operandRanges d st n (Nat.min (8 * rate) k) k).map (fun g => (g.1, g.1 + g.2)) }

/-- An MMA whose checks have passed starts on a handle: the thread goes on, and the operands start to stream (R81). -/
def mmaStart (f : DForm) (r : TRef) (o : ArrOp) (ps : List (Piece × Nat × Nat)) (s : State) : State :=
  let o := { o with pages := pagesOf ps, spans := spansOf ps }
  let s1 := s.modTile r.tile (fun T => { T with mmas := T.mmas ++ [o] })
  let s2 := s1.modThread r (fun t => { t with
    stream := mput (mput t.stream f.d1.toNat (mmaStream o.da o.sa (shapeMN f.shape.toNat).1 o.rate o.k)) f.d2.toNat
      (mmaStream o.db o.sb (shapeMN f.shape.toNat).2 o.rate o.k) })
  fillStage r.tile o.h (advance r f.x s2)

/-- The checks that both forms share, then `k` with the translated operands (R155, R197). -/
def mmaCheck (i : Instr) (f : DForm) (r : TRef) (formOk : State → Bool) (k : ArrOp → List (Piece × Nat × Nat) → State → State)
    (s : State) : State :=
  notStandby r f.x (fun s =>
    if !mmaFormOk f (s.thread r) || !formOk s then finish r f.x stFormMismatch s
    else
      let mn := shapeMN f.shape.toNat
      let o := mmaOp f r (s.tile r.tile) 0
      let l := operandRanges o.da o.sa mn.1 0 o.k ++ operandRanges o.db o.sb mn.2 0 o.k
      withAccess r i f.x .r (pagePieces l) (fun ps s =>
        if mustWait s r ps || acqWaiting s r then hold r i .order s else k o ps s) s) s

def freeHandle (T : Tile) : Nat := ((List.range 8).find? (fun h => (mfind T.sets h).isNone)).getD 8

/-- MMA in open form (R82, R85, R86). -/
def mmaOpenT (i : Instr) (f : DForm) (r : TRef) (s : State) : State :=
  mmaCheck i f r (fun _ => true) (fun o ps s =>
    let T := s.tile r.tile
    let base := bitsOf (f.x.getD 0) 29 20
    let h := freeHandle T
    let set_ : OutSet :=
      { shape := f.shape.toNat, fmtA := operandFmt o.da, fmtB := operandFmt o.db, rbase := base, th := r.th,
        reel := o.reel, slot := o.slot, tcols := tallyCols T base (shapeMN f.shape.toNat).2 }
    if h ≥ 8 || !poolOk (T.sets.map (fun x => x.2) ++ [set_]) then finish r f.x stPoolFull (cntPmc r.tile 0x07 o.reel 1 s)
    else
      let s1 := s.modTile r.tile (fun T => { T with sets := mput T.sets h set_ })
      let s2 := trace 0x08 (some r.tile) r.th o.reel (h + 8 * f.shape.toNat) s1
      mmaStart f r { o with h } ps (s2.modThread r (fun t => t.setS f.rd.toNat (BitVec.ofNat 64 h)))) s

/-- The handle that a continue MMA names is in flight, with no RSC issued, and of one shape, formats and base (R82). -/
def contOk (f : DForm) (r : TRef) (s : State) : Bool :=
  let t := s.thread r
  match mfind (s.tile r.tile).sets (t.sreg f.rd.toNat).toNat with
  | none => false
  | some S => !S.rsc && S.shape == f.shape.toNat && S.fmtA == operandFmt (t.dreg f.d1.toNat) && S.fmtB == operandFmt (t.dreg f.d2.toNat) &&
      S.rbase == bitsOf (f.x.getD 0) 29 20

def mmaContT (i : Instr) (f : DForm) (r : TRef) (s : State) : State :=
  mmaCheck i f r (contOk f r) (fun o ps s => mmaStart f r { o with h := ((s.thread r).sreg f.rd.toNat).toNat } ps s) s

def mmaRegs (f : DForm) : List Reg :=
  [.s f.rd.toNat, .d f.d1.toNat, .d f.d2.toNat, .s f.i10.toNat, .s f.i11.toNat, .s f.i20.toNat, .s f.i21.toNat]

def execMmaOpen (w : Who) (f : DForm) (s : State) : Res :=
  tOnly w (.mmaOpen w f) f.x f.x.isSome (mmaRegs f) (mmaOpenT (.mmaOpen w f) f) s
def execMmaCont (w : Who) (f : DForm) (s : State) : Res :=
  tOnly w (.mmaCont w f) f.x f.x.isSome (mmaRegs f) (mmaContT (.mmaCont w f) f) s

/-! ### Beats -/

/-- The MMA of a handle that takes its next beat. -/
def nextMma (T : Tile) (h : Nat) : Option ArrOp := T.mmas.find? (fun o => o.h == h && o.at_ < o.beats)

/-- Last beat of the tally window that a beat lies in (R92). -/
def ArrOp.windowEnd (o : ArrOp) (b : Nat) : Nat := Nat.min (b / 4 * 4 + 3) (o.beats - 1)

/-- The operands of a beat are staged; a tally set needs its whole window (R81, R92). -/
def ArrOp.ready (o : ArrOp) (S : OutSet) : Bool :=
  let last := if S.tcols == 0 then o.at_ else o.windowEnd o.at_
  (List.range (last + 1 - o.at_)).all (fun k => o.staged.any (fun x => x.beat == o.at_ + k && x.op.isNone))

/-- Deadline that ranks a set at the array: none when it is untimed (R387, R388, R533). -/
def setUrgency (s : State) (tile : Nat) (S : OutSet) : Option Nat :=
  match s.cueIn S.reel S.slot with
  | none => none
  | some c => if mget 0 c.servArr tile ≥ c.array then none else some c.deadline

/-- Handles with a beat to take, in rotating order from the last one served: handle, set, staged. -/
def beatQueue (T : Tile) : List (Nat × OutSet × Bool) :=
  ((List.range 8).map (fun k => (T.lastBeat + 1 + k) % 8)).filterMap (fun h =>
    match mfind T.sets h, nextMma T h with
    | some S, some o => some (h, S, o.ready S)
    | _, _ => none)

/-- The handle whose beat the array takes next (R81, R388). -/
def pickHandle (s : State) (tile : Nat) : Option Nat :=
  let T := s.tile tile
  ((beatQueue T).filter (fun x => x.2.2)).foldl (fun best x =>
    let rank := fun h S => (setUrgency s tile S, (h + 7 - T.lastBeat) % 8)
    match best with
    | none => some x.1
    | some b =>
      match mfind T.sets b with
      | none => some x.1
      | some Sb => if beforeSet (rank x.1 x.2.1) (rank b Sb) then some x.1 else best) none

/-- A byte of the operands of an MMA as staged. -/
def ArrOp.read (o : ArrOp) (lo hi : Nat) : Rd := fun a =>
  (o.staged.filter (fun x => lo ≤ x.beat && x.beat ≤ hi)).findSome? (fun x => rdSegs x.segs x.data x.bad a)

/-- Products of output (m, n) over reduction indices lo to hi - 1, in ascending order (R95). -/
def ArrOp.products (o : ArrOp) (rd : Rd) (cb : Nat → Byte) (m n lo hi : Nat) : List Prod :=
  let f := unitOf (dFmt o.da) + unitOf (dFmt o.db)
  let end_ := Nat.min (Nat.min hi o.k) (Nat.min (dExt o.da 0 - o.sa.getD 0 0) (dExt o.db 0 - o.sb.getD 0 0))
  (List.range (end_ - lo)).map (fun j =>
    mkProd f (elemVal rd cb o.da (o.sa.getD 0 0 + lo + j) (o.sa.getD 1 0 + m) (o.sa.getD 2 0) (o.sa.getD 3 0))
      (elemVal rd cb o.db (o.sb.getD 0 0 + lo + j) (o.sb.getD 1 0 + n) (o.sb.getD 2 0) (o.sb.getD 3 0)))

/-- One output after a beat, and whether a window of a tally output was promoted. -/
def beatOutput (o : ArrOp) (tally : Bool) (rd : Rd) (cb : Nat → Byte) (m n : Nat) (x : Output) : Output × Bool :=
  let f := unitOf (dFmt o.da) + unitOf (dFmt o.db)
  let p := o.rate
  let mine := o.products rd cb m n (o.at_ * p) ((o.at_ + 1) * p)
  if !tally then (mine.foldl (addLedger f) x, false)
  else
    let first := o.at_ / 4 * 4
    let last := o.windowEnd o.at_
    let exp := windowExp (o.products rd cb m n (first * p) ((last + 1) * p))
    let y := match exp with
      | some a => if o.at_ == first then { x with anchor := a } else x
      | none => x
    let z := mine.foldl (addTally f) y
    if o.at_ == last then (promote z exp.isSome, exp.isSome) else (z, false)

/-- Outputs that the operands reach: (m, n). -/
def ArrOp.cells (o : ArrOp) (shape : Nat) : List (Nat × Nat) :=
  let mn := shapeMN shape
  (List.range mn.1).flatMap (fun m => if o.sa.getD 1 0 + m < dExt o.da 1 then
    ((List.range mn.2).filter (fun n => o.sb.getD 1 0 + n < dExt o.db 1)).map (fun n => (m, n)) else [])

/-- The first range event since VALID was cleared is latched (R90, Table 3.6); of several in one beat, that of the lowest row, then of
the lowest column (DESIGN CHOICE, log 94). -/
def Tile.latch (T : Tile) (h m n th : Nat) : Tile :=
  if T.lrValid then T else { T with lrValid := true, lrHandle := h, lrRow := m, lrCol := n, lrThread := th }

/-- The outputs of a set after a beat: outputs, coordinates of new range events, promotions. -/
def beatSet (o : ArrOp) (S : OutSet) (cb : Nat → Byte) : SMap Output × List (Nat × Nat) × Nat :=
  let N := (shapeMN S.shape).2
  let rd := o.read (o.at_ / 4 * 4) (o.windowEnd o.at_)
  (o.cells S.shape).foldl (fun (acc : SMap Output × List (Nat × Nat) × Nat) (c : Nat × Nat) =>
    let d := c.1 * N + c.2
    let x := mget {} S.outs d
    let y := beatOutput o (S.isTally d) rd cb c.1 c.2 x
    (if y.1 == x then acc.1 else mput acc.1 d y.1,
      if y.1.rng && !x.rng then acc.2.1 ++ [c] else acc.2.1,
      if y.2 then acc.2.2 + 1 else acc.2.2)) (S.outs, [], 0)

/-- One beat of a handle (R77, R79, R81, R88 to R95), which ends the tile's filler work (R351). A set counts as skipped when it stands
before the chosen one in plain rotating order and is not staged (DESIGN CHOICE, log 94). -/
def beat (tile h : Nat) (s : State) : State :=
  let T := s.tile tile
  match mfind T.sets h, nextMma T h with
  | some S, some o =>
    let cb := fun k => mget (0 : Byte) (T.cbCopy (o.cb.getD T.cbActive)) k
    let out := beatSet o S cb
    let o' := { o with at_ := o.at_ + 1, rangeEv := o.rangeEv || !out.2.1.isEmpty, staged := o.staged.filter (fun x => x.beat / 4 ≥ (o.at_ + 1) / 4) }
    let skipped := ((beatQueue T).takeWhile (fun x => x.1 != h)).filter (fun x => !x.2.2)
    let s1 := s.modTile tile (fun T => out.2.1.foldl (fun T c => T.latch h c.1 c.2 o.th) { T with
      lastBeat := h
      sets := mput T.sets h { S with outs := out.1 }
      mmas := mapIf (fun q => q == o) (fun _ => o') T.mmas })
    let s2 := cntFix tile 0 1 (cntPmc tile (if o.rate == 64 then 0x01 else if o.rate == 32 then 0x02 else 0x03) S.reel 1 s1)
    let s3 := cntPmc tile 0x08 S.reel out.2.1.length (cntPmc tile 0x09 S.reel out.2.2 s2)
    let s4 := skipped.foldl (fun s x => cntPmc tile 0x04 x.2.1.reel 1 s) s3
    let s5 := serveCue S.reel S.slot (fun c => { c with servArr := mput c.servArr tile (mget 0 c.servArr tile + 1) }) s4
    fillStage tile h (foleyLeave tile (cntReel S.reel 4 1 s5))
  | _, _ => s

/-- The array takes a beat for the handle that its choice gives; with a duty of 0 it takes none, unless a cue is admitted (R346). -/
def execArrayBeat (tile h : Nat) (s : State) : Res :=
  .next (if pickHandle s tile == some h && (s.pow.duty != 0 || !s.admitted.isEmpty) && !s.sec.retention then beat tile h s else s)

/-- The last product of the oldest MMA of a handle reaches the pool: the MMA completes (R84, R90, R106). -/
def mmaDone (tile h : Nat) (s : State) : State :=
  match (s.tile tile).mmas.find? (fun o => o.h == h) with
  | none => s
  | some o =>
    if o.at_ < o.beats then s
    else
      let s1 := s.modTile tile (fun T => { T with mmas := T.mmas.erase o })
      complete ⟨tile, o.th⟩ (if o.st != 0 then o.st else if o.rangeEv then stLedgerRange else stOk) o.pc s1

/-! ### RSC -/

/-- A token instruction whose checks have passed takes its token, which RD receives (R160); it waits while 16 are held. -/
def takeToken (r : TRef) (i : Instr) (x : Option W64) (rd : Nat) (k : Nat → State → State) (s : State) : State :=
  let t := s.thread r
  if t.toks.length ≥ 16 then hold r i .tokens s
  else
    let n := freeToken t
    k n (finishWith r x (fun t => Thread.setS { t with toks := t.toks ++ [⟨n, none⟩] } rd (BitVec.ofNat 64 n)) s)

/-- Start and extent rules of a grouped output (R98). -/
def groupingOk (d : DReg) (st : List Nat) (shape : Nat) : Bool :=
  !dScaled d ||
  (let a := dGaxis d
   let mn := shapeMN shape
   let n := if a == 0 then mn.2 else mn.1
   a ≤ 1 && st.getD a 0 % dGsz d == 0 && (n % dGsz d == 0 || st.getD a 0 + n ≥ dExt d a))

/-- Columns and rows of an output tile within the output's extents. -/
def outCols (d : DReg) (st : List Nat) (shape : Nat) : Nat := Nat.min (shapeMN shape).2 (dExt d 0 - st.getD 0 0)
def outRows (d : DReg) (st : List Nat) (shape : Nat) : Nat := Nat.min (shapeMN shape).1 (dExt d 1 - st.getD 1 0)

/-- Stretches that an RSC writes. -/
def outRanges (d : DReg) (st : List Nat) (shape : Nat) : List (Nat × Nat) :=
  ((List.range (outRows d st shape)).flatMap (fun m =>
    rowRanges d (st.getD 0 0) (st.getD 0 0 + outCols d st shape) (st.getD 1 0 + m) (st.getD 2 0) (st.getD 3 0))).eraseDups

def rscT (i : Instr) (f : DForm) (r : TRef) (s : State) : State :=
  notStandby r f.x (fun s =>
    let t := s.thread r
    let d := t.dreg f.d1.toNat
    let st := starts d (t.sreg f.i10.toNat) (t.sreg f.i11.toNat)
    let h := (t.sreg f.ra.toNat).toNat
    match mfind (s.tile r.tile).sets h with
    | none => finish r f.x stFormMismatch s
    | some S =>
      if S.rsc || !descOk d || !startsOk d st || dFmt d == 9 || !groupingOk d st S.shape then finish r f.x stFormMismatch s
      else withAccess r i f.x .w (pagePieces (outRanges d st S.shape)) (fun ps s =>
        if mustWait s r ps || acqWaiting s r then hold r i .order s
        else takeToken r i f.x f.rd.toNat (fun tok s =>
          s.modTile r.tile (fun T => { T with
            sets := mput T.sets h { S with rsc := true }
            rscs := T.rscs ++ [{ h, th := r.th, tok, reel := t.reel, slot := t.cueSlot, d, start := st, rt := T.rtActive, pages := pagesOf ps, spans := spansOf ps }] })) s) s) s

def execRsc (w : Who) (f : DForm) (s : State) : Res :=
  tOnly w (.rsc w f) f.x f.x.isNone [.s f.rd.toNat, .s f.ra.toNat, .d f.d1.toNat, .s f.i10.toNat, .s f.i11.toNat] (rscT (.rsc w f) f) s

/-- A byte of a tensor's memory as it stands, for bits that a partial write keeps; of a peer's or the host's it is open. -/
def oldByte (s : State) (pages : PageMap) (ticket va : Nat) : Byte :=
  let pa := (paOf pages va).1
  if s.isLocal pa && winOf (paLocal pa) != .host then s.byte (paLocal pa) else Config.freeByte ticket va

/-- Write stretches of bytes as a store of the thread that owns the operation: its number, none when there is nothing. -/
def storeBytes (tile th reel slot : Nat) (pages : PageMap) (w : List (Nat × List Byte)) (s : State) : Option Nat × State :=
  let segs := laySegs 0 (w.map (fun x => (x.1, x.2.length)))
  if segs.isEmpty then (none, s)
  else
    let r := startJob tile th reel slot .store (w.flatMap (fun x => x.2)) (streamPieces pages segs) s
    (some r.1, r.2)

/-- Groups of the outputs that an RSC writes: the address of a group's scale when it has one, and its members. -/
def outGroups (d : DReg) (st : List Nat) (rows cols : Nat) : List (Option Nat × List (Nat × Nat)) :=
  let g := dGsz d
  if !dScaled d then (List.range rows).flatMap (fun m => (List.range cols).map (fun n => (none, [(m, n)])))
  else
    let sc := fun m n => scaleAt d (st.getD 0 0 + n) (st.getD 1 0 + m) (st.getD 2 0) (st.getD 3 0)
    if dGaxis d == 0 then
      (List.range rows).flatMap (fun m => (List.range (ceilDiv cols g)).map (fun j =>
        (some (sc m (g * j)), ((List.range cols).filter (fun n => n / g == j)).map (fun n => (m, n)))))
    else
      (List.range cols).flatMap (fun n => (List.range (ceilDiv rows g)).map (fun j =>
        (some (sc (g * j) n), ((List.range rows).filter (fun m => m / g == j)).map (fun m => (m, n)))))

/-- The rescale stage's work on a handle: the bytes to write, the flags raised, and the state after its draws (R96 to R99). -/
def drain (T : Tile) (tile : Nat) (o : RscOp) (S : OutSet) (s : State) : List (Nat × Byte) × Flags4 × State :=
  let d := o.d
  let rows := outRows d o.start S.shape
  let cols := outCols d o.start S.shape
  let N := (shapeMN S.shape).2
  let entry := fun n => mget (0 : BitVec 128) (T.rtCopy o.rt) ((S.rbase + n) % 1024)
  let y := fun (c : Nat × Nat) => rescale (S.isTally (c.1 * N + c.2)) (mget {} S.outs (c.1 * N + c.2)) (entry c.2)
  let rnd := fun (c : Nat × Nat) => bitsOf (entry c.2) 98 96
  let el := (elemOf (dFmt d)).getD .i8
  let groups := outGroups d o.start rows cols
  let conv := groups.map (fun g =>
    let vals := g.2.map (fun c => (y c).1)
    match g.1 with
    | none => (0, (0 : Flags4), g.2.map (fun c u => el.conv (rmodeOf (rnd c)) (satOf (rnd c)) u 0 (y c).1))
    | some _ => groupConv el vals (fun k => rnd (g.2.getD k (0, 0))))
  let done := convEach (siteRescale tile) o.reel (conv.flatMap (fun x => x.2.2)) s
  let cells := (groups.flatMap (fun g => g.2)).zip done.1
  let pat := fun m n => ((cells.find? (fun x => x.1 == (m, n))).map (fun x => x.2.pat)).getD 0
  let tick := done.2.fresh
  let old := oldByte tick.2 o.pages tick.1
  let data := (List.range rows).flatMap (fun m => if cols == 0 then [] else
    runBytes d old (o.start.getD 0 0) (o.start.getD 1 0 + m) (o.start.getD 2 0) (o.start.getD 3 0) ((List.range cols).map (pat m)))
  let scales := (groups.zip conv).filterMap (fun x => x.1.1.map (fun a => (a, BitVec.ofNat 8 x.2.1)))
  (data ++ scales,
    orFlags (groups.flatMap (fun g => g.2.map (fun c => (y c).2))) ||| orFlags (conv.map (fun x => x.2.1)) ||| orFlags (done.1.map (fun c => c.flags)),
    tick.2)

/-- Numeric flags go to a thread that is still there (R72). -/
def flagThread (r : TRef) (f : Flags4) (s : State) : State := if (s.thread r).live then s.addFlags r f else s

/-- The rescale stage starts an RSC: every MMA of its handle has completed, and the stage is free (R83, R106). -/
def drainStart (tile h : Nat) (s : State) : State :=
  let T := s.tile tile
  match T.rscs.find? (fun o => o.h == h), mfind T.sets h with
  | some o, some S =>
    if o.started || T.rscs.any (fun q => q.started) || T.mmas.any (fun q => q.h == h) || s.sec.retention then s
    else
      let w := drain T tile o S s
      let st := storeBytes tile o.th o.reel o.slot o.pages (joinBytes w.1) (flagThread ⟨tile, o.th⟩ w.2.1 w.2.2)
      let s1 := st.2.modTile tile (fun T => { T with
        rscs := mapIf (fun q => q.h == h) (fun q => { q with started := true, op := st.1 }) T.rscs })
      match st.1 with
      | none => s1
      | some id => issueParts true tile id s1
  | _, _ => s

/-- The rescale stage has written the handle: the handle is free, and the token holds the operation's status (R83, R106). -/
def rscDone (tile h : Nat) (s : State) : State :=
  match (s.tile tile).rscs.find? (fun o => o.h == h) with
  | none => s
  | some o =>
    if !o.started || o.op.isSome then s
    else
      let r : TRef := ⟨tile, o.th⟩
      let s1 := s.modTile tile (fun T => { T with rscs := T.rscs.filter (fun q => q.h != h), sets := mdel T.sets h })
      let s2 := trace 0x09 (some tile) o.th o.reel h s1
      cueHit r o.st (tokenDone r o.tok o.st s2)

/-! ### CPYL -/

/-- Stretches of the source that a CPYL reads: for each destination row, the source row of the same relative indices. -/
def cpylSource (o : CpylOp) : List (Nat × Nat) :=
  let n := dExt o.dst 0 - o.s1.getD 0 0
  ((rowsFrom o.dst o.s1).flatMap (fun x =>
    let j1 := x.1 - o.s1.getD 1 0 + o.s0.getD 1 0
    let j2 := x.2.1 - o.s1.getD 2 0 + o.s0.getD 2 0
    let j3 := x.2.2 - o.s1.getD 3 0 + o.s0.getD 3 0
    if j1 < dExt o.src 1 && j2 < dExt o.src 2 && j3 < dExt o.src 3 then
      rowRanges o.src (o.s0.getD 0 0) (Nat.min (o.s0.getD 0 0 + n) (dExt o.src 0)) j1 j2 j3
    else [])).eraseDups

def cpylDest (o : CpylOp) : List (Nat × Nat) :=
  ((rowsFrom o.dst o.s1).flatMap (fun x => rowRanges o.dst (o.s1.getD 0 0) (dExt o.dst 0) x.1 x.2.1 x.2.2)).eraseDups

/-- Begin to read the source of the tile's CPYL. -/
def cpylStart (tile : Nat) (s : State) : State :=
  match (s.tile tile).cpyl with
  | none => s
  | some o =>
    let segs := laySegs 0 (cpylSource o)
    let n := sumN (segs.map (fun g => g.2.2))
    let r := startJob tile o.th o.reel o.slot .load (List.replicate n 0) (streamPieces o.spages segs) s
    if segs.isEmpty then s
    else issueParts true tile r.1 (r.2.modTile tile (fun T => { T with cpyl := some { o with segs, op := some r.1 } }))

def cpylT (i : Instr) (f : DForm) (r : TRef) (s : State) : State :=
  notStandby r f.x (fun s =>
    let t := s.thread r
    let src := t.dreg f.d1.toNat
    let dst := t.dreg f.d2.toNat
    let s0 := starts src (t.sreg f.i10.toNat) (t.sreg f.i11.toNat)
    let s1 := starts dst (t.sreg f.i20.toNat) (t.sreg f.i21.toNat)
    let a := tensorSpan src
    let b := tensorSpan dst
    if !descOk src || !descOk dst || !startsOk src s0 || !startsOk dst s1 || (dFmt dst == 9 && !sameEncoding src dst) ||
        (a.1 < b.2 && b.1 < a.2) then finish r f.x stFormMismatch s
    else
      let o : CpylOp := { th := r.th, tok := 0, reel := t.reel, slot := t.cueSlot, src, dst, s0, s1 }
      withAccess r i f.x .r (pagePieces (cpylSource o)) (fun ps =>
        withAccess r i f.x .w (pagePieces (cpylDest o)) (fun qs s =>
          if mustWait s r (ps ++ qs) || acqWaiting s r then hold r i .order s
          else takeToken r i f.x f.rd.toNat (fun tok s =>
            let T := s.tile r.tile
            let o := { o with tok, cb := if dFmt src == 9 then some T.cbActive else none, spages := pagesOf ps, dpages := pagesOf qs, spans := spansOf (ps ++ qs) }
            if T.cpyl.isNone then cpylStart r.tile (s.modTile r.tile (fun T => { T with cpyl := some o }))
            else s.modTile r.tile (fun T => { T with cpylWait := T.cpylWait ++ [o] })) s)) s) s

def execCpyl (w : Who) (f : DForm) (s : State) : Res :=
  tOnly w (.cpyl w f) f.x f.x.isNone (mmaRegs f) (cpylT (.cpyl w f) f) s

/-- Elements that a CPYL writes, row by row: destination and source indices. -/
def cpylCells (o : CpylOp) : List ((Nat × Nat × Nat × Nat) × (Nat × Nat × Nat × Nat)) :=
  (rowsFrom o.dst o.s1).flatMap (fun x => (List.range (dExt o.dst 0 - o.s1.getD 0 0)).map (fun k =>
    ((o.s1.getD 0 0 + k, x.1, x.2.1, x.2.2),
      (o.s0.getD 0 0 + k, x.1 - o.s1.getD 1 0 + o.s0.getD 1 0, x.2.1 - o.s1.getD 2 0 + o.s0.getD 2 0, x.2.2 - o.s1.getD 3 0 + o.s0.getD 3 0))))

/-- A source element that the source's extents hold. -/
def cpylIn (o : CpylOp) (c : Nat × Nat × Nat × Nat) : Bool :=
  c.1 < dExt o.src 0 && c.2.1 < dExt o.src 1 && c.2.2.1 < dExt o.src 2 && c.2.2.2 < dExt o.src 3

/-- Members of each group of the destination, by the address of its scale. -/
def cpylGroups (o : CpylOp) : SMap (List ((Nat × Nat × Nat × Nat) × (Nat × Nat × Nat × Nat))) :=
  (cpylCells o).foldl (fun m c =>
    let k := if dScaled o.dst then scaleAt o.dst c.1.1 c.1.2.1 c.1.2.2.1 c.1.2.2.2 else 0
    mput m k (mget [] m k ++ [c])) []

/-- The bytes that a CPYL writes, with the flags it raises (R234). A source element beyond the source's extents is open. -/
def cpylWrites (o : CpylOp) (cb : Nat → Byte) (free : Nat → Nat) (old : Nat → Byte) : List (Nat × Byte) × Flags4 :=
  let rd := rdSegs o.segs o.data o.bad
  let groups := cpylGroups o
  let at4 := fun (g : DReg → Nat → Nat → Nat → Nat → Nat) (d : DReg) (c : Nat × Nat × Nat × Nat) => g d c.1 c.2.1 c.2.2.1 c.2.2.2
  let w := dWidth o.dst
  let runs := fun (pats : List Nat) =>
    let n := dExt o.dst 0 - o.s1.getD 0 0
    (rowsFrom o.dst o.s1).zipIdx.flatMap (fun x => runBytes o.dst old (o.s1.getD 0 0) x.1.1 x.1.2.1 x.1.2.2 ((pats.drop (x.2 * n)).take n))
  if sameEncoding o.src o.dst then
    let pats := (cpylCells o).zipIdx.map (fun c =>
      if cpylIn o c.1.2 then ((patAt rd o.src c.1.2.1 c.1.2.2.1 c.1.2.2.2.1 c.1.2.2.2.2).getD 0) else free c.2 % 2 ^ w)
    let side := fun (g : DReg → Nat → Nat → Nat → Nat → Nat) => groups.filterMap (fun k => k.2.head?.map (fun c =>
      (at4 g o.dst c.1, if cpylIn o c.2 then (rd (at4 g o.src c.2)).getD 0 else BitVec.ofNat 8 (free k.1))))
    (runs pats ++ (if dScaled o.dst then side scaleAt else []) ++ (if dFmt o.dst == 9 then side selectorAt else []), 0)
  else
    let el := (elemOf (dFmt o.dst)).getD .i8
    let val := fun (c : (Nat × Nat × Nat × Nat) × (Nat × Nat × Nat × Nat)) =>
      if cpylIn o c.2 then cpylValue rd cb o.src c.2.1 c.2.2.1 c.2.2.2.1 c.2.2.2.2 else (fF32.decode (free (at4 scaleAt o.dst c.1) % 2 ^ 32), 0)
    let conv := groups.map (fun g =>
      let vals := g.2.map (fun c => (val c).1)
      (g.1, g.2, if dScaled o.dst then groupConv el vals (fun _ => 0) else (0, (0 : Flags4), vals.map (fun v u => el.conv .rne false u 0 v))))
    let cells := conv.flatMap (fun x => (x.2.1.map (fun c => c.1)).zip (x.2.2.2.2.map (fun k => k 0)))
    let pats := (cpylCells o).map (fun c => ((cells.find? (fun x => x.1 == c.1)).map (fun x => x.2.pat)).getD 0)
    let scales := if dScaled o.dst then conv.map (fun x => (x.1, BitVec.ofNat 8 x.2.2.1)) else []
    (runs pats ++ scales,
      orFlags ((cpylCells o).map (fun c => (val c).2)) ||| orFlags (conv.map (fun x => x.2.2.2.1)) ||| orFlags (cells.map (fun x => x.2.flags)))

/-- Once the source has been read, the destination is written; a source that could not be read writes nothing. -/
def cpylGo (tile : Nat) (s : State) : State :=
  let T := s.tile tile
  match T.cpyl with
  | none => s
  | some o =>
    if o.op.isSome || o.stored then s
    else if o.st != 0 then s.modTile tile (fun T => { T with cpyl := some { o with stored := true } })
    else
      let tick := s.fresh
      let w := cpylWrites o (fun k => mget 0 (T.cbCopy (o.cb.getD 0)) k) (Config.freeIn tick.1) (oldByte s o.dpages tick.1)
      let st := storeBytes tile o.th o.reel o.slot o.dpages (joinBytes w.1) (flagThread ⟨tile, o.th⟩ w.2 tick.2)
      let s1 := st.2.modTile tile (fun T => { T with cpyl := some { o with stored := true, op := st.1 } })
      match st.1 with
      | none => s1
      | some id => issueParts true tile id s1

/-- The tile's CPYL has finished copying: its token holds its status, and the next CPYL starts (R235). -/
def cpylDone (tile : Nat) (s : State) : State :=
  match (s.tile tile).cpyl with
  | none => s
  | some o =>
    if !o.stored || o.op.isSome then s
    else
      let r : TRef := ⟨tile, o.th⟩
      let s1 := s.modTile tile (fun T => { T with cpyl := T.cpylWait.head?, cpylWait := T.cpylWait.tail })
      cpylStart tile (cueHit r o.st (tokenDone r o.tok o.st s1))

end Sys2Proof.Machine
end

