-- ==== Sys2Proof/Machine/Desc.lean ====
section
/-! DEFINITION. Reading the descriptor, declaration or list that an instruction names (R197): its address is translated and
checked for R permission, and the bytes are read, from a peer or the host by request. -/
namespace Sys2Proof.Machine

/-- One checked stretch: read from memory, from the line that holds it, or from what has arrived for the thread; none while it has yet
to come: a far stretch, or one that a roll slot holds (R253). -/
def pieceNow (s : State) (t : Thread) (p : Piece × Nat × Nat) : Option (Status × List Byte) :=
  if s.far p.2.1 then
    match t.desc.find? (fun d => d.1 == p.1.va) with
    | some d => some d.2
    | none => if s.cached p.2.1 p.2.2 && !s.mustFetch p.2.1 && !s.fillPending p.2.1 then some (stOk, s.lineBytes p.2.1 p.1.n) else none
  else if s.rollHeld (paLocal p.2.1) p.1.n then none
  else some (readStatus s p.2.1 p.1.n, s.bytes (paLocal p.2.1) p.1.n)

/-- The bytes of checked stretches, with the first failure; none while a stretch has yet to come. -/
def gatherDesc (s : State) (t : Thread) : List (Piece × Nat × Nat) → Option (Status × List Byte)
  | [] => some (stOk, [])
  | p :: ps =>
    match pieceNow s t p, gatherDesc s t ps with
    | some a, some b => some (if a.1 != stOk then a.1 else b.1, a.2 ++ b.2)
    | _, _ => none

/-- The stretches that pass through the cache reach it, each once for an instruction (R212, R213). -/
def touchDesc (r : TRef) (ps : List (Piece × Nat × Nat)) (s : State) : State :=
  ps.foldl (fun s p =>
    let t := s.thread r
    if !s.cached p.2.1 p.2.2 || t.descRead.contains p.1.va || (s.mustFetch p.2.1 && s.fetchStatus p.2.1 != stOk) then s
    else cacheRead (some (r.tile, t.reel)) p.2.1 p.2.2 (s.modThread r (fun t => { t with descRead := t.descRead ++ [p.1.va] }))) s

/-- Ask for the first far stretch that is neither here nor on its way. -/
def askDesc (r : TRef) (ps : List (Piece × Nat × Nat)) (s : State) : State :=
  let t := s.thread r
  match ps.find? (fun p => s.far p.2.1 && (pieceNow s t p).isNone && !(s.cached p.2.1 p.2.2 && s.fillPending p.2.1)) with
  | none => s
  | some p =>
    let bad := fun (st : Status) (s : State) => s.modThread r (fun t => { t with desc := t.desc ++ [(p.1.va, st, [])] })
    if s.cached p.2.1 p.2.2 then
      if s.fetchStatus p.2.1 != stOk then bad (s.fetchStatus p.2.1) s else cacheRead (some (r.tile, t.reel)) p.2.1 p.2.2 s
    else
      let q := farRead p.2.1 p.1.n (.desc r p.1.va) s
      if q.2 == stOk then q.1 else bad q.2 q.1

/-- A request for a stretch of the thread's descriptor is on its way. -/
def asking (s : State) (r : TRef) : Bool :=
  let mine := fun (o : RemOwner) => match o with
    | .desc q _ => q == r
    | _ => false
  s.links.reqs.any (fun q => mine q.owner) || s.host.reqs.any (fun q => mine q.owner)

/-- Read n bytes at a virtual address for an instruction, and go on with them; a failure completes the instruction. The read waits
for the thread's earlier accesses to the bytes and for its SEM with ACQ (R155, R159). -/
def withDesc (r : TRef) (i : Instr) (x : Option W64) (need : Need) (va n : Nat) (k : List Byte → State → State) (s : State) : State :=
  withAccess r i x need (pieces va 0 n) (fun ps s =>
    if mustWait s r ps || acqWaiting s r then hold r i .order s
    else
    let s := touchDesc r ps s
    match gatherDesc s (s.thread r) ps with
    | some (st, bs) => if st != stOk then cueHit r st (finish r x st s) else k bs s
    | none =>
      let s1 := if asking s r then s else askDesc r ps s
      match gatherDesc s1 (s1.thread r) ps with
      | some (st, _) => finish r x st s1
      | none => hold r i .desc s1) s

/-- A stretch of a descriptor arrives, with its status. -/
def descArrive (r : TRef) (va : Nat) (st : Status) (bs : List Byte) (s : State) : State :=
  if (s.thread r).held.any (fun h => h.why == .desc) then s.modThread r (fun t => { t with desc := t.desc ++ [(va, st, bs)] }) else s

/-- The 64-bit words of bytes. -/
def wordsOf : Nat → List Byte → List W64
  | 0, _ => []
  | n + 1, bs => BitVec.ofNat 64 (leNat (bs.take 8)) :: wordsOf n (bs.drop 8)

/-- The entries of a member list: a device ID in bits [11:0] of each 16-bit entry (R310). -/
def memberIds : Nat → List Byte → List Nat
  | 0, _ => []
  | n + 1, bs => leNat (bs.take 2) :: memberIds n (bs.drop 2)

/-- A member list holds this device's own ID, and no device twice (R310, R376). -/
def membersOk (s : State) (l : List Nat) : Bool := l.contains s.ownId && (l.eraseDups).length == l.length && l.all (fun d => d < 4096)

end Sys2Proof.Machine
end

