-- ==== Sys2Proof/Machine/Scalar.lean ====
section
/-! DEFINITION. The scalar, branch and jump instructions of both profiles, NOP and END (R177, Table 6.5), and the
instructions that Idmon-C alone has (R191 to R194). -/
namespace Sys2Proof.Machine

/-- A scalar operation on either register file (R177): RD takes `op` of RA and b. -/
def scalarOp (w : Who) (i : Instr) (f : SForm) (op : W64 → W64 → W64) (s : State) : Res :=
  both w i f.x (longImmOk f) (aluRegs f)
    (fun r s => finishWith r f.x (fun t => t.setS f.rd.toNat (op (t.sreg f.ra.toNat) (opB f t.sreg))) s)
    (fun p c s => finishC p c f.x (fun k => k.setS f.rd.toNat (op (k.sreg f.ra.toNat) (opB f k.sreg))) s) s

def aluAdd (a b : W64) : W64 := a + b
def aluSub (a b : W64) : W64 := a - b
def aluAnd (a b : W64) : W64 := a &&& b
def aluOr (a b : W64) : W64 := a ||| b
def aluXor (a b : W64) : W64 := a ^^^ b
/-- Shifts take their amount from bits [5:0] (R173). -/
def aluSll (a b : W64) : W64 := a <<< (b.toNat % 64)
def aluSrl (a b : W64) : W64 := a >>> (b.toNat % 64)
def aluSra (a b : W64) : W64 := a.sshiftRight (b.toNat % 64)
def aluSlt (a b : W64) : W64 := if a.slt b then 1 else 0
def aluSltu (a b : W64) : W64 := if a.ult b then 1 else 0
def aluMin (a b : W64) : W64 := if b.slt a then b else a
def aluMax (a b : W64) : W64 := if a.slt b then b else a
def aluMul (a b : W64) : W64 := a * b
def aluMulhu (a b : W64) : W64 := BitVec.ofNat 64 (a.toNat * b.toNat / 2 ^ 64)

def execAdd (w : Who) (f : SForm) (s : State) : Res := scalarOp w (.add w f) f aluAdd s
def execSub (w : Who) (f : SForm) (s : State) : Res := scalarOp w (.sub w f) f aluSub s
def execAnd (w : Who) (f : SForm) (s : State) : Res := scalarOp w (.and w f) f aluAnd s
def execOr (w : Who) (f : SForm) (s : State) : Res := scalarOp w (.or w f) f aluOr s
def execXor (w : Who) (f : SForm) (s : State) : Res := scalarOp w (.xor w f) f aluXor s
def execSll (w : Who) (f : SForm) (s : State) : Res := scalarOp w (.sll w f) f aluSll s
def execSrl (w : Who) (f : SForm) (s : State) : Res := scalarOp w (.srl w f) f aluSrl s
def execSra (w : Who) (f : SForm) (s : State) : Res := scalarOp w (.sra w f) f aluSra s
def execSlt (w : Who) (f : SForm) (s : State) : Res := scalarOp w (.slt w f) f aluSlt s
def execSltu (w : Who) (f : SForm) (s : State) : Res := scalarOp w (.sltu w f) f aluSltu s
def execMin (w : Who) (f : SForm) (s : State) : Res := scalarOp w (.min w f) f aluMin s
def execMax (w : Who) (f : SForm) (s : State) : Res := scalarOp w (.max w f) f aluMax s
def execMul (w : Who) (f : SForm) (s : State) : Res := scalarOp w (.mul w f) f aluMul s
def execMulhu (w : Who) (f : SForm) (s : State) : Res := scalarOp w (.mulhu w f) f aluMulhu s

/-- Distance of a relative branch or jump: 8 times IMM16 (Table 6.5). -/
def branchDist (f : SForm) : W64 := sext16 f.imm * 8

/-- A jump or taken branch of a thread: the fetched words are discarded (R172). -/
def jumpT (r : TRef) (n : Nat) (pc : W64) (s : State) : State :=
  (finishAt r stOk false n pc s).modThread r (fun t => { t with fetched := [], fetchFill := none })

/-- A conditional branch (Table 6.5): FORM_MISMATCH when I = 1 (R173). -/
def branchOp (w : Who) (i : Instr) (f : SForm) (cond : W64 → W64 → Bool) (s : State) : Res :=
  both w i f.x f.x.isNone [.s f.ra.toNat, .s f.rb.toNat]
    (fun r s =>
      let t := s.thread r
      let s := cntPmc r.tile 0x17 t.reel 1 s
      if f.i then finish r none stFormMismatch s
      else if cond (t.sreg f.ra.toNat) (t.sreg f.rb.toNat) then jumpT r 1 (t.pc + branchDist f) s
      else finish r none stOk s)
    (fun p c s =>
      let k := s.core p c
      if f.i then exception p c stFormMismatch s
      else if cond (k.sreg f.ra.toNat) (k.sreg f.rb.toNat) then s.modCore p c (fun k => { k with pc := k.pc + branchDist f })
      else finishC p c none id s) s

def execBeq (w : Who) (f : SForm) (s : State) : Res := branchOp w (.beq w f) f (fun a b => a == b) s
def execBne (w : Who) (f : SForm) (s : State) : Res := branchOp w (.bne w f) f (fun a b => a != b) s
def execBlt (w : Who) (f : SForm) (s : State) : Res := branchOp w (.blt w f) f (fun a b => a.slt b) s
def execBge (w : Who) (f : SForm) (s : State) : Res := branchOp w (.bge w f) f (fun a b => !a.slt b) s
def execBltu (w : Who) (f : SForm) (s : State) : Res := branchOp w (.bltu w f) f (fun a b => a.ult b) s
def execBgeu (w : Who) (f : SForm) (s : State) : Res := branchOp w (.bgeu w f) f (fun a b => !a.ult b) s

/-- A jump with its link: MISALIGNED, with the PC and RD unchanged, when the target is not a multiple of 8 (R182, R532). -/
def jumpOp (w : Who) (i : Instr) (f : SForm) (xOk : Bool) (regs : List Reg) (target : W64 → (Nat → W64) → W64) (s : State) : Res :=
  both w i f.x xOk regs
    (fun r s =>
      let t := s.thread r
      let s := cntPmc r.tile 0x17 t.reel 1 s
      let dest := target t.pc t.sreg
      if dest.toNat % 8 != 0 then finishAt r stMisaligned false 0 t.pc s
      else jumpT r (lenOf f.x) dest (s.modThread r (fun t => t.setS f.rd.toNat (t.pc + BitVec.ofNat 64 (8 * lenOf f.x)))))
    (fun p c s =>
      let k := s.core p c
      let dest := target k.pc k.sreg
      if dest.toNat % 8 != 0 then exception p c stMisaligned s
      else s.modCore p c (fun k => { k.setS f.rd.toNat (k.pc + BitVec.ofNat 64 (8 * lenOf f.x)) with pc := dest })) s

/-- Target of J (Table 6.5). -/
def targetJ (f : SForm) (pc : W64) (_ : Nat → W64) : W64 :=
  match f.x with
  | some x => BitVec.ofNat 64 (bitsOf x 51 0)
  | none => pc + branchDist f
/-- Target of JR. -/
def targetJr (f : SForm) (_ : W64) (reg : Nat → W64) : W64 := reg f.ra.toNat + sext16 f.imm

def execJ (w : Who) (f : SForm) (s : State) : Res := jumpOp w (.j w f) f true [.s f.rd.toNat] (targetJ f) s
def execJr (w : Who) (f : SForm) (s : State) : Res :=
  jumpOp w (.jr w f) f f.x.isNone [.s f.rd.toNat, .s f.ra.toNat] (targetJr f) s

def execNop (w : Who) (f : SForm) (s : State) : Res :=
  both w (.nop w f) f.x f.x.isNone [] (fun r s => finish r none stOk s) (fun p c s => finishC p c none id s) s

/-- END waits until every operation the thread started has completed, and then ends the thread (R142). -/
def execEndT (w : Who) (f : SForm) (s : State) : Res :=
  tOnly w (.endT w f) f.x f.x.isNone [] (fun r s => tryEnd r (hold r (.endT w f) .endOps s)) s

/-- ECALL raises an exception with cause ECALL_TRAP (R193). -/
def execEcall (w : Who) (f : SForm) (s : State) : Res := cOnly w f.x (fun p c s => exception p c stEcallTrap s) s

/-- The core takes its oldest pending interrupt: only at supervisor level, with IE set, at user or supervisor level (R194). -/
def Core.takeInt (k : Core) : Core :=
  match k.pend with
  | [] => k
  | cause :: rest =>
    if k.ie && (k.priv == 0 || k.priv == 1) && !k.busy then { k with pend := rest }.enter cause k.pc 1 else k

/-- ERET (R194); not permitted at user level (R191). -/
def execEret (w : Who) (f : SForm) (s : State) : Res :=
  cOnly w f.x (fun p c s =>
    if (s.core p c).priv == 0 then exception p c stPrivFault s
    else s.modCore p c (fun k => { k with priv := k.ppriv, ie := k.pie, pc := k.epc }.takeInt)) s

/-- WFI holds the core until an interrupt is pending (R194). -/
def execWfi (w : Who) (f : SForm) (s : State) : Res :=
  cOnly w f.x (fun p c s =>
    if (s.core p c).priv == 0 then exception p c stPrivFault s
    else finishC p c none (fun k => { k with wfi := k.pend.isEmpty }) s) s

/-- FENCE: an in-order core has performed its earlier accesses; the fetched words are discarded (R172, R191). -/
def execFence (w : Who) (f : SForm) (s : State) : Res :=
  cOnly w f.x (fun p c s => finishC p c none (fun k => { k with fetched := [] }) s) s

/-- An interrupt arises, ends a WFI, and is taken when R194 allows it. -/
def execInterrupt (proc core : Nat) (cause : Option Status) (s : State) : Res :=
  .next (if core < coresOf proc then
    s.modCore proc core (fun k =>
      let k := { k with pend := k.pend ++ cause.toList }
      { k with wfi := k.wfi && k.pend.isEmpty }.takeInt)
  else s)

end Sys2Proof.Machine
end

