-- ==== Sys2Proof/Machine/Sync.lean ====
section
/-! DEFINITION. Control moves (R179, R180), standby threads (R147), table swaps (R102 to R104), waits and barriers (R157,
R161). -/
namespace Sys2Proof.Machine

/-! ### Table swaps -/

/-- An array instruction of the tile is in progress. -/
def Tile.arrayBusy (T : Tile) : Bool := !T.mmas.isEmpty || !T.rscs.isEmpty

/-- Entries of the shadow rescale table that carry the T bit (Table 3.8). -/
def Tile.tCount (T : Tile) : Nat := ((List.range 1024).filter (fun e => bitOf (mget 0 T.rtShadow e) 99)).length

/-- The pending swaps are taken at a boundary: a rescale swap of more than 256 T entries is refused (R102, R104). RT_REFUSED then
stays until a 1 is written to it, also when a later swap is taken (DESIGN CHOICE, log 94). -/
def Tile.takeSwaps (T : Tile) : Tile :=
  let T1 := if !T.rtPend then T
    else if T.tCount > 256 then { T with rtPend := false, rtRefused := true }
    else { T with rtPend := false, rtActive := 1 - T.rtActive }
  if T1.cbPend then { T1 with cbPend := false, cbActive := 1 - T1.cbActive } else T1

/-- A request to swap the rescale tables; at once when no array instruction is in progress (R102). -/
def Tile.rtRequest (T : Tile) : Tile :=
  let T1 := { T with rtPend := true }
  if T.arrayBusy then T1 else T1.takeSwaps
def Tile.cbRequest (T : Tile) : Tile :=
  let T1 := { T with cbPend := true }
  if T.arrayBusy then T1 else T1.takeSwaps

def execRtSwap (tile : Nat) (s : State) : Res := .next (s.modTile tile Tile.rtRequest)
def execCbSwap (tile : Nat) (s : State) : Res := .next (s.modTile tile Tile.cbRequest)

/-! ### Standby threads -/

/-- STBY takes its value: a fifth standby thread of a tile is left at 0 (R147). -/
def stbySet (r : TRef) (v : Bool) (s : State) : State :=
  let others := ((s.tile r.tile).threads.filter (fun t => t.1 != r.th && t.2.live && t.2.stby)).length
  s.modThread r (fun t => { t with stby := v && others < 4 })

/-- Work of the thread that holds slots of the tile, or may come to: its requests, its array operations and copies, the RDWs that its
sequencer streams, and its run-ahead (R147, R148). -/
def slotWork (s : State) (r : TRef) : Bool :=
  let T := s.tile r.tile
  T.ops.any (fun o => o.th == r.th) || T.mmas.any (fun o => o.th == r.th) || T.rscs.any (fun o => o.th == r.th) ||
  (T.cpyl.toList ++ T.cpylWait).any (fun o => o.th == r.th) ||
  s.bank.ops.any (fun o => !o.dead && o.kind == .rdw && o.tile == r.tile && o.th == r.th)

/-- A write of STBY = 1 takes effect only once the thread's slots have returned, and no work of it can take one. -/
def execStbyWrite (r : TRef) (v : Bool) (s : State) : Res :=
  .next (if !(s.thread r).live || (v && slotWork s r) then s else stbySet r v s)

/-! ### Control-state registers of a tile thread (Tables 5.5 to 5.7, 3.6, 3.9, 5.17, 6.6) -/

def Thread.tcs (t : Thread) : W64 := BitVec.ofNat 64 (b2n t.stby + t.haltm.toNat * 2)
def Thread.tstat (t : Thread) : W64 := BitVec.ofNat 64 (t.last.toNat + t.first.toNat * 2 ^ 16 + b2n t.fv * 2 ^ 32)
def Thread.tflg (t : Thread) : W64 := BitVec.ofNat 64 t.flags.toNat
def Tile.tblctl (T : Tile) : W64 :=
  BitVec.ofNat 64 (b2n T.rtPend * 4 + b2n T.cbPend * 8 + T.rtActive * 16 + T.cbActive * 32 + b2n T.rtRefused * 64 + T.tCount * 256)
def Tile.runahead (T : Tile) : W64 := BitVec.ofNat 64 (b2n T.raEn + T.raDist * 2 + T.raSlots * 256)
def Tile.lrng (T : Tile) : W64 :=
  BitVec.ofNat 64 (b2n T.lrValid + T.lrHandle * 2 + T.lrRow * 16 + T.lrCol * 2 ^ 11 + T.lrThread * 2 ^ 18)

/-- A register's value; none for a number that Table 6.6 does not list for Idmon-T. -/
def csrRead (s : State) (r : TRef) (n : Nat) : Option W64 :=
  let t := s.thread r
  let T := s.tile r.tile
  match n with
  | 0x010 => some s.time.tmb
  | 0x100 => some t.tcs
  | 0x101 => some t.tstat
  | 0x102 => some t.tflg
  | 0x110 => some T.tblctl
  | 0x111 => some T.runahead
  | 0x112 => some T.lrng
  | _ => none

/-- A write of TIL_TBLCTL: swap requests, and RT_REFUSED cleared by 1. -/
def Tile.writeTblctl (T : Tile) (v : W64) : Tile :=
  let T1 := if bitOf v 6 then { T with rtRefused := false } else T
  let T2 := if bitOf v 0 then T1.rtRequest else T1
  if bitOf v 1 then T2.cbRequest else T2

/-- A write of TIL_RUNAHEAD; a cleared EN discards what the buffer holds, counted as evicted unused (R164, R495). -/
def writeRunahead (t : Nat) (v : W64) (s : State) : State :=
  let en := bitOf v 0
  (if en then s else raDrop t (fun _ => true) s).modTile t (fun T => { T with raEn := en, raDist := bitsOf v 7 1, raSlots := bitsOf v 12 8 })

def csrWrite (r : TRef) (n : Nat) (v : W64) (s : State) : State :=
  match n with
  | 0x100 => stbySet r (bitOf v 0) (s.modThread r (fun t => { t with haltm := BitVec.ofNat 8 (bitsOf v 8 1) }))
  | 0x101 => if bitOf v 32 then s.modThread r (fun t => { t with fv := false }) else s
  | 0x102 => s.modThread r (fun t => { t with flags := t.flags &&& ~~~(BitVec.ofNat 4 (bitsOf v 3 0)) })
  | 0x110 => s.modTile r.tile (fun T => T.writeTblctl v)
  | 0x111 => writeRunahead r.tile v s
  | 0x112 => if bitOf v 0 then s.modTile r.tile (fun T => { T with lrValid := false }) else s
  | _ => s

def csrNum (f : SForm) : Nat := f.imm.toNat % 4096

/-! ### Control-state registers of a core (Tables 5.10, 6.6, 6.12) -/

/-- Number, whether supervisor level is needed to read, the least level to write (4: no write has effect), the value. -/
def coreCsr (s : State) (p c : Nat) (n : Nat) : Option (Bool × Nat × W64) :=
  let k := s.core p c
  match n with
  | 0x000 => some (false, 4, BitVec.ofNat 64 k.priv)
  | 0x001 => some (true, 1, BitVec.ofNat 64 (b2n k.ie + b2n k.pie * 2 + k.ppriv * 4))
  | 0x002 => some (true, 3, BitVec.ofNat 64 k.cause.toNat)
  | 0x003 => some (true, 1, k.epc)
  | 0x004 => some (true, 1, k.tvecS)
  | 0x005 => some (true, 3, k.tvecF)
  | 0x010 => some (false, 4, s.time.tmb)
  | 0x011 => some (false, 4, BitVec.ofNat 64 (coreKey p c))
  | 0x012 => some (true, 1, k.scratch)
  | _ => none

/-- PPRIV as a level may write it (Table 6.12). -/
def pprivStored (level v : Nat) : Nat := if v == 2 then 0 else if v == 3 && level == 1 then 1 else v

def Core.csrWrite (k : Core) (n : Nat) (v : W64) : Core :=
  match n with
  | 0x001 => { k with ie := bitOf v 0, pie := bitOf v 1, ppriv := pprivStored k.priv (bitsOf v 3 2) }
  | 0x002 => { k with cause := BitVec.ofNat 16 (bitsOf v 15 0) }
  | 0x003 => { k with epc := v }
  | 0x004 => { k with tvecS := setBits v 2 0 0 }
  | 0x005 => { k with tvecF := setBits v 2 0 0 }
  | 0x012 => { k with scratch := v }
  | _ => k

def execCsrr (w : Who) (f : SForm) (s : State) : Res :=
  both w (.csrr w f) f.x f.x.isNone [.s f.rd.toNat]
    (fun r s => match csrRead s r (csrNum f) with
      | none => finish r none stFormMismatch s
      | some v => finishWith r none (fun t => t.setS f.rd.toNat v) s)
    (fun p c s => match coreCsr s p c (csrNum f) with
      | none => exception p c stFormMismatch s
      | some (sup, _, v) =>
        if sup && (s.core p c).priv == 0 then exception p c stPrivFault s else finishC p c none (fun k => k.setS f.rd.toNat v) s) s

/-- CSRW: a write of STBY = 1 waits for the thread's slots (R147). -/
def csrwT (i : Instr) (f : SForm) (r : TRef) (s : State) : State :=
  let v := (s.thread r).sreg f.ra.toNat
  if (csrRead s r (csrNum f)).isNone then finish r none stFormMismatch s
  else if csrNum f == 0x100 && bitOf v 0 && slotWork s r then hold r i .stby s
  else finish r none stOk (csrWrite r (csrNum f) v s)

def execCsrw (w : Who) (f : SForm) (s : State) : Res :=
  both w (.csrw w f) f.x f.x.isNone [.s f.ra.toNat] (csrwT (.csrw w f) f)
    (fun p c s => match coreCsr s p c (csrNum f) with
      | none => exception p c stFormMismatch s
      | some (_, lv, _) =>
        let k := s.core p c
        if k.priv == 0 || (lv != 4 && k.priv < lv) then exception p c stPrivFault s
        else (finishC p c none (fun k => k.csrWrite (csrNum f) (k.sreg f.ra.toNat)) s).modCore p c Core.takeInt) s

/-- Bits of a descriptor field by its number (R180, Table 5.9); none for the reserved number. -/
def dsetField : Nat → Option (Nat × Nat)
  | 0 => some (51, 0)
  | 1 => some (55, 52)
  | 2 => some (56, 56)
  | 3 => some (58, 57)
  | 4 => some (59, 59)
  | 5 => some (61, 60)
  | 6 => some (63, 62)
  | 7 => some (83, 64)
  | 8 => some (103, 84)
  | 9 => some (123, 104)
  | 10 => some (124, 124)
  | 11 => some (147, 128)
  | 12 => some (183, 148)
  | 13 => some (219, 184)
  | 14 => some (255, 220)
  | _ => none

def execDset (w : Who) (f : SForm) (s : State) : Res :=
  tOnly w (.dset w f) f.x f.x.isNone [.d (f.rd.toNat % 8), .s f.ra.toNat]
    (fun r s =>
      let t := s.thread r
      let v := (t.sreg f.ra.toNat).toNat
      match dsetField (f.imm.toNat % 16) with
      | none => finish r none stFormMismatch s
      | some (hi, lo) =>
        if v ≥ 2 ^ (hi + 1 - lo) then finish r none stFormMismatch s
        else finishWith r none (fun t => t.setD (f.rd.toNat % 8) (setBits (t.dreg (f.rd.toNat % 8)) hi lo v)) s) s

/-! ### WAIT (R161) -/

/-- What a condition gives now: met with its result, or a failure. -/
inductive Met where
  | no
  | yes (v : W64)
  | fail (st : Status)
  deriving DecidableEq, Repr

/-- The status of the lowest-numbered token among some whose operation completed without success. -/
def tokallResult (t : Thread) (held : List Nat) : W64 :=
  match (List.range 16).find? (fun n => held.contains n && t.toks.any (fun k => k.n == n && k.done.isSome && k.done != some stOk)) with
  | none => 0
  | some n => match t.toks.find? (fun k => k.n == n) with
    | some k => (k.done.getD 0).setWidth 64
    | none => 0

def condMet (s : State) (t : Thread) (w : WaitSt) : Met :=
  match w.cond with
  | .tok n => match t.toks.find? (fun k => k.n == n) with
    | none => .yes 0
    | some k => match k.done with
      | some st => .yes (st.setWidth 64)
      | none => .no
  | .tokall held => if t.toks.all (fun k => k.done.isSome) then .yes (tokallResult t held) else .no
  | .mem _ cmp v =>
    if w.poisoned then .fail stUncorrectable
    else match w.seen with
      | some x => if waitCmp cmp x v then .yes x else .no
      | none => .no
  | .time v => if v.toNat ≤ s.time.tmb.toNat then .yes s.time.tmb else .no

/-- Tokens that a met WAIT frees (R160). -/
def waitFrees (t : Thread) (c : Cond) : Thread :=
  match c with
  | .tok n => { t with toks := t.toks.filter (fun k => k.n != n) }
  | .tokall held => { t with toks := t.toks.filter (fun k => !held.contains k.n) }
  | _ => t

/-- The thread's watch is withdrawn. -/
def unwatch (r : TRef) (s : State) : State :=
  { s with links := { s.links with
    watches := s.links.watches.filter (fun w => w.owner != some r)
    reqs := s.links.reqs.filter (fun q => q.owner != .watch r) } }

/-- A WAIT completes: with its result when met, with a failure's status otherwise. -/
def waitEnd (r : TRef) (m : Met) (s : State) : State :=
  match (s.thread r).wait with
  | none => s
  | some w =>
    match m with
    | .no => s
    | .yes v => foleyLeave r.tile (finishWith r none (fun t => (waitFrees t w.cond).setS w.rd v) (acquire r (unwatch r s)))
    | .fail st => foleyLeave r.tile (finish r none st (unwatch r s))

/-- The WAIT has been evaluated: one on a word waits for the first report of it, whatever its limit (R161). -/
def WaitSt.evaluated (w : WaitSt) : Bool :=
  match w.cond with
  | .mem _ _ _ => w.poisoned || w.seen.isSome
  | _ => true

/-- The limit of an evaluated WAIT is reached. -/
def WaitSt.expired (w : WaitSt) (now : W64) : Bool := w.evaluated && w.limit != 0 && w.limit.toNat ≤ now.toNat

/-- Begin a WAIT: its condition is evaluated at once, and a limit already reached ends it. -/
def waitBegin (r : TRef) (i : Instr) (w : WaitSt) (s : State) : State :=
  let s1 := s.modThread r (fun t => { t with wait := some w, held := some ⟨i, .wait⟩ })
  match condMet s1 (s1.thread r) w with
  | .no => if w.expired s.time.tmb then waitEnd r (.fail stWaitExpired) s1 else s1
  | m => waitEnd r m s1

/-- The event that changes the condition: the WAIT completes when it is met. -/
def waitMet (r : TRef) (s : State) : State :=
  match (s.thread r).wait with
  | none => s
  | some w => waitEnd r (condMet s (s.thread r) w) s

/-- The limit is reached; a met condition takes precedence. -/
def waitExpired (r : TRef) (s : State) : State :=
  match (s.thread r).wait with
  | none => s
  | some w =>
    match condMet s (s.thread r) w with
    | .no => if w.expired s.time.tmb then waitEnd r (.fail stWaitExpired) s else s
    | m => waitEnd r m s

def execWaitMet (r : TRef) (s : State) : Res := .next (waitMet r s)
def execWaitExpired (r : TRef) (s : State) : Res := .next (waitExpired r s)

def execWaitTok (w : Who) (f : SForm) (s : State) : Res :=
  tOnly w (.waitTok w f) f.x f.x.isNone [.s f.rd.toNat, .s f.ra.toNat, .s f.rb.toNat]
    (fun r s =>
      let t := s.thread r
      waitBegin r (.waitTok w f) { rd := f.rd.toNat, cond := .tok (bitsOf (t.sreg f.ra.toNat) 3 0), limit := t.sreg f.rb.toNat } s) s

def execWaitTokall (w : Who) (f : SForm) (s : State) : Res :=
  tOnly w (.waitTokall w f) f.x f.x.isNone [.s f.rd.toNat, .s f.rb.toNat]
    (fun r s =>
      let t := s.thread r
      waitBegin r (.waitTokall w f) { rd := f.rd.toNat, cond := .tokall (t.toks.map Token.n), limit := t.sreg f.rb.toNat } s) s

def execWaitTime (w : Who) (f : SForm) (s : State) : Res :=
  tOnly w (.waitTime w f) f.x f.x.isNone [.s f.rd.toNat, .s f.ra.toNat, .s f.rb.toNat]
    (fun r s =>
      let t := s.thread r
      waitBegin r (.waitTime w f) { rd := f.rd.toNat, cond := .time (t.sreg f.ra.toNat), limit := t.sreg f.rb.toNat } s) s

/-- WAIT.MEM registers a watch at the word's home, which reports the word at once and at every write (R161). A word of the
host window has no home that reports: FORM_MISMATCH, as for SEM (DEDUCED, log 30). -/
def waitMemT (i : Instr) (f : SForm) (r : TRef) (s : State) : State :=
  notStandby r f.x (fun s =>
    let t := s.thread r
    let va := (t.sreg f.ra.toNat).toNat
    if f.sub.toNat > 3 then finish r none stFormMismatch s
    else if va % 8 != 0 then finish r none stMisaligned s
    else withAccess r i none .r (pieces va 0 8) (fun ps s =>
      if mustWait s r ps || acqWaiting s r then hold r i .order s
      else match ps with
        | [] => s
        | (_, pa, _) :: _ =>
          let w : WaitSt := { rd := f.rd.toNat, cond := .mem pa f.sub.toNat (t.sreg f.rc.toNat), limit := t.sreg f.rb.toNat, va }
          if winOf (paLocal pa) == .host then finish r none stFormMismatch s
          else if s.isLocal pa then
              let o := paLocal pa
              let s1 : State := { s with links := { s.links with watches := s.links.watches ++ [{ addr := o, src := s.ownId, tag := 0, owner := some r }] } }
              waitBegin r i { w with seen := some (s.word o), poisoned := s.poisoned o 8 } s1
          else
            let q := sendReq { mtype := mtWATCH, dst := paDev pa, src := s.ownId, addr := paLocal pa, param := 0 } (.watch r) (cacheDrop pa s)
            if q.2 then waitBegin r i w q.1 else finish r none stNoRoute s) s) s

def execWaitMem (w : Who) (f : SForm) (s : State) : Res :=
  tOnly w (.waitMem w f) f.x f.x.isNone [.s f.rd.toNat, .s f.ra.toNat, .s f.rb.toNat, .s f.rc.toNat] (waitMemT (.waitMem w f) f) s

/-! ### BAR (R157, R172) -/

/-- What BAR waits for: every earlier access of the thread. -/
def barReady (s : State) (r : TRef) : Bool := accessesDone s r

/-- BAR discards the fetched words when it issues, and completes when every earlier access is performed. -/
def barT (i : Instr) (f : SForm) (r : TRef) (s : State) : State :=
  if f.sub.toNat > 2 then finish r none stFormMismatch s
  else
    let s1 := s.modThread r (fun t => { t with fetched := t.fetched.take 1, fetchFill := none })
    if barReady s1 r then finish r none stOk (acquire r s1) else hold r i .bar s1

def execBar (w : Who) (f : SForm) (s : State) : Res :=
  tOnly w (.bar w f) f.x f.x.isNone [] (barT (.bar w f) f) s

end Sys2Proof.Machine
end

