-- ==== Sys2Proof/Machine/Cue.lean ====
section
/-! DEFINITION. Cues, the committed floor and the admission test (chapter 12), phases (R347), and the freeze requests of CLAP
(R498, R499). -/
namespace Sys2Proof.Machine

/-! ### Rates -/

/-- Guaranteed rate of an operating point, in hundredths of a beat per tick (Tables 11.1, 12.4). -/
def guaranteed : Nat → Nat
  | 0 => 105
  | 1 => 160
  | 2 => 185
  | _ => 210

/-- g of R381, in hundredths. -/
def rateG (s : State) : Nat := if s.pow.avsf && s.pow.op < s.floor.adm then guaranteed s.pow.op else guaranteed s.floor.adm

/-- Fractions of a tick, exact. -/
structure Frac where
  n : Nat
  d : Nat
  deriving DecidableEq, Repr

def Frac.add (a b : Frac) : Frac := ⟨a.n * b.d + b.n * a.d, a.d * b.d⟩
def Frac.lt (a b : Frac) : Bool := a.n * b.d < b.n * a.d
def Frac.ceil (a : Frac) : Nat := ceilDiv a.n a.d
def sumFrac : List Frac → Frac
  | [] => ⟨0, 1⟩
  | x :: xs => x.add (sumFrac xs)
def maxFrac : List Frac → Frac
  | [] => ⟨0, 1⟩
  | x :: xs => let y := maxFrac xs; if x.lt y then y else x

/-! ### The admission test (R381 to R386) -/

/-- A cue under test: its sequence's tiles and threads per tile beside it. -/
structure CueIn where
  c : Cue
  tiles : List Nat
  t : Nat
  deriving DecidableEq, Repr

/-- Own columns of a tile (R22, R23): (layer, column). -/
def ownCols (b : Build) (t : Nat) : List (Nat × Nat) :=
  let col := t % 64
  match b with
  | .t => [(t / 64, col), (t / 64 + 1, col)]
  | .s => [(0, col), (1, col)]

/-- Tiles charged with a cue's near-memory bytes: its own, and on PH7-T those that share an own column with one of them
(Table 12.4). -/
def nearTiles (b : Build) (tiles : List Nat) : List Nat :=
  match b with
  | .s => tiles
  | .t => (List.range 256).filter (fun u => tiles.any (fun t => t % 64 == u % 64 && (t / 64 == u / 64 || t / 64 + 1 == u / 64 || u / 64 + 1 == t / 64)))

/-- Scratch columns of the device. -/
def scratchCols (s : State) : List (Nat × Nat) :=
  (List.range (Config.mlayers s.build)).flatMap (fun l => ((List.range 64).filter (fun c => !s.cacheQuarter l c)).map (fun c => (l, c)))

/-- The Foley part of the allowance (R382). -/
def foleyTicks (s : State) (e : List CueIn) (y : CueIn) : Nat :=
  if !s.pow.foleyEn then 0
  else sumN ((e.filter (fun z => z.tiles.any (fun t => y.tiles.contains t))).map (fun z => 16000 * (1 + bitsOf (z.c.word 6) 31 24)))

def rampTicks (s : State) : Nat := 10000 * (s.floor.adm - s.pow.op)

/-- The bound of a cue among cues in H mode (R383): each kind of unit that the cue uses adds its most loaded unit. A direction of
a port is one unit of the kind "port", numbered 2 n for sending and 2 n + 1 for receiving. -/
def boundH (s : State) (zs : List CueIn) (y : CueIn) : Nat :=
  let e := zs.filter (fun z => z.c.deadline ≤ y.c.deadline)
  let g := rateG s
  let worstOver := fun (units : List Nat) (load : CueIn → Nat → Frac) => maxFrac (units.map (fun u => sumFrac (e.map (fun z => load z u))))
  let array := if y.c.array == 0 then ⟨0, 1⟩ else worstOver y.tiles (fun z u =>
    if z.tiles.contains u then ⟨(z.c.array - mget 0 z.c.servArr u) * 100, g⟩ else ⟨0, 1⟩)
  let vec := if y.c.vec == 0 then ⟨0, 1⟩ else worstOver y.tiles (fun z u =>
    if z.tiles.contains u then ⟨(z.c.vec - mget 0 z.c.servVec u) * 72 * 100, Nat.max 1 z.t * g⟩ else ⟨0, 1⟩)
  let near := if y.c.near == 0 then ⟨0, 1⟩ else worstOver (nearTiles s.build y.tiles) (fun z u =>
    if (nearTiles s.build z.tiles).contains u then ⟨(z.c.near - mget 0 z.c.servNear u) * 100, 480 * g⟩ else ⟨0, 1⟩)
  let hbm := if y.c.hbm == 0 then ⟨0, 1⟩ else worstOver [0] (fun z _ => ⟨z.c.hbm - z.c.servHbm, if s.build == .t then 13600 else 6800⟩)
  let rateOf := fun (z : CueIn) => if bitOf (z.c.word 6) 32 then guaranteed z.c.bkeOp else g
  let bke := if y.c.bke == 0 then ⟨0, 1⟩ else
    (worstOver ((scratchCols s).map (fun c => c.1 * 64 + c.2)) (fun z u => ⟨(z.c.bke - mget 0 z.c.servBke u) * 10000, 96 * rateOf z⟩)).add
      ⟨11490 * 10000, 96 * rateOf y⟩
  let ports := List.range (Config.ports s.build)
  let way := fun (z : CueIn) (u : Nat) => if u % 2 == 0 then z.c.send (u / 2) - mget 0 z.c.servSend (u / 2) else z.c.recv (u / 2) - mget 0 z.c.servRecv (u / 2)
  let port := worstOver (ports.flatMap (fun n => (if y.c.send n != 0 then [2 * n] else []) ++ (if y.c.recv n != 0 then [2 * n + 1] else [])))
    (fun z u => ⟨way z u * 2, 375⟩)
  let total := sumFrac [array, vec, near, hbm, bke, port]
  s.time.tmb.toNat + rampTicks s + foleyTicks s e y + total.ceil

/-- The bound in A mode: one unit of one tick per tick (R385, R386). -/
def boundA (s : State) (zs : List CueIn) (y : CueIn) : Nat :=
  let now := s.time.tmb.toNat
  now + sumN ((zs.filter (fun z => z.c.deadline ≤ y.c.deadline)).map (fun z =>
    if z.c.aMode then (z.c.word 8).toNat - z.c.servTicks else z.c.bound - now))

def boundOf (s : State) (aMode : Bool) (zs : List CueIn) (y : CueIn) : Nat := if aMode then boundA s zs y else boundH s zs y

/-- A cue of a sequence, as the test takes it. -/
def cueInOf (s : State) (reel slot : Nat) (c : Cue) : CueIn :=
  match s.seq reel slot with
  | none => ⟨c, [], 1⟩
  | some q => ⟨c, q.tiles, q.t⟩

/-- The Director's decision on a cue: its status, success when it is accepted (R270, R380, R383, R384). -/
def admitTest (s : State) (reel slot : Nat) (c : Cue) : Status :=
  let R := s.reel reel
  let a := s.aMode 0
  let x := cueInOf s reel slot { c with aMode := a }
  let others := s.admitted.map (fun z => cueInOf s z.1 z.2.1 z.2.2)
  let all := others ++ [x]
  if R.aqEn && R.aqUsed + bitsOf (c.word 5) 47 24 > R.aqLimit then stRejectCapacity
  else if s.pow.shut then stRejectCapacity
  else if c.deadline ≤ s.time.tmb.toNat || boundOf s a [x] x > c.deadline then stRejectDeadline
  else if (all.filter (fun y => y.c.deadline ≥ c.deadline)).any (fun y => boundOf s a all y > y.c.deadline) then stRejectCapacity
  else stOk

/-- The quota alone rejects the cue (R270). -/
def quotaFails (s : State) (reel : Nat) (c : Cue) : Bool :=
  let R := s.reel reel
  R.aqEn && R.aqUsed + bitsOf (c.word 5) 47 24 > R.aqLimit

/-- Cues are held for a debug opening at D3 or D4, or for Retention (R459, R465). -/
def State.admitHeld (s : State) : Bool := s.sec.d3hot || s.sec.retention || (s.sec.dbgBusy && s.sec.openReq ≥ 3) || s.sec.level ≥ 3

/-! ### RATE (R392) -/

def rateMsg (s : State) (dst : Nat) : Msg := { mtype := mtRATE, dst, src := s.ownId, param := s.floor.req + 4 * s.pow.op }

/-- RATE to every other member of a cue. -/
def sendRate (c : Cue) (s : State) : State :=
  (c.members.filter (fun m => m != s.ownId)).foldl (fun s m => sendMsg (rateMsg s m) s) s

/-- RATE to the members of every open cross-device cue, after a change of REQ or of the point in force. -/
def rateAll (s : State) : State := s.cues.foldl (fun s c => if c.2.2.st == .awaiting then s else sendRate c.2.2 s) s

/-- The point that fixes a cross-device cue's bank-engine rate: the lowest of ADM and its members' announced floors. -/
def bkePoint (s : State) (members : List Nat) : Nat :=
  (members.filter (fun m => m != s.ownId)).foldl (fun p m => Nat.min p (mget (1, 1) s.links.announced m).1) s.floor.adm

def execRate (port : Nat) (m : Msg) (s : State) : Res :=
  .next (if m.mtype != mtRATE then s else onMsg port m (fun s =>
    { s with links := { s.links with announced := mput s.links.announced m.src (natBits m.param 1 0, natBits m.param 3 2) } }) s)

/-! ### CUE -/

def declBytes : Nat := 168

/-- Ports that the build lacks carry nothing (R376). -/
def portsOk (b : Build) (w : List W64) : Bool := (List.range 12).all (fun n => n < Config.ports b || w.getD (9 + n) 0 == 0)

/-- The thread submits its cue: it waits for the Director's decision. -/
def cueSubmit (r : TRef) (i : Instr) (rd : Nat) (w : List W64) (members : List Nat) (s : State) : State :=
  let t := s.thread r
  let c : Cue := { r, rd, decl := w, members, deadline := (w.getD 0 0).toNat }
  hold r i .cue (s.modSeq t.reel t.slot (fun q => { q with cue := some c }))

/-- CUE (R375, R376): a helper has no sequence, and its CUE names nothing that could hold a cue. -/
def cueT (i : Instr) (f : SForm) (r : TRef) (s : State) : State :=
  let t := s.thread r
  let va := (t.sreg f.ra.toNat).toNat
  if t.helper then finish r none stFormMismatch s
  else if ((s.seq t.reel t.slot).bind (fun q => q.cue)).isSome then finish r none stCueOpen s
  else if va % 8 != 0 then finish r none stMisaligned s
  else if s.rep.fwSwitching then hold r i .fwSwitch s
  else withDesc r i none .r va declBytes (fun bs s =>
    let w := wordsOf 21 bs
    let xdev := bitOf (w.getD 6 0) 32
    let n := bitsOf (w.getD 6 0) 45 33
    if !portsOk s.build w || (xdev && (n < 2 || n > 4096)) then finish r none stFormMismatch s
    else if !xdev then cueSubmit r i f.rd.toNat w [] s
    else withDesc r i none .r (bitsOf (w.getD 7 0) 51 0) (2 * n) (fun bs s =>
      let ms := memberIds n bs
      if !membersOk s ms then finish r none stFormMismatch s else cueSubmit r i f.rd.toNat w ms s) s) s

def execCue (w : Who) (f : SForm) (s : State) : Res :=
  tOnly w (.cue w f) f.x f.x.isNone [.s f.rd.toNat, .s f.ra.toNat] (cueT (.cue w f) f) s

/-- A cue is accepted: its number, admission floor, bound and bank-engine rate are fixed, its hold counts, and its members
learn the floor (R376, R379, R384, R386, R390, R392). -/
def cueAccept (reel slot : Nat) (c : Cue) (s : State) : State :=
  let R := s.reel reel
  let g := mget 0 R.gens slot
  let g' := if g ≥ 511 then 1 else g + 1
  let num := 8 * reel + slot + 128 * g'
  let a := s.aMode 0
  let all := s.admitted.map (fun z => cueInOf s z.1 z.2.1 z.2.2)
  let c0 := { c with bkeOp := bkePoint s c.members }
  let x := cueInOf s reel slot c0
  let c1 : Cue := { c0 with st := .admitted, num, floor := s.floor.adm, aMode := a, bound := boundOf s a (all ++ [x]) x, order := s.cueOrder }
  let s1 := s.modReel reel (fun R => { R with
    gens := mput R.gens slot g'
    aqUsed := Nat.min (R.aqUsed + bitsOf (c.word 5) 47 24) 0xFFFFFF
    seqs := mapIf (fun q => q.1 == slot) (fun q => (q.1, { q.2 with cue := some c1 })) R.seqs })
  let s2 : State := { s1 with cueOrder := s1.cueOrder + 1, pow := s1.pow.boundary }
  let s3 := trace 0x01 none 31 reel num (cntReel reel 1 1 s2)
  sendRate c1 (finishWith c.r none (fun t => t.setS c.rd (BitVec.ofNat 64 num)) s3)

/-- The Director decides on the cue that a sequence submitted (R380, R459); while it has no core, or a takeover runs, the decision waits
(R410). -/
def execCueAdmission (reel slot : Nat) (s : State) : Res :=
  .next (match s.seq reel slot with
    | none => s
    | some q =>
      match q.cue with
      | none => s
      | some c =>
        if c.st != .awaiting || !s.directorUp then s
        else
          let s := splitPoint 0 s
          let gone := s.modSeq reel slot (fun q => { q with cue := none })
          if s.admitHeld then finish c.r none stAdmitHeld gone
          else
            let c := { c with bkeOp := bkePoint s c.members }
            let st := admitTest s reel slot c
            if st == stOk then cueAccept reel slot c s
            else
              let s1 := if quotaFails s reel c then gone.modReel reel (fun R => { R with qrej := true }) else gone
              let s2 := trace 0x02 none 31 reel st.toNat (cntReel reel 2 1 s1)
              finish c.r none st (s2.modThread c.r (fun t => t.setS c.rd 0)))

/-! ### The end of a cue -/

/-- Every token of the thread has completed. -/
def tokensDone (t : Thread) : Bool := t.toks.all (fun k => k.done.isSome)

/-- ENDCUE: RA names the sequence's open cue, and no other ENDCUE has; the end waits for the thread's tokens, which it
frees as WAIT.TOKALL does (R378). -/
def endcueT (i : Instr) (f : SForm) (r : TRef) (s : State) : State :=
  let t := s.thread r
  match (if t.helper then none else (s.seq t.reel t.slot).bind (fun q => q.cue)) with
  | none => finish r none stFormMismatch s
  | some c =>
    if c.st == .awaiting || (t.sreg f.ra.toNat).toNat != c.num || c.ending.any (fun q => q != r) then finish r none stFormMismatch s
    else hold r i .endcue (s.modSeq t.reel t.slot (fun q => { q with cue := q.cue.map (fun c => { c with ending := some r }) }))

def execEndcue (w : Who) (f : SForm) (s : State) : Res :=
  tOnly w (.endcue w f) f.x f.x.isNone [.s f.ra.toNat] (endcueT (.endcue w f) f) s

/-- The cue whose end was requested ends, once the tokens of the thread that requested it have completed (R378, R393). -/
def execCueEnd (reel slot : Nat) (s : State) : Res :=
  .next (match (s.seq reel slot).bind (fun q => q.cue) with
    | none => s
    | some c =>
      match c.ending with
      | none => s
      | some r =>
        if !tokensDone (s.thread r) || !(s.thread r).held.any (fun h => h.why == .endcue) then s
        else
          let st := cueStatus s.time.tmb none c
          finish r none st (cueClose reel slot st (s.modThread r (fun t => { t with toks := [] }))))

/-- A cue that has not ended by its deadline expires: it is admitted no more, and an event record says so (R389). -/
def execCueExpire (reel slot : Nat) (s : State) : Res :=
  .next (match s.cueIn reel slot with
    | none => s
    | some c =>
      if s.time.tmb.toNat ≤ c.deadline then s
      else event 0 0x0B reel slot 0 0 (BitVec.ofNat 64 c.num) 0
        (s.modSeq reel slot (fun q => { q with cue := q.cue.map (fun c => { c with st := .expired }) })))

/-- The admitted cue with the earliest deadline, the first accepted among equals (R385). -/
def mostUrgent : List (Nat × Nat × Cue) → Option (Nat × Nat × Cue)
  | [] => none
  | z :: zs =>
    match mostUrgent zs with
    | none => some z
    | some y => if y.2.2.deadline < z.2.2.deadline || (y.2.2.deadline == z.2.2.deadline && y.2.2.order < z.2.2.order) then some y else some z

/-- A tick passes for the most urgent admitted cue (R385). -/
def creditTick (s : State) : State :=
  match mostUrgent s.admitted with
  | none => s
  | some z => s.modSeq z.1 z.2.1 (fun q => { q with cue := q.cue.map (fun c => { c with servTicks := c.servTicks + 1 }) })

/-! ### The committed floor -/

/-- A write of DIR_FLOOR (Table 12.3, R379). -/
def floorWrite (v : W64) (s : State) : State :=
    let req := bitsOf v 1 0
    let s1 : State := if bitOf v 7 then { s with floor := { s.floor with refused := false } } else s
    if req == 0 || req == 3 then { s1 with floor := { s1.floor with refused := true } }
    else if req == s1.floor.req then s1
    else
      let low := req < s1.floor.req
      rateAll { s1 with floor := { s1.floor with req, adm := if low then req else s1.floor.adm, pend := !low && req > s1.floor.adm } }

def execFloorWrite (v : W64) (s : State) : Res := .next (hostWrite (floorWrite v) s)

/-! ### PHASE -/

def execPhase (w : Who) (f : SForm) (s : State) : Res :=
  tOnly w (.phase w f) f.x f.x.isNone [] (fun r s =>
    if natBits f.imm.toNat 15 3 != 0 then finish r none stFormMismatch s
    else
      let t := s.thread r
      let n := f.imm.toNat % 8
      finish r none stOk (trace 0x06 (some r.tile) r.th t.reel n (s.modReel t.reel (fun R => { R with phase := n })))) s

/-! ### Freezes (R498, R499) -/

/-- Copy every counter into its frozen copy (R498, R499): EPOCH counts, FTICK is the tick, NALIGN notes a device without
alignment. -/
def freezeNow (s : State) : State :=
  let tick := s.time.tmb
  let s1 : State := { s with
    tiles := s.tiles.map (fun T => (T.1, { T.2 with fixF := T.2.fix, pmcF := T.2.pmc }))
    reels := s.reels.map (fun R => (R.1, { R.2 with cntF := R.2.cnt }))
    obs := { s.obs with
      baseF := s.obs.base
      epoch := (s.obs.epoch + 1) % 65536
      nalign := s.obs.nalign || !s.time.aligned
      ftick := tick.toNat % 2 ^ 32 } }
  trace 0x0E none 31 0 s1.obs.epoch s1

/-- A freeze tick joins the pending ones: at once and LATE when it has passed, dropped when four others are pending. -/
def freezeAt (tick : Nat) (s : State) : State :=
  if !s.obs.cntEn then s
  else if tick ≤ s.time.tmb.toNat then
    let s1 := freezeNow s
    { s1 with obs := { s1.obs with late := true } }
  else if s.obs.pending.contains tick then s
  else if s.obs.pending.length ≥ 4 then { s with obs := { s.obs with drop := Nat.min (s.obs.drop + 1) 0xFF } }
  else { s with obs := { s.obs with pending := s.obs.pending ++ [tick] } }

/-- The CLAP message of a freeze request goes along the spanning tree to every neighbour but the one that it came from (R322, R498). -/
def clapFlood (tick : W64) (hops : Nat) (from_ : Option Nat) (s : State) : State :=
  if !s.links.claimed || hops > 15 then s
  else ((treePorts s).filter (fun n => some n != from_)).foldl
    (fun s n => sendOn n { mtype := mtCLAP, dst := (s.port n).peer, src := s.ownId, hops, data := leBytes 8 tick.toNat } s) s

def execClap (w : Who) (f : SForm) (s : State) : Res :=
  tOnly w (.clap w f) f.x f.x.isNone [.s f.ra.toNat] (fun r s =>
    let tick := (s.thread r).sreg f.ra.toNat
    finish r none stOk (freezeAt tick.toNat (clapFlood tick 0 none s))) s

/-- A host write of DBG_FRZ_REQ (R498). -/
def execFreezeRequest (tick : W64) (s : State) : Res := .next (hostWrite (fun s => freezeAt tick.toNat (clapFlood tick 0 none s)) s)

/-- The Slate count has reached the earliest pending freeze tick (R499). -/
def execFreeze (s : State) : Res :=
  .next (match s.obs.pending.foldl (fun (m : Option Nat) t => match m with
      | none => some t
      | some x => some (Nat.min x t)) none with
    | none => s
    | some t =>
      if s.time.tmb.toNat < t then s
      else
        let s1 := freezeNow { s with obs := { s.obs with pending := s.obs.pending.erase t } }
        if t < s.time.tmb.toNat then { s1 with obs := { s1.obs with late := true } } else s1)

end Sys2Proof.Machine
end

