-- ==== Sys2Proof/Machine/Mirror.lean ====
section
/-! DEFINITION. What a mirror relationship sends (R323 to R326): translation by firmware, the encoding of records, and the
messages of the primary. -/
namespace Sys2Proof.Machine

/-! ### Addresses that the control processors follow -/

/-- The leaf that translates an address for the device's own engines: one that the base die holds, or, in H mode, the walk's. -/
def fwLeaf (s : State) (va : Nat) : Option (W64 × Nat) :=
  match s.xl.base.find? (fun e => e.covers va) with
  | some e => some (e.leaf, frameOf e.leaf + (va - e.va))
  | none =>
    if s.aMode 1 || va ≥ 2 ^ 52 then none
    else match walk s va with
      | .ok e => some (e.leaf, frameOf e.leaf + (va - e.va))
      | .error _ => none

/-- Bytes at a virtual address that lie in this device's memory. -/
def fwBytes (s : State) (va n : Nat) : Option (List Byte) :=
  (List.range n).foldr (fun k acc =>
    match acc, fwLeaf s (va + k) with
    | some l, some p => if s.far p.2 || s.poisoned (paLocal p.2) 1 then none else some (s.byte (paLocal p.2) :: l)
    | _, _ => none) (some [])

/-- The entries of a region list: (virtual base, length). -/
def regionEntries (s : State) (list count : Nat) : Option (List (Nat × Nat)) :=
  (fwBytes s list (16 * count)).map (fun bs =>
    let w := wordsOf (2 * count) bs
    (List.range count).map (fun k => ((w.getD (2 * k) 0).toNat % 2 ^ 52, (w.getD (2 * k + 1) 0).toNat)))

/-- The 64 KiB blocks of regions in image order, as (fabric physical address, length); none where a block translates to no
place, or `need` a permission that it lacks. -/
def regionBlocks (s : State) (need : Option Need) (l : List (Nat × Nat)) : Option (List (Nat × Nat)) :=
  (l.flatMap (fun g => (List.range (g.2 / 0x10000)).map (fun k => g.1 + k * 0x10000))).foldr (fun va acc =>
    match acc, fwLeaf s va with
    | some r, some p =>
      if (match need with
        | some n => leafGrants p.1 n && keyAllows s.xl.pkey p.1 n
        | none => true) then some ((p.2, 0x10000) :: r) else none
    | _, _ => none) (some [])

/-! ### Records (R325) -/

/-- Neighbouring words grouped by whether they are zero. -/
def runsOf : List Nat → List (List Nat)
  | [] => []
  | w :: ws =>
    match runsOf ws with
    | (v :: vs) :: r => if (v == 0) == (w == 0) then (w :: v :: vs) :: r else [w] :: (v :: vs) :: r
    | r => [w] :: r

/-- The token stream of 32-bit words (R325). -/
def diffTokens (ws : List Nat) : List Byte :=
  (runsOf ws).flatMap (fun run =>
    if run.head? == some 0 then leBytes 2 (run.length - 1)
    else leBytes 2 (0x8000 + (run.length - 1)) ++ run.flatMap (leBytes 4))

/-- The bytes that a token stream stands for. -/
def diffBytes : Nat → List Byte → List Byte
  | 0, _ => []
  | k + 1, bs =>
    if bs.length < 2 then []
    else
      let t := leNat (bs.take 2)
      let n := 4 * (t % 2 ^ 15 + 1)
      if t < 2 ^ 15 then List.replicate n 0 ++ diffBytes k (bs.drop 2)
      else (bs.drop 2).take n ++ diffBytes k (bs.drop (2 + n))

def xorBytes (a b : List Byte) : List Byte := (a.zip b).map (fun p => p.1 ^^^ p.2)

/-- The words of bytes, 32 bits each. -/
def words32 : Nat → List Byte → List Nat
  | 0, _ => []
  | n + 1, bs => leNat (bs.take 4) :: words32 n (bs.drop 4)

/-- Image offset of a fabric address in the regions of a mirror, when all n bytes lie in one block. -/
def imageOff (regions : List (Nat × Nat)) (pa n : Nat) : Option Nat :=
  (regions.zipIdx.find? (fun g => g.1.1 ≤ pa && pa + n ≤ g.1.1 + g.1.2)).map (fun g => g.2 * 0x10000 + (pa - g.1.1))

/-! ### Mirror control messages -/

/-- The operations of MCTL, by the codes in PARAM (DESIGN CHOICE, log 40: the manual gives the message's type alone). -/
def mcOPEN : Nat := 0
def mcACCEPT : Nat := 1
def mcREFUSED : Nat := 2
def mcSEAL : Nat := 3
def mcSACK : Nat := 4
def mcCOMMIT : Nat := 5
def mcDROP : Nat := 6
def mcCACK : Nat := 7
def mcCLOSE : Nat := 8
def mcSTOPPING : Nat := 9

def mctl (dst op reel : Nat) (args : List Nat) (s : State) : State :=
  sendMsg { mtype := mtMCTL, dst, src := s.ownId, tag := reel, param := op, data := args.flatMap (leBytes 8) } s

/-- One record to the partner. -/
def sendRec (reel kind tag addr : Nat) (data : List Byte) (s : State) : State :=
  (sendMsg { mtype := mtMREC, dst := (s.mir reel).peer, src := s.ownId, tag := reel, addr, param := kind + 4 * tag, data } s).modMir reel
    (fun m => { m with records := m.records + 1 })

/-- The DIFF records of one piece, in spans of at most 128 bytes that end at multiples of 128; a span of zeros is not sent (R325). -/
def diffPiece (reel tag place : Nat) (old new : List Byte) (s : State) : State :=
  (List.range (ceilDiv (place % 128 + new.length) 128)).foldl (fun s k =>
    let at_ := if k == 0 then 0 else 128 * k - place % 128
    let n := 128 * (k + 1) - place % 128 - at_
    let x := xorBytes ((old.drop at_).take n) ((new.drop at_).take n)
    match imageOff (s.mir reel).regions (s.fabric (place + at_)) x.length with
    | some off => if x.all (fun b => b == 0) then s else sendRec reel 0 tag off (diffTokens (words32 (x.length / 4) x)) s
    | none => s) s

/-- The reels that mirror a Toll group's steps. -/
def mirrorsOf (s : State) (g : Nat) : List Nat := (s.pairs.mir.filter (fun m => m.2.st == 2 && m.2.grp == g)).map (fun m => m.1)

/-- A chunk of the group's step t may stage: the partner has acknowledged the previous step's COMMIT or DROP (R325). -/
def mirrorReady (s : State) (g t : Nat) : Bool :=
  (mirrorsOf s g).all (fun r => !(s.mir r).unacked && (s.mir r).sealed_.all (fun x => x == t))

/-- The 64 KiB block k of an image goes to the partner as FULL records of 256 bytes. -/
def sendBlock (reel tag k : Nat) (s : State) : State :=
  match (s.mir reel).regions[k]? with
  | none => s
  | some g =>
    (List.range (g.2 / 256)).foldl (fun s j =>
      sendRec reel 1 tag (k * 0x10000 + 256 * j) (if s.isLocal g.1 then s.bytes (paLocal g.1 + 256 * j) 256 else s.lineBytes (g.1 + 256 * j) 256) s) s

/-- Continuity captures the stale blocks as FULL records and seals the frame: the record count, and the number of the
step's chunks that wait for a slot (step 2 of Table 10.18). -/
def mirrorSeal (reel tag waiting : Nat) (s : State) : State :=
  let s1 := (s.mir reel).stale.foldl (fun s k => sendBlock reel tag k s) s
  let n := (s1.mir reel).records
  mctl (s1.mir reel).peer mcSEAL reel [tag, n, waiting] (s1.modMir reel (fun m => { m with stale := [], sealed_ := some tag, sacked := false }))

/-- COMMIT or DROP of a sealed frame (step 5 of Table 10.18). -/
def mirrorEnd (reel tag : Nat) (set : Bool) (s : State) : State :=
  let n := (s.mir reel).records
  let s1 := if set then mctl (s.mir reel).peer mcDROP reel [tag] s else mctl (s.mir reel).peer mcCOMMIT reel [tag, n] s
  s1.modMir reel (fun m => { m with sealed_ := none, sacked := false, unacked := true, records := 0 })

end Sys2Proof.Machine
end

