-- ==== Sys2Proof/Machine/Roll.lean ====
section
/-! DEFINITION. The roll (R248 to R256) and the Toll (R257 to R260, R319 to R321): slots, commit words, contributions,
resolutions, recovery and queries. -/
namespace Sys2Proof.Machine

/-! ### Slots -/

/-- The slot that stands at a place of the roll. -/
def State.slotAt (s : State) (layer col slot : Nat) : Option RollSlot :=
  s.bank.roll.find? (fun x => x.layer == layer && x.col == col && x.slot == slot)

/-- A slot that is free: FREE or DONE (R248). -/
def State.slotFree (s : State) (layer col slot : Nat) : Bool :=
  match s.slotAt layer col slot with
  | none => true
  | some x => x.mark == 0 || x.mark == 3

/-- The column has a commit to write, which its engine takes before the work of level 5 (R239). -/
def State.colCommits (s : State) (layer col : Nat) : Bool := s.bank.roll.any (fun x => x.inCol layer col && x.mark == 2 && !exportHolds s x)

/-- Local address of a slot (R248). -/
def slotAddr (layer col slot : Nat) : Nat := colBase layer col + 0xBD00000 + 8192 * slot

/-- Before a column zeroes a range, staged slots whose master lies in it are freed, and rolled ones completed (R266). -/
def settleRange (o n : Nat) (s : State) : State :=
  (s.bank.roll.filter (fun x => (x.mark == 1 || x.mark == 2) && !exportHolds s x && x.places.head?.any (fun p => o ≤ p && p < o + n))).foldl
    (fun s x => if x.mark == 2 then commitSlot x s else setMark x 0 s) s

/-! ### Commit words and registers (Table 8.6) -/

def State.commitWord (s : State) (g : Nat) : CommitWord := mget {} s.bank.commit g
def State.modCommit (s : State) (g : Nat) (f : CommitWord → CommitWord) : State :=
  { s with bank := { s.bank with commit := mput s.bank.commit g (f (s.commitWord g)) } }

/-- A hardware source of the group's Toll. -/
def noteSrc (g : Nat) (s : State) : State := s.modGroup g (fun x => { x with src := true })

/-- The record that this device keeps of a resolution: whether the step resolved set (R256). -/
def Group.recorded (x : Group) (t : Nat) : Option Bool := (x.history.find? (fun h => h.1 == t)).map (fun h => h.2)

/-- A resolution is recorded: in the commit word, among the last 16 of the group (R251, R252, R256), and at the UPDs of the step, whose
chunks yet to stage follow it however late they come (R254). -/
def recordStep (g t : Nat) (set : Bool) (s : State) : State :=
  let s1 := (s.modCommit g (fun c => { c with done := t, res := set, v := true })).modGroup g (fun x =>
    { x with history := ((t, set) :: x.history.filter (fun h => h.1 != t)).take 16 })
  { s1 with bank := { s1.bank with ops := mapIf (fun o => o.kind == .upd && o.group == g && o.tag == t) (fun o => { o with resolved := some set }) s1.bank.ops } }

/-! ### Operations that a contribution waits for -/

/-- Chunks of a UPD (R241). -/
def BOp.rowLen (o : BOp) : Nat := bitsOf (o.words.getD 0 0) 35 16
def BOp.nrows (o : BOp) : Nat := bitsOf (o.words.getD 0 0) 55 36
def BOp.chunks (o : BOp) : Nat := o.nrows * (o.rowLen / 1024)
def BOp.updOp (o : BOp) : Nat := bitsOf (o.words.getD 0 0) 1 0

/-- The operation has nothing left that the contribution waits for: the precheck of an UPDATE, else its completion (R258). -/
def BOp.prechecked (o : BOp) : Bool :=
  match o.kind with
  | .upd => o.updOp == 0 && o.pre.length ≥ o.chunks
  | .rdw => false
  | _ => true

/-- Chunks of a step that have yet to stage (R326). -/
def waitingChunks (s : State) (g t : Nat) : Nat :=
  sumN ((s.bank.ops.filter (fun o => o.kind == .upd && o.updOp == 0 && o.group == g && o.tag == t)).map (fun o => o.chunks - o.done.length))

/-- Host software has yet to encode chunks of a reel's frame (R330). -/
def hostEncodes (s : State) (reel t : Nat) : Bool :=
  (s.pairs.mlistOn && s.pairs.mlistReel == reel && s.pairs.mlistTag == t) || s.pairs.mlists.any (fun l => l.reel == reel && l.tag == t)

/-- A sealed frame of a committed step ends once its last chunk has staged, and host software has encoded what it encodes (step 5 of
Table 10.18). -/
def mirrorCommit (g t : Nat) (s : State) : State :=
  if (s.group g).recorded t == some false && waitingChunks s g t == 0 then
    ((mirrorsOf s g).filter (fun r => (s.mir r).sealed_ == some t && !hostEncodes s r t)).foldl (fun s r => mirrorEnd r t false s) s
  else s

/-- The record of the staged chunks of a commit that host software encodes (R330, R434). -/
def mirlistPart (reel g t : Nat) (l : List Nat) (s : State) : State :=
  let now := l.take 8192
  let s1 : State := { s with pairs := { s.pairs with
    mlistOn := true
    mlistWin := now.zipIdx.map (fun e => (e.2, BitVec.ofNat 64 e.1))
    mlistNext := l.drop 8192
    mlistTag := t
    mlistReel := reel
    mlistGroup := g } }
  let s2 := event 0 0x10 0 0 0 0 (BitVec.ofNat 64 (reel + g * 16 + t * 256 + now.length * 2 ^ 24)) 0x5F0000 s1
  { s2 with pairs := { s2.pairs with mlistAt := (s2.host.eq.tail + s2.host.eq.size - 1) % s2.host.eq.size } }

/-- Chunks of a frame that host software encodes: their record is placed once the window is free of earlier ones. -/
def mirlistAdd (reel g t : Nat) (l : List Nat) (s : State) : State :=
  if s.pairs.mlistOn then { s with pairs := { s.pairs with mlists := s.pairs.mlists ++ [⟨reel, g, t, l⟩] } } else mirlistPart reel g t l s

/-! ### Resolution (R251, R252, R259) -/

/-- The end of the group's TOLLs, and what a later one joins (R260). -/
def tollsEnd (g : Nat) (st : Status) (s : State) : State :=
  let x := s.group g
  let s1 := x.resolving.foldl (fun s id => bopFinish id st s) s
  s1.modGroup g (fun y => { y with
    busy := false
    resolving := []
    joined := y.later
    joinedFlag := y.later.any (fun id => ((s1.bop id).map (fun o => o.count)).getD 0 == 1)
    later := []
    kids := []
    kidsOr := false
    sentUp := false
    contrib := false
    lossAsk := false
    leg := 0 })

/-- A step of a group resolves on this device: clear rolls its staged chunks, set frees them; a lost member gives the TOLLs
MEMBER_LOST (Table 8.7, R252, R259). -/
def resolveStep (g t : Nat) (set lost : Bool) (s : State) : State :=
  let s1 := if set then s else splitPoint 9 s
  let s2 := recordStep g t set s1
  let s3 := s2.modRoll (mapIf (fun x => x.group == g && x.step == t && x.mark == 1) (fun x => { x with mark := if set then 0 else 2, query := false }))
  let s4 := trace 0x0B none 31 0 (g + t * 16 + b2n set * 2 ^ 20) (cntBase 139 1 s3)
  let s5 := tollsEnd g (if !set then stOk else if lost then stMemberLost else stTollSet) (s4.modGroup g (fun x => { x with last := set }))
  let frames := (mirrorsOf s5 g).filter (fun r => (s5.mir r).sealed_ == some t)
  if set then frames.foldl (fun s r => mirrorEnd r t true s) s5
  else
    let staged := (s5.bank.roll.filter (fun x => x.group == g && x.step == t && x.mark == 2)).map (fun x => slotAddr x.layer x.col x.slot)
    mirrorCommit g t ((frames.filter (fun r => (s5.mir r).host)).foldl (fun s r => mirlistAdd r g t staged s) s5)

/-! ### The tree of a bound group (R320) -/

def Group.rankOf (x : Group) (d : Nat) : Nat := (x.members.findIdx? (fun m => m == d)).getD x.members.length
def kidsOf (n r : Nat) : List Nat := (List.range n).filter (fun k => k != 0 && (k - 1) / 64 == r)

/-- The tag that contributions of the group now name. -/
def Group.tagNow (x : Group) : Nat := if x.busy then (x.step + 65535) % 65536 else x.step

/-- Latency in ns of the leg to a device: 75 for each forwarding device, this port's wire, and the wires beyond, which only
the far ports have measured (a free value). -/
def legTo (s : State) (d : Nat) : Nat × State :=
  let e := s.route d
  let own := (s.port e.port).halfRtt
  if e.hops ≤ 1 then (own, s)
  else
    let f := s.fresh
    (75 * (e.hops - 1) + own + f.1, f.2)

def legsTo (ds : List Nat) (s : State) : Nat × State :=
  ds.foldl (fun acc d =>
    let r := legTo acc.2 d
    (Nat.max acc.1 r.1, r.2)) (0, s)

/-- The layout of TOLL_UP, TOLL_DOWN, TOLL_QRY and TOLL_ANS data (DESIGN CHOICE, log 40): the list digest, then the fields
as 64-bit words. -/
def tollMsg (s : State) (mtype dst : Nat) (digest : W64) (tag : Nat) (args : List Nat) : Msg :=
  { mtype, dst, src := s.ownId, tag, data := leBytes 8 digest.toNat ++ args.flatMap (leBytes 8) }

/-- Toll bound in units of 10 ns: 200 ns plus four times the largest leg (R320), rounded up, modulo 2^16 (DESIGN CHOICE, log 99: the manual
gives neither a rounding nor what BOUND shows of a larger bound). -/
def tollBound (leg : Nat) : Nat := ceilDiv (200 + 4 * leg) 10 % 2 ^ 16

/-- The resolution reaches this member: it records it and passes it to its children. -/
def tollResolved (g t : Nat) (set lost : Bool) (leg : Nat) (s : State) : State :=
  let x := s.group g
  let r := x.rankOf s.ownId
  let s1 := (kidsOf x.members.length r).foldl (fun s k =>
    sendMsg (tollMsg s mtTOLLDOWN (x.members.getD k 0) x.digest t [b2n set, b2n lost, leg]) s) s
  resolveStep g t set lost (s1.modGroup g (fun y => { y with bound := tollBound leg }))

/-- A member that holds its own and all its children's contributions sends their OR up; rank 0 resolves (R320). -/
def tryUp (g : Nat) (s : State) : State :=
  let x := s.group g
  let n := x.members.length
  let r := x.rankOf s.ownId
  if !x.busy || x.sentUp || !(kidsOf n r).all (fun k => x.kids.contains k) then s
  else
    let set := x.contrib || x.kidsOr
    let legs := legsTo ((kidsOf n r ++ (if r == 0 then [] else [(r - 1) / 64])).map (fun k => x.members.getD k 0)) s
    let leg := Nat.max x.leg legs.1
    if r == 0 then tollResolved g x.tagNow set false leg legs.2
    else
      let s1 := legs.2.modGroup g (fun y => { y with sentUp := true })
      sendMsg (tollMsg s1 mtTOLLUP (x.members.getD ((r - 1) / 64) 0) x.digest x.tagNow [r, b2n set, leg]) s1

/-- TOLL_QRY of a step goes to every other member of the group (R321). -/
def askMembers (g t : Nat) (s : State) : State :=
  let x := s.group g
  (x.members.filter (fun d => d != s.ownId)).foldl (fun s d => sendMsg (tollMsg s mtTOLLQRY d x.digest t []) s) s

/-- A member of a group in resolution is lost (R259). A step to which this device has yet to contribute upward cannot have resolved: it
resolves set. Otherwise a member may have recorded it: the others are asked, and no answer within the query's limit gives set (DESIGN
CHOICE, log 99). -/
def tollMember (g : Nat) (s : State) : State :=
  let x := s.group g
  if !x.sentUp then tollResolved g x.tagNow true true x.leg s
  else askMembers g x.tagNow (s.modGroup g (fun y => { y with lossAsk := true }))

/-- A member of the bound group is lost (R259). -/
def Group.memberLost (x : Group) (s : State) : Bool := x.valid && x.members.any (fun d => s.links.lost.contains d)

/-! ### Contributions (R258) -/

/-- What lets the contribution go, mirroring apart: a TOLL waits, none is in resolution, and every UPD and RDW of the group
issued before the latest TOLL has finished its precheck or completed. -/
def contribReady (s : State) (g : Nat) : Bool :=
  let x := s.group g
  let latest := maxN x.joined
  !x.joined.isEmpty && !x.busy && s.bank.ops.all (fun o => o.group != g || o.id ≥ latest || o.prechecked)

/-- NS exceeds NB, or is a NaN. -/
def Group.normFails (x : Group) : Bool :=
  let ns := fF32.decode x.ns.toNat
  x.nrmEn && (ns.isNan || numLt (fF32.decode x.nb.toNat) ns)

/-- The device sends its contribution. -/
def contribute (g : Nat) (s : State) : State :=
  let x := s.group g
  let c := x.joinedFlag || x.src || x.normFails
  let t := x.step
  let s1 := (s.modCommit g (fun w => { w with sent := t, v := true })).modGroup g (fun y => { y with
    busy := true, src := false, ns := 0, step := (t + 1) % 65536, resolving := y.joined, joined := [], joinedFlag := false, contrib := c })
  let s2 := trace 0x0A none 31 0 (g + t * 16 + b2n c * 2 ^ 20) s1
  if !x.valid then resolveStep g t c false s2
  else if x.memberLost s then resolveStep g t true true s2
  else tryUp g s2

/-- What the bank engine sends to the mirrors as it stages a chunk (R325); a chunk of a frame that host software encodes is listed for it
when its step has already committed, and otherwise at the commit (R254, R330). -/
def mirrorStage (x : RollSlot) (s : State) : State :=
  (mirrorsOf s x.group).foldl (fun s r =>
    if !(s.mir r).host then x.parts.foldl (fun s p => diffPiece r x.step p.1 (s.bytes p.1 p.2.length) p.2 s) s
    else if x.mark == 2 then mirlistAdd r x.group x.step [slotAddr x.layer x.col x.slot] s
    else s) s

/-- TOLL_CONTRIBUTION_SEND: the frames of mirrored reels are sealed first, and acknowledged (R258, R326). -/
def contribSend (g : Nat) (s : State) : State :=
  let t := (s.group g).step
  if !contribReady s g then s
  else
    let m := mirrorsOf s g
    let open_ := m.filter (fun r => (s.mir r).sealed_ != some t)
    if !open_.isEmpty then open_.foldl (fun s r => mirrorSeal r t (waitingChunks s g t) s) s
    else if m.all (fun r => (s.mir r).sacked) then contribute g s
    else s

/-- The bound group of a list digest. -/
def groupOf (s : State) (digest : W64) : Option (Nat × Group) :=
  if !s.links.claimed then none else s.bank.groups.find? (fun x => x.2.valid && x.2.digest == digest)

/-- A child's contribution; one to a step that has resolved here, by a loss, is answered with the resolution. -/
def tollUp (digest : W64) (tag rank : Nat) (contrib : Bool) (leg : Nat) (s : State) : State :=
  match groupOf s digest with
  | none => s
  | some (g, x) =>
    if x.tagNow != tag && (x.recorded tag).isSome && (kidsOf x.members.length (x.rankOf s.ownId)).contains rank then
      sendMsg (tollMsg s mtTOLLDOWN (x.members.getD rank 0) x.digest tag [b2n ((x.recorded tag).getD true), 1, x.leg]) s
    else if x.tagNow != tag || !(kidsOf x.members.length (x.rankOf s.ownId)).contains rank || x.kids.contains rank then s
    else tryUp g (s.modGroup g (fun y => { y with kids := y.kids ++ [rank], kidsOr := y.kidsOr || contrib, leg := Nat.max y.leg leg }))

/-- The resolution arrives from the parent. -/
def tollDown (digest : W64) (tag : Nat) (set lost : Bool) (leg : Nat) (s : State) : State :=
  match groupOf s digest with
  | none => s
  | some (g, x) => if !x.busy || x.tagNow != tag then s else tollResolved g tag set lost leg s

/-! ### Recovery and queries (R255, R256) -/

/-- The Grip runs: from stage S10 of a take on. -/
def State.gripRuns (s : State) : Bool := s.start.phase == .run || s.start.phase == .safe || (s.start.phase == .take && s.start.stage ≥ 10)

/-- The query of a step is settled: clear rolls its slots, set frees them, and no answer frees them, sets SRC and is
reported (R256). -/
def querySettle (g t : Nat) (ans : Option Bool) (s : State) : State :=
  let mine := s.bank.roll.filter (fun x => x.query && x.group == g && x.step == t)
  let s1 := s.modGroup g (fun x => { x with queryTag := none })
  match ans with
  | some false => mine.foldl (fun s x => commitSlot x s) (recordStep g t false s1)
  | some true => mine.foldl (fun s x => setMark x 0 s) (recordStep g t true s1)
  | none =>
    event 0 0x06 0 0 0 0 (BitVec.ofNat 64 (g + t * 16)) 0 (noteSrc g (mine.foldl (fun s x => setMark x 0 s) s1))

/-- A query begins: this device's own record decides it, a group without a binding decides it alone, and otherwise every
member that can be reached is asked once the Grip runs. -/
def queryStart (g t : Nat) (s : State) : State :=
  let x := s.group g
  match x.recorded t with
  | some b => querySettle g t (some b) s
  | none =>
    if !x.valid then querySettle g t none s
    else
      let s1 := s.modGroup g (fun y => { y with queryTag := some t })
      if !s.gripRuns then s1 else askMembers g t s1

/-- The queries that waited for the Grip go out (R256). -/
def queriesGo (s : State) : State :=
  s.bank.groups.foldl (fun s x => match x.2.queryTag with
    | some t => queryStart x.1 t s
    | none => s) s

/-- One slot by Table 8.8. -/
def recoverSlot (x : RollSlot) (s : State) : State :=
  let c := s.commitWord x.group
  if x.mark == 2 then commitSlot x s
  else if x.mark != 1 then s
  else if c.v && c.done == x.step then (if c.res then setMark x 0 s else commitSlot x s)
  else if c.v && c.sent == x.step then
    s.modRoll (mapIf (fun y => y == x) (fun y => { y with query := true }))
  else setMark x 0 s

/-- Recovery of a column, after which its groups' registers stand as R255 says; the queries begin once the last column has recovered, so that
no column clears the SRC that one of them sets (R256). -/
def recoverCol (layer col : Nat) (s : State) : State :=
  let s1 := (s.bank.roll.filter (fun x => x.inCol layer col)).foldl (fun s x => recoverSlot x s) s
  let s2 : State := { s1 with start := { s1.start with recover := s1.start.recover.filter (fun c => c != (layer, col)) } }
  let s3 := (List.range 16).foldl (fun s g =>
    let c := s.commitWord g
    s.modGroup g (fun x => { x with step := if c.v then (c.sent + 1) % 65536 else 0, busy := false, src := false })) s2
  if !s3.start.recover.isEmpty then s3
  else (List.range 16).foldl (fun s g =>
    let t := (s.commitWord g).sent
    if s.bank.roll.any (fun x => x.query && x.group == g && x.step == t) && (s.group g).queryTag.isNone then queryStart g t s else s) s3

/-! ### Bindings (R319) -/

/-- A pending binding takes effect, or is refused, when the group is not in resolution; its list is read once no flush stops walks (R38). -/
def bindApply (g : Nat) (s : State) : State :=
  let x := s.group g
  if !x.pend || x.busy || s.xl.flush then s
  else
    let raw := fwBytes s (x.mlist.toNat % 2 ^ 52) (2 * x.mcount)
    let bs := raw.getD []
    let ids := (memberIds x.mcount bs).map (fun d => d % 4096)
    let dig := BitVec.ofNat 64 (leNat (Config.shake256 bs 8))
    if raw.isNone || !ids.contains s.ownId || s.bank.groups.any (fun y => y.1 != g && y.2.valid && y.2.digest == dig) then
      event 0 0x09 0 0 0 0 (BitVec.ofNat 64 (g * 2 ^ 16)) 0 (s.modGroup g (fun y => { y with pend := false, valid := false, members := [] }))
    else s.modGroup g (fun y => { y with pend := false, valid := true, members := ids, digest := dig, kids := [], kidsOr := false })

/-! ### The commands -/

/-- TOLL of a tile (R260): its flag, its group, and the step that it joins. -/
def tollT (i : Instr) (f : SForm) (r : TRef) (s : State) : State :=
  let t := s.thread r
  let g := (t.sreg f.rb.toNat).toNat
  if g ≥ 16 then finish r f.x stFormMismatch s
  else if s.rep.fwSwitching then hold r i .fwSwitch s
  else takeToken r i f.x f.rd.toNat (fun tok s =>
    let id := s.bank.nextOp
    let flag := b2n (bitOf (t.sreg f.ra.toNat) 0)
    let o : BOp := { id, tile := r.tile, th := r.th, tok, kind := .toll, reel := t.reel, slot := t.cueSlot, group := g, count := flag }
    let s1 : State := { s with bank := { s.bank with ops := s.bank.ops ++ [o], nextOp := id + 1 } }
    s1.modGroup g (fun x => if x.busy then { x with later := x.later ++ [id] } else { x with joined := x.joined ++ [id], joinedFlag := x.joinedFlag || flag == 1 })) s

def execToll (w : Who) (f : SForm) (s : State) : Res :=
  tOnly w (.toll w f) f.x f.x.isNone [.s f.rd.toNat, .s f.ra.toNat, .s f.rb.toNat] (fun r => notStandby r f.x (tollT (.toll w f) f r)) s

def execTollContributionSend (g : Nat) (s : State) : Res := .next (if g < 16 then contribSend g s else s)
def execTollUp (digest : W64) (tag rank : Nat) (contrib : Bool) (leg : Nat) (s : State) : Res := .next (tollUp digest tag rank contrib leg s)
def execTollDown (digest : W64) (tag : Nat) (set lost : Bool) (leg : Nat) (s : State) : Res := .next (tollDown digest tag set lost leg s)

/-- An access of a tile waits for the slot, which its engine then commits first (R239, R253). -/
def slotWanted (s : State) (x : RollSlot) : Bool :=
  s.tiles.any (fun T => T.2.ops.any (fun o => o.parts.any (fun p => p.issued && !p.done && p.segs.any (fun g =>
    s.isLocal g.1 && x.spans.any (fun q => rangesMeet q.1 q.2 (paLocal g.1) g.2.2)))))

/-- A bank engine writes a ROLLED payload to its places; a chunk that an access waits for goes before the column's others. -/
def execRollCommitChunk (layer col slot : Nat) (s : State) : Res :=
  .next (match s.slotAt layer col slot with
    | none => s
    | some x =>
      if x.mark != 2 || s.start.recover.contains (layer, col) || exportHolds s x then s
      else if !slotWanted s x && s.bank.roll.any (fun y => y.inCol layer col && y.mark == 2 && slotWanted s y) then s
      else commitSlot x s)

def execRollRecovery (layer col : Nat) (s : State) : Res :=
  .next (if s.start.recover.contains (layer, col) then recoverCol layer col s else s)

/-- A query is answered from the resolutions that this device keeps (R321). -/
def execTollQry (digest : W64) (tag src : Nat) (s : State) : Res :=
  .next (let ans := (groupOf s digest).bind (fun x => x.2.recorded tag)
    let code := match ans with
      | some false => 1
      | some true => 2
      | none => 0
    if s.links.claimed then sendMsg (tollMsg s mtTOLLANS src digest tag [code]) s else s)

/-- A takeover that awaits the resolution of its sealed frame keeps the first answer (R321, R327). -/
def takeAnswer (g tag : Nat) (set : Bool) (s : State) : State :=
  let asks := fun (p : PMirror) => p.taking && p.tgrp == g && p.sealed_.any (fun x => x.1 == tag) && p.ans.isNone
  let pmir := s.pairs.pmir.map (fun p => if asks p.2 then (p.1, { p.2 with ans := some set }) else p)
  { s with pairs := { s.pairs with pmir } }

/-- An answer to a query: it decides the step of a group that lost a member, the slots that await it, and a takeover. -/
def tollAnswer (g : Nat) (x : Group) (tag : Nat) (set : Bool) (s : State) : State :=
  let s1 := takeAnswer g tag set s
  if x.busy && x.lossAsk && x.tagNow == tag then tollResolved g tag set set x.leg s1
  else if x.queryTag == some tag then querySettle g tag (some set) s1
  else s1

def execTollAns (digest : W64) (tag _src : Nat) (ans : Option Bool) (s : State) : Res :=
  .next (match groupOf s digest, ans with
    | some (g, x), some set => tollAnswer g x tag set s
    | _, _ => s)

def execTollQueryTimeout (g : Nat) (s : State) : Res :=
  .next (let x := s.group g
    if x.busy && x.lossAsk then tollResolved g x.tagNow true true x.leg s
    else match x.queryTag with
      | some t => if s.gripRuns then querySettle g t none s else s
      | none => s)

/-- A write of GRP_TOLL_BIND_g with BIND (Table 10.15). -/
def tollBind (g : Nat) (v : W64) (mcount : BitVec 13) (s : State) : State :=
  if g < 16 then s.modGroup g (fun x => { x with
      mlist := BitVec.ofNat 64 (bitsOf v 51 0), mcount := mcount.toNat, pend := x.pend || bitOf v 52 }) else s

def execTollBind (g : Nat) (v : W64) (mcount : BitVec 13) (s : State) : Res := .next (hostWrite (tollBind g v mcount) s)

def execTollBindApply (g : Nat) (s : State) : Res := .next (bindApply g s)

end Sys2Proof.Machine
end

