-- ==== Sys2Proof/Machine/Update.lean ====
section
/-! DEFINITION. The fused update (R240 to R247, R250, R254, R261): the UPD descriptor and its checks, the precheck, the stage
pass with its arithmetic, DERIVE and AUDIT. -/
namespace Sys2Proof.Machine

/-! ### The descriptor (Table 8.3) -/

abbrev UpdDesc := List W64

def UpdDesc.w (d : UpdDesc) (n : Nat) : W64 := d.getD n 0
def UpdDesc.op (d : UpdDesc) : Nat := bitsOf (d.w 0) 1 0
def UpdDesc.opt (d : UpdDesc) : Nat := bitsOf (d.w 0) 3 2
def UpdDesc.wf (d : UpdDesc) : Bool := bitOf (d.w 0) 4
/-- Rounding control of the working copy without its SAT bit (R242). -/
def UpdDesc.rnd (d : UpdDesc) : Nat := bitsOf (d.w 0) 6 5
def UpdDesc.group (d : UpdDesc) : Nat := bitsOf (d.w 0) 11 8
def UpdDesc.rowLen (d : UpdDesc) : Nat := bitsOf (d.w 0) 35 16
def UpdDesc.nrows (d : UpdDesc) : Nat := bitsOf (d.w 0) 55 36
/-- Base and stride of an array: 0 master, 1 gradient, 2 first moment, 3 second moment, 4 working copy. -/
def UpdDesc.base (d : UpdDesc) (k : Nat) : Nat := bitsOf (d.w (1 + k)) 51 0
def UpdDesc.stride (d : UpdDesc) (k : Nat) : Nat := bitsOf (d.w (6 + k)) 35 0
def UpdDesc.lo (d : UpdDesc) (n : Nat) : Nat := bitsOf (d.w n) 31 0
def UpdDesc.hi (d : UpdDesc) (n : Nat) : Nat := bitsOf (d.w n) 63 32
def UpdDesc.pbase (d : UpdDesc) : Nat := bitsOf (d.w 16) 51 0
/-- AdamW and Adam hold a second moment. -/
def UpdDesc.second (d : UpdDesc) : Bool := d.opt < 2

/-- The arrays that the operation uses (R242). -/
def UpdDesc.used (d : UpdDesc) : List Nat := if d.op != 0 then [0, 4] else if d.second then [0, 1, 2, 3, 4] else [0, 1, 2, 4]

def f32 (p : Nat) : Num := fF32.decode p

/-- 0 to 1 inclusive. -/
def inUnit (x : Num) : Bool := !numLt x (.fin false 0 0) && !numLt (.fin false 1 0) x

/-- The field checks of R242. -/
def UpdDesc.fieldsOk (d : UpdDesc) (aMode : Bool) : Bool :=
  d.op != 3 && d.rowLen != 0 && d.rowLen % 1024 == 0 && d.nrows != 0 &&
  d.used.all (fun k => d.base k % 32 == 0 && d.stride k % 32 == 0) && (!aMode || d.pbase % 32 == 0) && d.rnd != 1 &&
  (d.op != 0 ||
    ([d.lo 11, d.hi 11, d.lo 12, d.hi 12, d.hi 13, d.lo 14, d.hi 14].all (fun p => (f32 p).isFin) &&
     inUnit (f32 (d.lo 12)) && inUnit (f32 (d.hi 12)) &&
     (!d.second || ((f32 (d.lo 13)).isFin && numLt (.fin false 0 0) (f32 (d.lo 13))))))

/-! ### Pieces (Table 8.2) -/

/-- A piece of a chunk: its address, length and the permission that it needs. -/
structure UPiece where
  va : Nat
  n : Nat
  need : Need
  deriving DecidableEq, Repr

/-- The seven parts that a slot header has a place for, of chunk c in row r; the second moment's are none when it is not held. -/
def UpdDesc.parts (d : UpdDesc) (r c : Nat) : List (Option UPiece) :=
  let at_ := fun k off => d.base k + r * d.stride k + off
  let need := fun (k : Nat) => if d.op == 0 || (d.op == 1 && k == 4) then Need.u else Need.r
  let wn := if d.wf then 512 else 1024
  let mom := fun (k : Nat) => if d.op == 0 && (k == 2 || d.second) then
      [some (UPiece.mk (at_ k (1024 * c)) 1024 (need k)), some (UPiece.mk (at_ k (d.rowLen + 32 * c)) 32 (need k))]
    else [none, none]
  [some (UPiece.mk (at_ 0 (4096 * c)) 4096 (need 0))] ++ mom 2 ++ mom 3 ++
    [some (UPiece.mk (at_ 4 (wn * c)) wn (need 4)), some (UPiece.mk (at_ 4 ((if d.wf then d.rowLen / 2 else d.rowLen) + 32 * c)) 32 (need 4))]

/-- The gradient of a chunk. -/
def UpdDesc.grad (d : UpdDesc) (r c : Nat) : UPiece := ⟨d.base 1 + r * d.stride 1 + 2048 * c, 2048, .r⟩

/-- The parts of a chunk's proposal: master, first-moment elements and scales, second-moment elements and scales (R261). -/
def UpdDesc.proposal (d : UpdDesc) (r c : Nat) : List UPiece :=
  let a := d.pbase + r * d.stride 0 * 2 + 8192 * c
  [⟨a, 4096, .r⟩, ⟨a + 4096, 1024, .r⟩, ⟨a + 5120, 32, .r⟩] ++ (if d.second then [⟨a + 5152, 1024, .r⟩, ⟨a + 6176, 32, .r⟩] else [])

/-- Every piece that the operation uses of a chunk. -/
def UpdDesc.pieces (d : UpdDesc) (aMode : Bool) (r c : Nat) : List UPiece :=
  (d.parts r c).filterMap id ++ (if d.op == 0 then [d.grad r c] else []) ++ (if aMode then d.proposal r c else [])

/-- Every chunk as (row, chunk). -/
def UpdDesc.chunkList (d : UpdDesc) : List (Nat × Nat) :=
  (List.range d.nrows).flatMap (fun r => (List.range (d.rowLen / 1024)).map (fun c => (r, c)))

/-- The column of scratch near memory that holds n contiguous bytes of a virtual address (R242). -/
def pieceCol (s : State) (pages : PageMap) (va n : Nat) : Option (Nat × Nat) :=
  let a := (paOf pages va).1
  let b := (paOf pages (va + n - 1)).1
  let o := paLocal a
  if s.isLocal a && b == a + n - 1 && s.scratch o && s.scratch (o + n - 1) && o / 0xC000000 == (o + n - 1) / 0xC000000 then
    some (nearLayer o, nearCol o)
  else none

/-- Every chunk's pieces lie contiguous in one scratch column (step 6 of R197). -/
def UpdDesc.placed (d : UpdDesc) (s : State) (aMode : Bool) (pages : PageMap) : Bool :=
  d.chunkList.all (fun x =>
    match (d.pieces aMode x.1 x.2).map (fun p => pieceCol s pages p.va p.n) with
    | [] => false
    | c :: cs => c.isSome && cs.all (fun y => y == c))

/-! ### Issue -/

/-- The pages that the check of a UPD found, that of the descriptor's last byte among them. -/
def updPages (s : State) (r : TRef) (va : Nat) (ps : List (Piece × Nat × Nat)) : PageMap :=
  pagesOf (ps ++ (match xlate s (some r.tile) .rw (va + 135) with
    | .ok pa ca => [(⟨va + 135, 0, 1⟩, pa, ca)]
    | _ => []))

/-- What the check of a UPD covers: its descriptor, and every piece of every chunk with the permission that it needs (R242). -/
def updChecks (d : UpdDesc) (am : Bool) (va : Nat) : List (Need × Piece) :=
  (Need.rw, Piece.mk va 0 136) :: (d.chunkList.flatMap (fun x => d.pieces am x.1 x.2)).flatMap (fun p =>
    (pagePieces [(p.va, p.n)]).map (fun q => (p.need, q)))

/-- UPD of a tile (R241, R242): the mode takes effect at its dispatch, every check is made, and the operation begins. -/
def updT (i : Instr) (f : SForm) (r : TRef) (s : State) : State :=
  let va := ((s.thread r).sreg f.ra.toNat).toNat
  if va % 8 != 0 then finish r f.x stMisaligned s
  else if s.rep.fwSwitching then hold r i .fwSwitch s
  else
    let s := splitPoint 2 s
    withDesc r i f.x .r va 136 (fun bs s =>
      let d : UpdDesc := wordsOf 17 bs
      let am := s.aMode 2 && d.op == 0
      if !d.fieldsOk am then finish r f.x stFormMismatch s
      else
        withAccessMix r i f.x r.tile (updChecks d am va) (fun ps s =>
          let pages := updPages s r va ps
          if !d.placed s am pages then finish r f.x stFormMismatch s
          else takeToken r i f.x f.rd.toNat (fun tok s =>
            let t := s.thread r
            let id := s.bank.nextOp
            let o : BOp :=
              { id, tile := r.tile, th := r.th, tok, kind := .upd, reel := t.reel, slot := t.cueSlot, addr := va
                words := d, pages, group := d.group, tag := (s.group d.group).step, aMode := am
                idx := s.bank.updPc.toNat, alg := s.bank.updThreads }
            { s with bank := { s.bank with ops := s.bank.ops ++ [o], nextOp := id + 1 } }) s) s) s

def execUpd (w : Who) (f : SForm) (s : State) : Res :=
  tOnly w (.upd w f) f.x f.x.isNone [.s f.rd.toNat, .s f.ra.toNat] (fun r => notStandby r f.x (updT (.upd w f) f r)) s

/-! ### The engine's turn (R239, R388, R533) -/

/-- Row and chunk of a chunk index (R241). -/
def BOp.rc (o : BOp) (k : Nat) : Nat × Nat := (k / (o.rowLen / 1024), k % (o.rowLen / 1024))
/-- The column of a UPD's chunk. -/
def BOp.chunkCol (o : BOp) (k : Nat) : Nat × Nat :=
  let x := o.rc k
  let a := paLocal (paOf o.pages ((UpdDesc.base o.words 0) + x.1 * UpdDesc.stride o.words 0 + 4096 * x.2)).1
  (nearLayer a, nearCol a)
/-- Local address of a place of the operation. -/
def BOp.at_ (o : BOp) (va : Nat) : Nat := paLocal (paOf o.pages va).1

/-- The operation is past its precheck and, in A mode, its helper (R244, R262). -/
def BOp.mayStage (o : BOp) : Bool := o.pre.length ≥ o.chunks && (!o.aMode || o.helperOk)

/-- A chunk comes next in its column: of one UPD an engine takes chunks in ascending order (R239). -/
def BOp.nextIn (o : BOp) (k : Nat) (past : List Nat) : Bool :=
  k < o.chunks && !past.contains k && (List.range k).all (fun j => past.contains j || o.chunkCol j != o.chunkCol k)

/-- Pieces of a chunk with their local addresses, with its proposal where `prop` says so. -/
def BOp.chunkPieces (o : BOp) (prop : Bool) (k : Nat) : List (Nat × Nat) :=
  let x := o.rc k
  (UpdDesc.pieces o.words prop x.1 x.2).map (fun p => (o.at_ p.va, p.n))

/-- No piece of a chunk waits for a roll slot (R253). -/
def BOp.free (o : BOp) (s : State) (k : Nat) : Bool := !(o.chunkPieces o.aMode k).any (fun p => s.rollHeld p.1 p.2)

/-- A piece of the chunk cannot be read; the proposal is none of the pieces of Table 8.2, and the precheck reads none. -/
def BOp.chunkBad (o : BOp) (s : State) (prop : Bool) (k : Nat) : Bool := (o.chunkPieces prop k).any (fun p => s.poisoned p.1 p.2)

/-- The free slots of a column, in order. -/
def freeSlots (s : State) (lc : Nat × Nat) : List Nat := ((List.range 384).drop 1).filter (fun j => s.slotFree lc.1 lc.2 j)

/-- A slot of the column is staged or rolled for the same master place (R254). -/
def masterWaits (s : State) (o : BOp) (k : Nat) : Bool :=
  let lc := o.chunkCol k
  let x := o.rc k
  let m := o.at_ (UpdDesc.base o.words 0 + x.1 * UpdDesc.stride o.words 0 + 4096 * x.2)
  s.bank.roll.any (fun y => y.inCol lc.1 lc.2 && (y.mark == 1 || y.mark == 2) && y.places.head? == some m)

/-- A chunk of a UPD can have its precheck, its stage pass, or its DERIVE or AUDIT now. -/
def BOp.chunkGoes (o : BOp) (s : State) (k : Nat) : Bool :=
  if !o.free s k then false
  else if o.updOp != 0 then o.nextIn k o.done
  else if o.pre.length < o.chunks then o.nextIn k o.pre
  else o.mayStage && o.nextIn k o.done && o.resolved != some true && !masterWaits s o k && mirrorReady s o.group o.tag && !(freeSlots s (o.chunkCol k)).isEmpty

/-- The operation has work of level 5 that the column's engine can do now: a UPD a chunk, an RDW the sector whose source has arrived, a
SCRUB a page. -/
def BOp.worksIn (o : BOp) (s : State) (layer col : Nat) : Bool :=
  match o.kind with
  | .upd => (List.range o.chunks).any (fun k => o.chunkCol k == (layer, col) && o.chunkGoes s k)
  | .rdw =>
    let a := o.at_ (bitsOf (o.words.getD 1 0) 51 0 + 4 * o.idx)
    o.phase == 2 && winOf a == .near && (nearLayer a, nearCol a) == (layer, col) && !s.rollHeld a 4
  | .scrub => (List.range o.count).any (fun k =>
      let pa := (paOf o.pages (o.addr + 4096 * k)).1
      let a := paLocal pa
      !o.done.contains k && !o.pre.contains k && s.isLocal pa && winOf a == .near && (nearLayer a, nearCol a) == (layer, col) &&
        !(settleRange a 4096 s).rollHeld a 4096)
  | _ => false

/-- Deadline of the operation at a column's engine; none when it is untimed there (R387, R533). -/
def BOp.urgency (o : BOp) (s : State) (layer col : Nat) : Option Nat :=
  match s.cueIn o.reel o.slot with
  | none => none
  | some c => if mget 0 c.servBke (64 * layer + col) ≥ c.bke then none else some c.deadline

/-- An engine of the column takes work of level 5 of this operation now: nothing of a higher level is there, and no more
urgent operation works in the column. -/
def engineTurn (s : State) (o : BOp) (layer col : Nat) : Bool :=
  !s.colCommits layer col && !s.start.recover.contains (layer, col) && (s.dom (64 + layer)).st == 2 && !s.sec.retention &&
  !s.bank.ops.any (fun p => p.id != o.id && p.worksIn s layer col && beforeSet (p.urgency s layer col, 0) (o.urgency s layer col, 0))

/-- Beats of the column's engine counted to the operation's cue (R533). -/
def serveBke (o : BOp) (layer col beats : Nat) (s : State) : State :=
  serveCol o.reel o.slot layer col beats s

/-! ### Completion -/

/-- A UPD with no chunk left completes: UNCORRECTABLE outranks every other status (R254), of an AUDIT DRIFT too (DESIGN CHOICE, log 98: R247
does not say which of the two wins). -/
def updEnd (id : Nat) (s : State) : State :=
  match s.bop id with
  | none => s
  | some o =>
    if o.done.length < o.chunks then s
    else
      let st := if o.status != stOk then o.status else if o.updOp == 2 && o.count != 0 then stDrift else stOk
      bopFinish id st s

/-- The outcome of a chunk. -/
def chunkDone (id k : Nat) (st : Status) (staged : Bool) (fl : Flags4) (s : State) : State :=
  updEnd id (s.modBop id (fun o => { o with
    done := o.done ++ [k]
    flags := o.flags ||| fl
    count := o.count + b2n staged
    status := if o.status == stUncorrectable || st == stUncorrectable then stUncorrectable else if st != stOk then st else o.status }))

/-! ### The precheck (R244) -/

/-- An F32 result of arithmetic with the flags that led to it. -/
abbrev FVal := Nat × Flags4

def fop2 (op : Num → Num → Num × Bool) (a b : FVal) : FVal :=
  let r := roundResult fF32 (op (f32 a.1) (f32 b.1))
  (r.1, a.2 ||| b.2 ||| r.2)
def fMul (a b : FVal) : FVal := fop2 numMul a b
def fAdd (a b : FVal) : FVal := fop2 numAdd a b
def fSub (a b : FVal) : FVal := fop2 (fun x y => numAdd x (numNeg y)) a b
def fFma (a b c : FVal) : FVal :=
  let r := roundResult fF32 (numFma (f32 a.1) (f32 b.1) (f32 c.1))
  (r.1, a.2 ||| b.2 ||| c.2 ||| r.2)
def fDiv (a b : FVal) : FVal :=
  let r := divResult fF32 (f32 a.1) (f32 b.1)
  (r.1, a.2 ||| b.2 ||| r.2)
def fSqrt (a : FVal) : FVal :=
  let r := sqrtResult fF32 (f32 a.1)
  (r.1, a.2 ||| r.2)

/-- The 16-bit and 32-bit elements of bytes. -/
def elems (w : Nat) : Nat → List Byte → List Nat
  | 0, _ => []
  | n + 1, bs => leNat (bs.take w) :: elems w n (bs.drop w)

/-- g = G x INVLS of an F16 gradient (R243, R244). -/
def gradOf (invls g16 : Nat) : FVal :=
  let c := fF32.conv .rne false 0 (fF16.decode g16)
  fMul (c.pat, c.flags) (invls, 0)

/-- The flags that SRC takes from arithmetic: NV, OF and NF. -/
def srcFlags (f : Flags4) : Bool := (f &&& (fNV ||| fOF ||| fNF)) != 0

/-- A g that makes SRC: NaN, infinite or overflowed. -/
def gradBad (g : FVal) : Bool := !(f32 g.1).isFin || (g.2 &&& fOF) != 0

/-- The running sum of squares with its flags, in ascending element order. -/
def normSum : FVal → List FVal → FVal
  | ns, [] => ns
  | ns, g :: gs => normSum (fAdd ns (fMul g g)) gs

/-- A precheck of one chunk; elements that could not be read enter no sum (log 45). Its NV, OF and NF set SRC, since the contribution waits for
it (R244, R258). After the last one an A-mode update asks for its helper (R262). -/
def precheck (o : BOp) (k : Nat) (s : State) : State :=
  let d : UpdDesc := o.words
  let x := o.rc k
  let lc := o.chunkCol k
  let ga := o.at_ (d.grad x.1 x.2).va
  let ok := (List.range 1024).filter (fun j => !s.poisoned (ga + 2 * j) 2)
  let gs := ok.map (fun j => gradOf (d.hi 11) (leNat (s.bytes (ga + 2 * j) 2)))
  let ns := normSum ((s.group o.group).ns.toNat, 0) gs
  let unc := o.chunkBad s false k
  let fl := ns.2 ||| orFlags (gs.map (fun g => g.2))
  let s1 := s.modGroup o.group (fun g => { g with ns := BitVec.ofNat 32 ns.1, src := g.src || unc || srcFlags fl || gs.any gradBad })
  let s2 := serveBke o lc.1 lc.2 5 (s1.modBop o.id (fun p => { p with pre := p.pre ++ [k], flags := p.flags ||| fl }))
  let s3 := if unc then chunkDone o.id k stUncorrectable false 0 (cueHit ⟨o.tile, o.th⟩ stUncorrectable s2) else s2
  match s3.bop o.id with
  | none => s3
  | some p =>
    if !p.aMode || p.pre.length < p.chunks then s3
    else
      if p.alg == 0 || p.alg > 24 then bopFinish p.id stLaunchInvalid (noteSrc p.group s3)
      else
        let h : Helper := { op := p.id, pc := BitVec.ofNat 64 p.idx, threads := p.alg }
        s3.modReel p.reel (fun R => match R.helper with
          | none => { R with helper := some h }
          | some _ => { R with helperQ := R.helperQ ++ [h] })

def execUpdPrecheckChunk (op chunk : Nat) (s : State) : Res :=
  .next (match s.bop op with
    | none => s
    | some o =>
      let lc := o.chunkCol chunk
      if o.kind != .upd || o.updOp != 0 || !o.nextIn chunk o.pre || !engineTurn s o lc.1 lc.2 || !o.free s chunk then s
      else precheck o chunk s)

/-! ### Update arithmetic (R243) -/

/-- sign(c) of Lion. -/
def lionSign (c : FVal) : FVal :=
  match f32 c.1 with
  | .nan => (fF32.nanPat, c.2 ||| fNF)
  | .inf neg => (if neg then 0xBF800000 else 0x3F800000, c.2)
  | .fin neg m _ => (if m == 0 then 0 else if neg then 0xBF800000 else 0x3F800000, c.2)

/-- The new master: a finite overflow writes the largest finite value of its sign and sets OF. -/
def newMaster (lr u w : FVal) : FVal :=
  let v := numFma (numNeg (f32 lr.1)) (f32 u.1) (f32 w.1)
  let c := fF32.conv .rne v.1.isFin 0 v.1
  (c.pat, u.2 ||| w.2 ||| c.flags ||| (if v.2 then fNV else 0))

/-- One parameter's update: the new master, first moment and second moment in F32. -/
def updateOne (d : UpdDesc) (w g m v : FVal) : FVal × FVal × FVal :=
  let lr : FVal := (d.lo 11, 0)
  let b1 : FVal := (d.lo 12, 0)
  let b2 : FVal := (d.hi 12, 0)
  let wd : FVal := (d.hi 13, 0)
  let one : FVal := (0x3F800000, 0)
  let a1 := fSub one b1
  let a2 := fSub one b2
  match d.opt with
  | 2 =>
    let c := fFma b1 m (fMul a1 g)
    (newMaster lr (fFma wd w (lionSign c)) w, fFma b2 m (fMul a2 g), (0, 0))
  | 3 =>
    let g := fFma wd w g
    let m' := fFma b1 m g
    (newMaster lr m' w, m', (0, 0))
  | k =>
    let g := if k == 1 then fFma wd w g else g
    let m' := fFma b1 m (fMul a1 g)
    let v' := fFma b2 v (fMul a2 (fMul g g))
    let q := fDiv (fMul m' (d.lo 14, 0)) (fAdd (fSqrt (fMul v' (d.hi 14, 0))) (d.lo 13, 0))
    (newMaster lr (if k == 0 then fFma wd w q else q) w, m', v')

/-- Values in groups of 32. -/
def groups32 {α : Type} : Nat → List α → List (List α)
  | 0, _ => []
  | n + 1, l => l.take 32 :: groups32 n (l.drop 32)

/-- Element patterns packed into bytes (R55). -/
def packElems (w : Nat) (ps : List Nat) : List Byte := leBytes (w * ps.length / 8) (ps.foldr (fun p acc => p % 2 ^ w + acc * 2 ^ w) 0)

/-- A chunk's values written block-scaled with groups of 32: elements, scales, flags and the state after the draws. -/
def packBlock (el : Elem) (rnd site reel : Nat) (vals : List Num) (s : State) : List Byte × List Byte × Flags4 × State :=
  let gs := (groups32 32 vals).map (fun g => groupConv el g (fun _ => rnd))
  let done := convEach site reel (gs.flatMap (fun g => g.2.2)) s
  (packElems el.width (done.1.map Conv.pat), gs.map (fun g => BitVec.ofNat 8 g.1),
    orFlags (gs.map (fun g => g.2.1)) ||| orFlags (done.1.map Conv.flags), done.2)

/-- Element format of the working copy. -/
def workElem (wf : Bool) : Elem := .fl (if wf then fE2M1 else fE4M3)

/-- The working copy of a chunk from its masters (R245). -/
def workCopy (d : UpdDesc) (lc : Nat × Nat) (reel : Nat) (masters : List Nat) (s : State) : List Byte × List Byte × Flags4 × State :=
  packBlock (workElem d.wf) d.rnd (siteBank lc.1 lc.2) reel (masters.map f32) s

/-- A block-scaled array of a chunk decoded into F32. -/
def blockVals (el : Elem) (es scales : List Byte) : List FVal :=
  es.zipIdx.map (fun e => decodeScaled el ((scales.getD (e.2 / 32) 0).toNat) e.1.toNat)

/-- What a chunk's update pass makes: the payload without the working copy, the masters, and the flags. -/
structure Staging where
  head : List Byte
  masters : List Nat
  flags : Flags4
  deriving DecidableEq, Repr

/-- The H-mode update of a chunk from the state in place. -/
def updateChunk (o : BOp) (k : Nat) (s : State) : Staging :=
  let d : UpdDesc := o.words
  let x := o.rc k
  let rd := fun (p : Option UPiece) => match p with
    | some p => s.bytes (o.at_ p.va) p.n
    | none => []
  let ps := d.parts x.1 x.2
  let part := fun j => rd (ps.getD j none)
  let ws := elems 4 1024 (part 0)
  let gs := (elems 2 1024 (rd (some (d.grad x.1 x.2)))).map (gradOf (d.hi 11))
  let ms := blockVals (.fl fE4M3) (part 1) (part 2)
  let vs := if d.second then blockVals .l8 (part 3) (part 4) else []
  let out := (List.range 1024).map (fun j => updateOne d (ws.getD j 0, 0) (gs.getD j (0, 0)) (ms.getD j (0, 0)) (vs.getD j (0, 0)))
  let m := packBlock (.fl fE4M3) 0 0 0 (out.map (fun y => f32 y.2.1.1)) s
  let v := if d.second then packBlock .l8 0 0 0 (out.map (fun y => f32 y.2.2.1)) s else ([], [], 0, s)
  { head := out.flatMap (fun y => leBytes 4 y.1.1) ++ m.1 ++ m.2.1 ++ v.1 ++ v.2.1
    masters := out.map (fun y => y.1.1)
    flags := orFlags (out.map (fun y => y.1.2 ||| y.2.1.2 ||| y.2.2.2)) ||| m.2.2.1 ||| v.2.2.1 }

/-- The A-mode state of a chunk, from its proposal; a NaN, an infinity or a scale of 0xFF sets NF (R262). -/
def proposedChunk (o : BOp) (k : Nat) (s : State) : Staging :=
  let d : UpdDesc := o.words
  let x := o.rc k
  let l := (d.proposal x.1 x.2).map (fun p => s.bytes (o.at_ p.va) p.n)
  let ws := elems 4 1024 (l.getD 0 [])
  let bad := ws.any (fun p => !(f32 p).isFin) || (l.getD 1 []).any (fun b => (fE4M3.decode b.toNat).isNan) ||
    (l.getD 2 []).any (fun b => b == 0xFF) || (l.getD 4 []).any (fun b => b == 0xFF)
  { head := l.flatten, masters := ws, flags := if bad then fNF else 0 }

/-- The chunk's slot, staged: STAGED, or ROLLED at once when its step is already committed (R250, R254). -/
def stageChunk (o : BOp) (k slot : Nat) (s : State) : State :=
  let d : UpdDesc := o.words
  let x := o.rc k
  let lc := o.chunkCol k
  let u := if o.aMode then proposedChunk o k s else updateChunk o k s
  let w := workCopy d lc o.reel u.masters s
  let fl := u.flags ||| w.2.2.1
  let places := (d.parts x.1 x.2).map (fun p => match p with
    | some p => o.at_ p.va
    | none => 0)
  let y : RollSlot :=
    { layer := lc.1, col := lc.2, slot, mark := if o.resolved == some false then 2 else 1, group := o.group
      step := o.tag, wf := d.wf, second := d.second, places, payload := u.head ++ w.1 ++ w.2.1
      reel := o.reel, cueSlot := o.slot, cue := (s.cueIn o.reel o.slot).map Cue.num }
  let s1 := mirrorStage y (w.2.2.2.modRoll (fun l => l.filter (fun z => !(z.inCol lc.1 lc.2 && z.slot == slot)) ++ [y]))
  let s2 := if srcFlags fl && (s.group o.group).step == o.tag then noteSrc o.group s1 else s1
  mirrorCommit o.group o.tag (chunkDone o.id k stOk true fl (serveBke o lc.1 lc.2 32 s2))

/-- A chunk reaches its stage pass: abandoned when its step has resolved set or it cannot be read; waiting while its master is
in the roll, its mirrors have not acknowledged the last step, or its column has no free slot; staged otherwise in the slot
that `pick` chooses among the free ones. A chunk that cannot be read sets SRC while its step gathers (R244). -/
def updStage (o : BOp) (k pick : Nat) (s : State) : State :=
  let lc := o.chunkCol k
  let fs := freeSlots s lc
  if o.resolved == some true then mirrorCommit o.group o.tag (chunkDone o.id k stTollSet false 0 s)
  else if masterWaits s o k || !mirrorReady s o.group o.tag || fs.isEmpty || !o.free s k then s
  else if o.chunkBad s o.aMode k then
    let s1 := if (s.group o.group).step == o.tag then noteSrc o.group s else s
    mirrorCommit o.group o.tag (chunkDone o.id k stUncorrectable false 0 (cueHit ⟨o.tile, o.th⟩ stUncorrectable (serveBke o lc.1 lc.2 32 s1)))
  else stageChunk o k (fs.getD (pick % fs.length) 1) s

def execUpdStageChunk (op chunk slotPick : Nat) (s : State) : Res :=
  .next (match s.bop op with
    | none => s
    | some o =>
      let lc := o.chunkCol chunk
      if o.kind != .upd || o.updOp != 0 || !o.mayStage || !o.nextIn chunk o.done || !engineTurn s o lc.1 lc.2 then s
      else updStage o chunk slotPick s)

/-! ### DERIVE and AUDIT (R246, R247) -/

/-- DERIVE of a chunk: the working copy in place, or nothing when a master word is poisoned. -/
def derive (o : BOp) (k : Nat) (s : State) : State :=
  let d : UpdDesc := o.words
  let x := o.rc k
  let lc := o.chunkCol k
  let ps := (d.parts x.1 x.2).map (fun p => match p with
    | some p => (o.at_ p.va, p.n)
    | none => (0, 0))
  let m := ps.getD 0 (0, 0)
  let s0 := serveBke o lc.1 lc.2 12 s
  if s.poisoned m.1 4096 then chunkDone o.id k stUncorrectable false 0 (cueHit ⟨o.tile, o.th⟩ stUncorrectable s0)
  else
    let w := workCopy d lc o.reel (elems 4 1024 (s.bytes m.1 4096)) s0
    chunkDone o.id k stOk true w.2.2.1 (homeWrite (ps.getD 6 (0, 0)).1 0 w.2.1 (homeWrite (ps.getD 5 (0, 0)).1 0 w.1 w.2.2.2))

def execDeriveChunk (op chunk : Nat) (s : State) : Res :=
  .next (match s.bop op with
    | none => s
    | some o =>
      let lc := o.chunkCol chunk
      if o.kind != .upd || o.updOp != 1 || !o.nextIn chunk o.done || !engineTurn s o lc.1 lc.2 || !o.free s chunk then s
      else derive o chunk s)

/-- A pattern stands for a value that is exact, or is one of the two neighbours that bracket it (R247). -/
def brackets (f : FFmt) (p : Nat) (x : Num) : Bool :=
  let c := (f.conv .rtz false 0 x).pat
  numEq (f.decode p) x || (!numEq (f.decode c) x && (p == c || (p == c + 1 && c % 2 ^ (f.w - 1) < f.maxPat)))

/-- A group agrees with its masters: its scale is the one that R60 and R61 choose, and each element is allowed. -/
def groupAgrees (wf : Bool) (masters : List Num) (scale : Nat) (els : List Nat) : Bool :=
  let f := if wf then fE2M1 else fE4M3
  let g := groupConv (.fl f) masters (fun _ => 0)
  scale == g.1 &&
  (masters.zipIdx.all (fun m =>
    let p := els.getD m.2 0
    if groupBad (.fl f) masters || !m.1.isFin then p == ((g.2.2.getD m.2 (fun _ => ⟨0, 0, false⟩)) 0).pat
    else brackets f p (numScale m.1 (127 - (g.1 : Int)))))

/-- Elements unpacked from bytes. -/
def unpackElems (w n : Nat) (bs : List Byte) : List Nat :=
  let v := leNat bs
  (List.range n).map (fun j => (v >>> (w * j)) % 2 ^ w)

/-- AUDIT of a chunk; one that cannot be read is not judged, and gives UNCORRECTABLE (DEDUCED, log 46). -/
def audit (o : BOp) (k : Nat) (s : State) : State :=
  let d : UpdDesc := o.words
  let x := o.rc k
  let lc := o.chunkCol k
  let bs := (d.parts x.1 x.2).map (fun p => match p with
    | some p => s.bytes (o.at_ p.va) p.n
    | none => [])
  let s0 := serveBke o lc.1 lc.2 11 s
  if o.chunkBad s false k then chunkDone o.id k stUncorrectable false 0 (cueHit ⟨o.tile, o.th⟩ stUncorrectable s0)
  else
    let ms := groups32 32 ((elems 4 1024 (bs.getD 0 [])).map f32)
    let es := groups32 32 (unpackElems (if d.wf then 4 else 8) 1024 (bs.getD 5 []))
    let agree := (List.range 32).all (fun j => groupAgrees d.wf (ms.getD j []) (((bs.getD 6 []).getD j 0).toNat) (es.getD j []))
    let s1 := if agree then s0 else s0.modBop o.id (fun p => { p with first := some (match p.first with
      | some a => Nat.min a k
      | none => k) })
    chunkDone o.id k stOk (!agree) 0 s1

def execAuditChunk (op chunk : Nat) (s : State) : Res :=
  .next (match s.bop op with
    | none => s
    | some o =>
      let lc := o.chunkCol chunk
      if o.kind != .upd || o.updOp != 2 || !o.nextIn chunk o.done || !engineTurn s o lc.1 lc.2 || !o.free s chunk then s
      else audit o chunk s)

end Sys2Proof.Machine
end

