-- ==== Sys2Proof/Machine/Reduce.lean ====
section
/-! DEFINITION. Reduce-on-write (R263 to R265) and SCRUB (R165, R166, R266). -/
namespace Sys2Proof.Machine

/-! ### RDW -/

/-- Source format of an RDW or a reduction; none when it is not listed (Table 8.11). -/
def srcFmt : Nat → Option FFmt
  | 0 => some fF32
  | 1 => some fF16
  | 2 => some fBF16
  | _ => none

def BOp.rdwFmt (o : BOp) : Nat := bitsOf (o.words.getD 0 0) 3 0
def BOp.rdwN (o : BOp) : Nat := bitsOf (o.words.getD 0 0) 47 16
def BOp.rdwDst (o : BOp) : Nat := bitsOf (o.words.getD 1 0) 51 0
def BOp.rdwSrc (o : BOp) : Nat := bitsOf (o.words.getD 2 0) 51 0
def srcBytes (fmt : Nat) : Nat := if fmt == 0 then 4 else 2

/-- A destination that additions may go to: scratch near memory or local HBM (R263). -/
def addable (s : State) (pa : Nat) : Bool := s.isLocal pa && (winOf (paLocal pa) == .near || winOf (paLocal pa) == .hbm)

/-- RDW of a tile (R263). -/
def rdwT (i : Instr) (f : SForm) (r : TRef) (s : State) : State :=
  let va := ((s.thread r).sreg f.ra.toNat).toNat
  if va % 8 != 0 then finish r f.x stMisaligned s
  else if s.rep.fwSwitching then hold r i .fwSwitch s
  else
    withDesc r i f.x .r va 32 (fun bs s =>
      let w := wordsOf 4 bs
      let fmt := bitsOf (w.getD 0 0) 3 0
      let n := bitsOf (w.getD 0 0) 47 16
      let db := bitsOf (w.getD 1 0) 51 0
      let sb := bitsOf (w.getD 2 0) 51 0
      let e := srcBytes fmt
      if (srcFmt fmt).isNone || n == 0 then finish r f.x stFormMismatch s
      else if db % 4 != 0 || sb % e != 0 then finish r f.x stMisaligned s
      else
        let dp := pagePieces [(db, 4 * n)]
        withAccessMix r i f.x r.tile ((pagePieces [(va, 32)]).map (fun q => (Need.rw, q)) ++ dp.map (fun q => (Need.u, q)) ++
            (pagePieces [(sb, e * n)]).map (fun q => (Need.r, q))) (fun ps s =>
          let pages := pagesOf ps
          if !dp.all (fun q => addable s (paOf pages q.va).1) then finish r f.x stFormMismatch s
          else takeToken r i f.x f.rd.toNat (fun tok s =>
            let t := s.thread r
            let id := s.bank.nextOp
            let g := bitsOf (w.getD 0 0) 11 8
            let o : BOp := { id, tile := r.tile, th := r.th, tok, kind := .rdw, reel := t.reel, slot := t.cueSlot, addr := va, words := w, pages, group := g, tag := (s.group g).step }
            { s with bank := { s.bank with ops := s.bank.ops ++ [o], nextOp := id + 1 } }) s) s) s

def execRdw (w : Who) (f : SForm) (s : State) : Res :=
  tOnly w (.rdw w f) f.x f.x.isNone [.s f.rd.toNat, .s f.ra.toNat] (fun r => notStandby r f.x (rdwT (.rdw w f) f r)) s

/-- One addition to an F32 element (R264, R265): the new state, the flags, and whether an operand could not be read. -/
def addElem (o : Nat) (src : Option Num) (s : State) : State × Flags4 × Bool :=
  match src with
  | none => (notifyWrites o 4 (s.mark o 4), 0, true)
  | some x =>
    if s.poisoned o 4 then (s, 0, true)
    else
      let c := fF32.conv .rne false 0 x
      let r := fAdd (leNat (s.bytes o 4), 0) (c.pat, c.flags)
      (homeWrite o 0 (leBytes 4 r.1) s, r.2, false)

/-- Additions to consecutive elements. -/
def addElems : Nat → List (Option Num) → State → State × Flags4 × Bool
  | _, [], s => (s, 0, false)
  | o, x :: xs, s =>
    let a := addElem o x s
    let b := addElems (o + 4) xs a.1
    (b.1, a.2.1 ||| b.2.1, a.2.2 || b.2.2)

/-- Elements of the next destination sector: how many. -/
def BOp.sectorLen (o : BOp) : Nat := Nat.min (o.rdwN - o.idx) ((256 - (o.rdwDst + 4 * o.idx) % 256) / 4)

/-- The issuing tile's sequencer streams the source of the next sector under its slots (R162, R263). -/
def rdwFetch (o : BOp) (s : State) : State :=
  let e := srcBytes o.rdwFmt
  let n := o.sectorLen * e
  let th := if o.dead then 24 else o.th
  let j := startJob o.tile th o.reel o.slot .load (List.replicate n 0) (streamPieces o.pages [(o.rdwSrc + e * o.idx, 0, n)]) s
  issueParts true o.tile j.1 (j.2.modBop o.id (fun p => { p with job := some j.1, phase := 1 }))

/-- Bytes of local HBM that an operation of a token has moved at the controllers count for its cue; those of a line in the cache do not
(R533). -/
def hbmServed (o : BOp) (a n : Nat) (s : State) : State :=
  if winOf a == .hbm && (s.line (lineOf (s.fabric a))).isNone then serveCue o.reel o.slot (fun c => { c with servHbm := c.servHbm + n }) s else s

/-- The destination's engine adds the sector whose source has arrived; the last sector completes the RDW (R264, R265). -/
def rdwAdd (o : BOp) (s : State) : State :=
  let e := srcBytes o.rdwFmt
  let n := o.sectorLen
  let data := mget [] o.buf 0
  let f := (srcFmt o.rdwFmt).getD fF32
  let src := (List.range n).map (fun j =>
    if o.bad.any (fun b => e * j ≤ b && b < e * (j + 1)) then none else some (f.decode (leNat ((data.drop (e * j)).take e))))
  let dst := o.at_ (o.rdwDst + 4 * o.idx)
  let a := addElems dst src s
  let lc := (nearLayer dst, nearCol dst)
  let own := let q := o.at_ (o.rdwSrc + e * o.idx)
    s.isLocal (paOf o.pages (o.rdwSrc + e * o.idx)).1 && winOf q == .near && (nearLayer q, nearCol q) == lc
  let rate := if own then 25 else 17
  let s1 := if winOf dst == .near then serveBke o lc.1 lc.2 ((o.idx + n) * rate / 1024 - o.idx * rate / 1024) a.1
    else hbmServed o dst (4 * n) a.1
  let s2 := if bitOf (o.words.getD 0 0) 12 && (srcFlags a.2.1 || a.2.2) then noteSrc o.group s1 else s1
  let s3 := s2.modBop o.id (fun p => { p with
    idx := p.idx + n, phase := 0, buf := [], bad := [], flags := p.flags ||| a.2.1
    status := if a.2.2 then stUncorrectable else p.status })
  if o.idx + n < o.rdwN then s3
  else bopFinish o.id (if a.2.2 then stUncorrectable else o.status) s3

/-- The sector's engine is a column's, or the HBM controller's while the device has no cache columns (R263). -/
def rdwDirect (s : State) (o : BOp) : Bool :=
  let dst := o.at_ (o.rdwDst + 4 * o.idx)
  if winOf dst == .near then engineTurn s o (nearLayer dst) (nearCol dst) && !s.rollHeld dst (4 * o.sectorLen)
  else s.cacheCols == 0 && hbmServes s dst

def execRdwSector (op : Nat) (s : State) : Res :=
  .next (match s.bop op with
    | none => s
    | some o =>
      if o.kind != .rdw then s
      else if o.phase == 0 then rdwFetch o s
      else if o.phase == 2 && rdwDirect s o then rdwAdd o s
      else s)

/-! ### SCRUB -/

/-- SCRUB of a tile (R165): a length of 0 names no page; a page in the host window of any device fails the check. -/
def scrubT (i : Instr) (f : SForm) (r : TRef) (s : State) : State :=
  let t := s.thread r
  let base := (t.sreg f.ra.toNat).toNat
  let len := (t.sreg f.rb.toNat).toNat
  let go := fun (pages : PageMap) (s : State) => takeToken r i f.x f.rd.toNat (fun tok s =>
    let id := s.bank.nextOp
    let o : BOp := { id, tile := r.tile, th := r.th, tok, kind := .scrub, reel := t.reel, slot := t.cueSlot, addr := base, count := len / 4096, pages }
    let s1 : State := { s with bank := { s.bank with ops := s.bank.ops ++ [o], nextOp := id + 1 } }
    if len == 0 then bopFinish id stOk s1 else s1) s
  if len == 0 then go [] s
  else if base % 4096 != 0 || len % 4096 != 0 then finish r f.x stMisaligned s
  else if base + len > 2 ^ 52 then finish r f.x stXlateFault s
  else withAccess r i f.x .s (pagePieces [(base, len)]) (fun ps s =>
    if ps.any (fun p => winOf (paLocal p.2.1) == .host) then finish r f.x stPermFault s
    else if acqWaiting s r then hold r i .order s
    else go (pagesOf ps) s) s

def execScrub (w : Who) (f : SForm) (s : State) : Res :=
  tOnly w (.scrub w f) f.x f.x.isNone [.s f.rd.toNat, .s f.ra.toNat, .s f.rb.toNat] (fun r => notStandby r f.x (scrubT (.scrub w f) f r)) s

/-- Every copy of 4 KiB goes without being written back: the cache's and the run-ahead buffers' (R166). -/
def dropCopies (pa : Nat) (s : State) : State :=
  let s1 := match s.line (lineOf pa) with
    | none => s
    | some x => if x.pinned || x.held then s.modLine x.line (fun x => { x with valid := 0, dirty := [], data := [] })
      else s.setLines (s.cache.lines.filter (fun y => y.line != x.line))
  s1.tiles.foldl (fun s T =>
    if T.2.ra.any (fun x => x.pa / 16 == pa / 4096) then raDrop T.1 (fun x => x.pa / 16 == pa / 4096) s else s) s1

/-- A home zeroes 4 KiB of its own memory. -/
def zeroHome (o : Nat) (s : State) : State :=
  let s1 := if winOf o == .near then settleRange o 4096 s else s
  let s2 := if winOf o == .table then s1.put o (List.replicate 4096 0) else s1.zero o 4096
  staleWrite o 4096 (notifyWrites o 4096 (dropCopies (s.fabric o) s2))

/-- Before a column zeroes a page of a SCRUB, the slots whose masters lie in any page of its range there are settled (R266). -/
def settleScrub (o : BOp) (layer col : Nat) (s : State) : State :=
  (List.range o.count).foldl (fun s k =>
    let pa := (paOf o.pages (o.addr + 4096 * k)).1
    let a := paLocal pa
    if s.isLocal pa && winOf a == .near && (nearLayer a, nearCol a) == (layer, col) then settleRange a 4096 s else s) s

/-- The home can zero 4 KiB now. -/
def zeroReady (s : State) (o : Nat) : Bool :=
  hbmServes s o && tableReady s o && (winOf o != .near || !(settleRange o 4096 s).rollHeld o 4096)

/-- A page of a SCRUB is zeroed at its home, and the copies of a peer's page that came while it was go; the last one frees the token. -/
def scrubPage (id page : Nat) (st : Status) (s : State) : State :=
  let pa := ((s.bop id).map (fun o => (paOf o.pages (o.addr + 4096 * page)).1)).getD 0
  let s := if s.isLocal pa then s else dropCopies pa s
  let s1 := s.modBop id (fun o => { o with done := if o.done.contains page then o.done else o.done ++ [page], status := if o.status == stOk then st else o.status })
  match s1.bop id with
  | none => s1
  | some o => if o.done.length < o.count then s1 else bopFinish id o.status s1

def execScrubZero (op page : Nat) (s : State) : Res :=
  .next (match s.bop op with
    | none => s
    | some o =>
      if o.kind != .scrub || page ≥ o.count || o.done.contains page || o.pre.contains page then s
      else
        let pa := (paOf o.pages (o.addr + 4096 * page)).1
        if !s.isLocal pa then
          let q := sendReq { mtype := mtZERO, dst := paDev pa, src := s.ownId, addr := paLocal pa, param := 1 } (.scrub op page)
            (dropCopies pa (s.modBop op (fun o => { o with pre := o.pre ++ [page] })))
          if q.2 then q.1 else scrubPage op page stNoRoute q.1
        else
          let a := paLocal pa
          if !zeroReady s a || swapHeld s (some o.tile) a || (winOf a == .near && !engineTurn s o (nearLayer a) (nearCol a)) then s
          else if !s.populated a then scrubPage op page stNoTarget s
          else
            let s1 := match winOf a with
              | .near => serveBke o (nearLayer a) (nearCol a) 9 s
              | .hbm => serveCue o.reel o.slot (fun c => { c with servHbm := c.servHbm + 4096 }) s
              | _ => s
            scrubPage op page stOk (zeroHome a (if winOf a == .near then settleScrub o (nearLayer a) (nearCol a) s1 else s1)))

/-! ### Patrol (R239, R267) -/

/-- Something of a higher level of R239 waits for the column's engine. -/
def columnBusy (s : State) (layer col : Nat) : Bool :=
  s.colCommits layer col || s.start.recover.contains (layer, col) || s.bank.ops.any (fun o => o.worksIn s layer col)

/-- A patrol read of a column, in beats in which nothing else waits there. -/
def execPatrolScrub (layer col : Nat) (ecc : List Ecc) (s : State) : Res :=
  .next (if columnBusy s layer col then s
    else (ecc.filter (fun e => winOf (e.word * 32) == .near && nearLayer (e.word * 32) == layer && nearCol (e.word * 32) == col)).foldl
      (fun s e => eccFound e s) s)

end Sys2Proof.Machine
end

