-- ==== Sys2Proof/Machine/Coll.lean ====
section
/-! DEFINITION. The collective engine (R310 to R318): COLL and PERM, their openings, the algorithms of Table 10.11, the
host's schedules, and the passes of Table 10.14. -/
namespace Sys2Proof.Machine

/-! ### The COLL descriptor (Table 10.10) -/

def BOp.cw (o : BOp) (n : Nat) : W64 := o.words.getD n 0
def BOp.cop (o : BOp) : Nat := bitsOf (o.cw 0) 2 0
def BOp.csfmt (o : BOp) : Nat := bitsOf (o.cw 0) 7 4
def BOp.cn (o : BOp) : Nat := bitsOf (o.cw 1) 39 0
def BOp.csrc (o : BOp) : Nat := bitsOf (o.cw 2) 51 0
def BOp.cdst (o : BOp) : Nat := bitsOf (o.cw 3) 51 0
/-- ALLREDUCE and REDUCESCATTER combine; ALLGATHER and ALLTOALL move bytes. -/
def BOp.reduces (o : BOp) : Bool := o.cop < 2
/-- Members. -/
def BOp.m (o : BOp) : Nat := o.members.length
/-- First element of shard r (R311). -/
def BOp.shardLo (o : BOp) (r : Nat) : Nat := r * o.cn / o.m
def BOp.shardLen (o : BOp) (r : Nat) : Nat := o.shardLo (r + 1) - o.shardLo r
/-- Bytes of one source element. -/
def BOp.celt (o : BOp) : Nat := if o.reduces then srcBytes o.csfmt else 1
/-- Source units: elements, or bytes. -/
def BOp.srcUnits (o : BOp) : Nat := if o.cop == 3 then o.m * o.cn else o.cn
/-- First unit of the destination buffer, and its units. -/
def BOp.dstFirst (o : BOp) : Nat := if o.cop == 1 then o.shardLo o.rank else 0
def BOp.dstUnits (o : BOp) : Nat := match o.cop with
  | 0 => o.cn
  | 1 => o.shardLen o.rank
  | _ => o.m * o.cn
def BOp.delt (o : BOp) : Nat := if o.reduces then 4 else 1

/-! ### Reading and landing -/

/-- Bytes that the engine reads at a virtual address, with one bit for each 32 bytes that it could not read; a far source has
been fetched. -/
def BOp.readV (o : BOp) (s : State) (fetched : Bool) (va n : Nat) : List Byte × Nat :=
  let off := va - o.csrc
  let far := fetched && (mfind o.buf 0).isSome
  let bs := if far then ((mget [] o.buf 0).drop off).take n else (List.range n).map (fun j => s.byte (o.at_ (va + j)))
  let bad := fun j => if far then o.bad.contains (off + j) else s.poisoned (o.at_ (va + j)) 1
  (bs, sumN ((List.range (ceilDiv n 32)).map (fun b =>
    if (List.range (Nat.min 32 (n - 32 * b))).any (fun j => bad (32 * b + j)) then 2 ^ b else 0)))

/-- Elements of w bytes that data stands for; none where a bit of the mask covers them. -/
def maskElems (f : FFmt) (w mask : Nat) (bs : List Byte) : List (Option Num) :=
  (List.range (bs.length / w)).map (fun j =>
    if mask / 2 ^ (w * j / 32) % 2 == 1 then none else some (f.decode (leNat ((bs.drop (w * j)).take w))))

def f32Of (x : Option Num) : Nat := match x with
  | none => 2 ^ 32
  | some v => (fF32.conv .rne false 0 v).pat

/-- An F32 accumulator of the engine: 2^32 stands for one that could not be formed. -/
def accAdd (a : Nat) (x : Option Num) : Nat × Flags4 × Bool :=
  if a ≥ 2 ^ 32 then (2 ^ 32, 0, true)
  else match x with
    | none => (2 ^ 32, 0, true)
    | some _ =>
      let r := fAdd (a, 0) (f32Of x, 0)
      (r.1, r.2, false)

/-- A landing's flags and failures reach the operation, its Toll group under TFEED, and the counters (R314). -/
def landed (id n : Nat) (fl : Flags4) (bad : Bool) (s : State) : State :=
  match s.bop id with
  | none => s
  | some o =>
    let s1 := cntBase 138 n (s.modBop id (fun p => { p with flags := p.flags ||| fl, status := if bad then stUncorrectable else p.status }))
    if bitOf (o.cw 0) 12 && (srcFlags fl || bad) then noteSrc (bitsOf (o.cw 0) 11 8) s1 else s1

/-- One addition where a destination element lies: in near memory at its column's engine, in HBM at the line's home cache column, which takes
the line and releases it, or at the HBM controller while there is no cache column (R33, R219, R263). -/
def reduceAt (a ca : Nat) (x : Option Num) (s : State) : State × Flags4 × Bool :=
  let l := lineOf (s.fabric a)
  if winOf a != .hbm || s.cacheCols == 0 then addElem a x s
  else
    let q := addElem a x ((holdLine l ca s).getD s)
    (releaseLine l q.1, q.2)

/-- The HBM bytes of a range that the collective engine reads or stores (R533). -/
def BOp.moved (o : BOp) (va n : Nat) (s : State) : State :=
  (pieces va 0 n).foldl (fun s p => if s.isLocal (paOf o.pages p.va).1 then hbmServed o (o.at_ p.va) p.n s else s) s

/-- Additions to destination elements from element e on, in order (R264). -/
def landAdd (o : BOp) (e : Nat) (xs : List (Option Num)) (s : State) : State :=
  let r := xs.zipIdx.foldl (fun (acc : State × Flags4 × Bool) x =>
    let va := o.cdst + 4 * (e + x.2 - o.dstFirst)
    let q := reduceAt (o.at_ va) (paOf o.pages va).2 x.1 (commitFirst (o.at_ va) 4 (o.moved va 4 acc.1))
    (q.1, acc.2.1 ||| q.2.1, acc.2.2 || q.2.2)) (s, 0, false)
  landed o.id xs.length r.2.1 r.2.2 r.1

/-- F32 results stored to destination elements that the member holds. -/
def landF32 (o : BOp) (e : Nat) (xs : List Nat) (s : State) : State :=
  xs.zipIdx.foldl (fun s x =>
    let k := e + x.2
    if k < o.dstFirst || k ≥ o.dstFirst + o.dstUnits then s
    else
      let a := o.at_ (o.cdst + 4 * (k - o.dstFirst))
      let s1 := commitFirst a 4 (o.moved (o.cdst + 4 * (k - o.dstFirst)) 4 s)
      if x.1 ≥ 2 ^ 32 then landed o.id 0 0 true (s1.mark a 4) else homeWrite a 0 (leBytes 4 x.1) s1) s

/-- Bytes landed at a virtual address, unreadable ones poisoned. -/
def landV (o : BOp) (va : Nat) (bs : List Byte) (mask : Nat) (s : State) : State :=
  let s1 := (pieces va 0 bs.length).foldl (fun s p =>
    let a := o.at_ p.va
    homeWrite a 0 ((bs.drop p.off).take p.n) (commitFirst a p.n s)) (o.moved va bs.length s)
  (List.range (ceilDiv bs.length 32)).foldl (fun s b =>
    if mask / 2 ^ b % 2 == 1 then landed o.id 0 0 true (s.mark (o.at_ (va + 32 * b)) (Nat.min 32 (bs.length - 32 * b))) else s) s1

/-- The member's destination holds an element. -/
def BOp.holdsElem (o : BOp) (e : Nat) : Bool := o.dstFirst ≤ e && e < o.dstFirst + o.dstUnits

/-- F32 patterns as the bytes of a message, with the mask of those that could not be formed. -/
def f32Bytes (xs : List Nat) : List Byte × Nat :=
  (xs.flatMap (leBytes 4), sumN ((List.range (ceilDiv xs.length 8)).map (fun b =>
    if ((xs.drop (8 * b)).take 8).any (fun x => x ≥ 2 ^ 32) then 2 ^ b else 0)))
def f32Of256 (mask : Nat) (bs : List Byte) : List Nat := (maskElems fF32 4 mask bs).zipIdx.map (fun x =>
  if x.1.isNone then 2 ^ 32 else leNat ((bs.drop (4 * x.2)).take 4))

/-- Stretches of at most n units from lo to hi. -/
def cuts (lo hi n : Nat) : List (Nat × Nat) := (List.range (ceilDiv (hi - lo) n)).map (fun k => (lo + n * k, Nat.min n (hi - lo - n * k)))

/-! ### Messages (log 40) -/

/-- What a CDATA message is, in PARAM[2:0]: a contribution in SFMT, a partial on its ring, a final value to store, one to
store and pass on, a contribution to a board shard, or a schedule's data in SFMT (or bytes) or in F32. PARAM[10:3] masks the
32-byte words of its data that could not be read. -/
def cmCONTRIB : Nat := 0
def cmPARTIAL : Nat := 1
def cmFINAL : Nat := 2
def cmPASS : Nat := 3
def cmBOARD : Nat := 4
def cmRAW : Nat := 5
def cmF32 : Nat := 6

def collSend (o : BOp) (rank code index : Nat) (d : List Byte × Nat) (s : State) : State :=
  sendMsg { mtype := mtCDATA, dst := o.members.getD rank 0, src := s.ownId, tag := o.digest.toNat % 65536, addr := index, param := code + 8 * d.2, data := d.1 } s

/-- Source units lo to hi, sent as they stand; `index` is the place of unit lo at the receiver. -/
def sendRaw (o : BOp) (rank code lo hi index : Nat) (s : State) : State :=
  (cuts lo hi (256 / o.celt)).foldl (fun s c =>
    collSend o rank code (index + (c.1 - lo)) (o.readV s true (o.csrc + o.celt * c.1) (o.celt * c.2)) s) s

/-- F32 values of elements from e on. -/
def sendF32 (o : BOp) (rank code e : Nat) (xs : List Nat) (s : State) : State :=
  (cuts 0 xs.length 64).foldl (fun s c => collSend o rank code (e + c.1) (f32Bytes ((xs.drop c.1).take c.2)) s) s

/-- The member's own contributions to elements lo to hi. -/
def BOp.own (o : BOp) (s : State) (lo hi : Nat) : List (Option Num) :=
  (cuts lo hi (256 / o.celt)).flatMap (fun c =>
    let d := o.readV s true (o.csrc + o.celt * c.1) (o.celt * c.2)
    maskElems ((srcFmt o.csfmt).getD fF32) o.celt d.2 d.1)

/-- The F32 values that the destination holds. -/
def BOp.held (o : BOp) (s : State) (lo hi : Nat) : List Nat :=
  (List.range (hi - lo)).map (fun j =>
    let a := o.at_ (o.cdst + 4 * (lo + j - o.dstFirst))
    if s.poisoned a 4 then 2 ^ 32 else leNat (s.bytes a 4))

/-! ### The end of an operation -/

/-- A COLL or PERM ends: FLAGS are written, messages of it that came early go, and the token completes. -/
def collFinish (id : Nat) (st : Status) (s : State) : State :=
  match s.bop id with
  | none => s
  | some o =>
    let s1 := if o.kind == .coll then cntBase 136 1 (descWrite o.pages (o.addr + 48) (leBytes 1 o.flags.toNat) s) else cntBase 137 1 s
    bopFinish id st { s1 with links := { s1.links with
      early := s1.links.early.filter (fun m => !(o.members.contains m.src && m.mtype == mtCDATA && m.tag == o.digest.toNat % 65536))
      reqs := s1.links.reqs.filter (fun q => q.owner != .msg id) } }

/-- LOST naming a device goes to the other members of an operation (R304, R315). -/
def sendLost (dev : Nat) (members : List Nat) (s : State) : State :=
  (members.filter (fun d => d != s.ownId && d != dev)).foldl (fun s d =>
    sendMsg { mtype := mtLOST, dst := d, src := s.ownId, param := dev } s) s

/-! ### Openings (R312) -/

/-- The COLL digest; the manual names what it covers and leaves its layout open (DESIGN CHOICE, log 41). -/
def collDigest (o : BOp) : W64 :=
  let list := o.members.flatMap (leBytes 2)
  let bs := if o.kind == .coll then
      [BitVec.ofNat 8 o.cop, BitVec.ofNat 8 (bitsOf (o.cw 0) 3 3), BitVec.ofNat 8 o.csfmt] ++ leBytes 5 o.cn ++ leBytes 2 o.m ++ list ++
        (if o.aMode then bytesOfWords o.sched else [])
    else leBytes 2 o.m ++ leBytes 3 (bitsOf (o.cw 0) 35 16) ++ leBytes 4 (bitsOf (o.cw 1) 31 0) ++ list
  BitVec.ofNat 64 (leNat (Config.shake256 bs 8))

/-- COPEN to every other member: the digest and the active mode; PARAM 0 opens, 1 and 2 say that a PERM's map passed or failed
this member's check. -/
def sendOpen (o : BOp) (code : Nat) (s : State) : State :=
  (o.members.filter (fun d => d != s.ownId)).foldl (fun s d =>
    sendMsg { mtype := mtCOPEN, dst := d, src := s.ownId, tag := o.digest.toNat % 65536, param := code, data := leBytes 8 o.digest.toNat ++ [BitVec.ofNat 8 (b2n o.aMode)] } s) s

/-! ### The choice of algorithm (R313) -/

/-- Ranks of a member's board, ascending. -/
def BOp.boardOf (o : BOp) (r : Nat) : Nat := o.members.getD r 0 / 8
def BOp.onBoard (o : BOp) (b : Nat) : List Nat := (List.range o.m).filter (fun r => o.boardOf r == b)
/-- The boards of the members, ascending. -/
def BOp.boards (o : BOp) : List Nat := (List.range 512).filter (fun b => !(o.onBoard b).isEmpty)

/-- A direct port joins this device to a device. -/
def besides (s : State) (d : Nat) : Bool := (upPorts s).any (fun n => (s.port n).peerV && (s.port n).peer == d)

/-- A direct port joins two devices: one of this device's own, or one over which a neighbour has announced a route of one hop. -/
def joined (s : State) (a b : Nat) : Bool :=
  let one := fun (x y : Nat) => (upPorts s).any (fun n => (s.port n).peerV && (s.port n).peer == x &&
    (match mfind (s.port n).adv y with
      | some r => r.1 == some 1 || r.2 == some 1
      | none => false))
  a == b || (a == s.ownId && besides s b) || (b == s.ownId && besides s a) || one a b || one b a

/-- 0 DIRECT, 1 RING, 2 HIER. -/
def chooseAlg (s : State) (o : BOp) : Nat :=
  let direct := o.members.all (fun a => o.members.all (fun b => joined s a b))
  let ks := o.boards.map (fun b => (o.onBoard b).length)
  if bitOf (o.cw 0) 3 then 1
  else if direct then 0
  else if ks.length ≥ 2 && ks.all (fun k => k ≥ 2 && some k == ks.head?) then 2
  else 1

/-! ### HIER -/

/-- Members per board. -/
def BOp.hk (o : BOp) : Nat := (o.onBoard (o.boardOf o.rank)).length
/-- Place of the member on its board: the board shard that it holds. -/
def BOp.hi_ (o : BOp) : Nat := ((o.onBoard (o.boardOf o.rank)).findIdx? (fun r => r == o.rank)).getD 0
/-- Place of the member's board among the boards: its place on the ring. -/
def BOp.hb (o : BOp) : Nat := (o.boards.findIdx? (fun b => b == o.boardOf o.rank)).getD 0
def BOp.hB (o : BOp) : Nat := o.boards.length
def BOp.bLo (o : BOp) (i : Nat) : Nat := i * o.cn / o.hk
def BOp.bLen (o : BOp) (i : Nat) : Nat := o.bLo (i + 1) - o.bLo i
/-- First element of part b of the member's board shard. -/
def BOp.subLo (o : BOp) (b : Nat) : Nat := o.bLo o.hi_ + b * o.bLen o.hi_ / o.hB
/-- Rank of the next board's holder of the same board shard. -/
def BOp.hNext (o : BOp) : Nat := ((o.onBoard (o.boards.getD ((o.hb + 1) % o.hB) 0)).getD o.hi_ 0)

/-! ### Progress -/

/-- Contributions and partials that the member has yet to take in all, and final units. -/
def BOp.needAcks (o : BOp) : Nat :=
  if !o.reduces then 0
  else match o.alg with
    | 0 => o.shardLen o.rank * (o.m - 1)
    | 1 => o.cn - o.shardLen ((o.rank + o.m - 1) % o.m)
    | _ =>
      let p := (o.hb + o.hB - 1) % o.hB
      o.bLen o.hi_ * (o.hk - 1) + (o.bLen o.hi_ - (o.subLo (p + 1) - o.subLo p))

/-- Overlap of two ranges of elements. -/
def overlap (a b c d : Nat) : Nat := Nat.min b d - Nat.max a c

def BOp.needFinal (o : BOp) : Nat :=
  if !o.reduces then (o.m - 1) * o.cn
  else match o.alg with
    | 2 =>
      let a := o.subLo o.hb
      let b := o.subLo (o.hb + 1)
      if o.cop == 0 then o.cn - (b - a)
      else o.shardLen o.rank - overlap a b (o.shardLo o.rank) (o.shardLo (o.rank + 1))
    | _ => if o.cop == 0 then o.cn - o.shardLen o.rank else 0

/-- Final values of elements go to every member whose destination needs them. -/
def sendFinals (o : BOp) (e : Nat) (xs : List Nat) (s : State) : State :=
  ((List.range o.m).filter (fun q => q != o.rank)).foldl (fun s q =>
    if o.cop == 0 then sendF32 o q cmFINAL e xs s
    else
      let lo := Nat.max e (o.shardLo q)
      let hi := Nat.min (e + xs.length) (o.shardLo (q + 1))
      if lo < hi then sendF32 o q cmFINAL lo ((xs.drop (lo - e)).take (hi - lo)) s else s) s

/-- The engine's accumulators. -/
def BOp.acc (o : BOp) (lo hi : Nat) : List Nat := (List.range (hi - lo)).map (fun j => mget 0 o.smap (lo + j))
def accPut (id e : Nat) (xs : List Nat) (s : State) : State :=
  s.modBop id (fun o => { o with smap := xs.zipIdx.foldl (fun m x => mput m (e + x.2) x.1) o.smap })

/-- What follows when a stage's contributions are complete, and the end when every final unit has landed. -/
def collCheck (id : Nat) (s : State) : State :=
  match s.bop id with
  | none => s
  | some o =>
    let first := if o.alg == 2 && o.reduces then o.bLen o.hi_ * (o.hk - 1) else o.needAcks
    let s1 := if o.idx != 0 || o.acks < first then s
      else
        let s1 := s.modBop id (fun o => { o with idx := 1 })
        if !o.reduces || o.alg == 1 then s1
        else if o.alg == 0 then
          (if o.cop == 0 then sendFinals o (o.shardLo o.rank) (o.held s (o.shardLo o.rank) (o.shardLo (o.rank + 1))) s1 else s1)
        else
          let p := (o.hb + o.hB - 1) % o.hB
          sendF32 o o.hNext cmPARTIAL (o.subLo p) (o.acc (o.subLo p) (o.subLo (p + 1))) s1
    match s1.bop id with
    | none => s1
    | some o => if o.idx == 1 && o.acks ≥ o.needAcks && o.count ≥ o.needFinal then collFinish id o.status s1 else s1

/-- A range of the member's shard has become final at the end of its ring: it goes on to the members that need it. -/
def ringEnd (o : BOp) (e : Nat) (xs : List Nat) (s : State) : State :=
  if o.alg == 2 then sendFinals o e xs s
  else if o.cop == 0 then sendF32 o ((o.rank + 1) % o.m) cmPASS e xs s
  else s

/-- Under HIER an element becomes final at this member and lands in its destination. -/
def BOp.landsAt (o : BOp) (e : Nat) : Bool := o.alg == 2 && o.subLo o.hb ≤ e && e < o.subLo (o.hb + 1) && o.holdsElem e

/-- A number of an F32 pattern, none for one that could not be formed. -/
def numOf (a : Nat) : Option Num := if a ≥ 2 ^ 32 then none else some (fF32.decode a)

/-- An addition that lands nowhere, because no destination of the member holds the element: the engine forms it for the partial that it
passes on, by the arithmetic of R264 (DEDUCED, log 98). -/
def passAdd (o : BOp) (a : Nat) (x : Option Num) (s : State) : Nat × State :=
  let y := accAdd a x
  (y.1, landed o.id 1 y.2.1 y.2.2 s)

/-- A contribution to an element of the member's board shard. -/
def boardAdd (o : BOp) (e : Nat) (xs : List (Option Num)) (s : State) : State :=
  xs.zipIdx.foldl (fun s x =>
    let k := e + x.2
    if o.landsAt k then landAdd o k [x.1] s
    else
      let y := passAdd o (((s.bop o.id).map (fun p => mget 0 p.smap k)).getD 0) x.1 s
      accPut o.id k [y.1] y.2) s

/-- One element of a partial. At the end of its ring it is added where the member's own contribution, or its board's, has landed
(R33, R314); elsewhere the member's share is added to what it passes on (Table 10.11). -/
def ringOne (o : BOp) (last : Bool) (e x : Nat) (s : State) : Nat × State :=
  if last && o.holdsElem e then
    let s0 := if o.alg == 2 then s else landF32 o e ((o.own s e (e + 1)).map f32Of) s
    let s1 := landAdd o e [numOf x] s0
    ((o.held s1 e (e + 1)).getD 0 0, s1)
  else passAdd o x (if o.alg == 2 then numOf ((o.acc e (e + 1)).getD 0 0) else (o.own s e (e + 1)).getD 0 none) s

/-- Shard of an element. -/
def BOp.shardOf (o : BOp) (e : Nat) : Nat := ((List.range o.m).find? (fun r => o.shardLo r ≤ e && e < o.shardLo (r + 1))).getD 0

/-- A partial of a ring: the member adds its own contribution and passes it on, or holds the final value (Table 10.11). -/
def ringStep (o : BOp) (e : Nat) (xs : List Nat) (s : State) : State :=
  let last := if o.alg == 2 then o.subLo o.hb ≤ e && e < o.subLo (o.hb + 1) else o.shardOf e == o.rank
  let r := xs.zipIdx.foldl (fun (acc : List Nat × State) x =>
    let y := ringOne o last (e + x.2) x.1 acc.2
    (acc.1 ++ [y.1], y.2)) ([], s)
  let s2 := r.2.modBop o.id (fun p => { p with acks := p.acks + xs.length })
  if last then ringEnd o e r.1 s2 else sendF32 o (if o.alg == 2 then o.hNext else (o.rank + 1) % o.m) cmPARTIAL e r.1 s2

/-! ### A-mode schedules (R315) -/

/-- Entry k of the schedule. -/
def BOp.ent (o : BOp) (k : Nat) : W64 × W64 := (o.sched.getD (2 * k) 0, o.sched.getD (2 * k + 1) 0)
def entAct (e : W64 × W64) : Nat := bitsOf e.1 3 0
def entPeer (e : W64 × W64) : Nat := bitsOf e.1 16 4
def entCount (e : W64 × W64) : Nat := bitsOf e.1 63 24
def entOff (e : W64 × W64) : Nat := bitsOf e.2 39 0
def entFromDst (e : W64 × W64) : Bool := bitOf e.2 40

/-- The entry names a rank and a range inside the buffers. -/
def BOp.entOk (o : BOp) (e : W64 × W64) : Bool :=
  match entAct e with
  | 0 => entPeer e < o.m && entOff e + entCount e ≤ (if entFromDst e then o.dstUnits else o.srcUnits)
  | 1 => entPeer e < o.m && o.reduces && entOff e + entCount e ≤ o.dstUnits
  | 2 => entPeer e < o.m && entOff e + entCount e ≤ o.dstUnits
  | 3 => true
  | 15 => true
  | _ => false

/-- The receive entries started and not complete. -/
def BOp.openRecvs (o : BOp) : List Nat :=
  (List.range o.idx).filter (fun k => (entAct (o.ent k) == 1 || entAct (o.ent k) == 2) && mget 0 o.smap k < entCount (o.ent k))

/-- Run schedule entries until a WAITALL holds or the END; the END completes the COLL once its receives have. -/
def schedGo : Nat → Nat → State → State
  | 0, _, s => s
  | fuel + 1, id, s =>
    match s.bop id with
    | none => s
    | some o =>
      let e := o.ent o.idx
      if !o.entOk e then sendLost s.ownId o.members (collFinish id stFormMismatch s)
      else
        let next := fun (s : State) => schedGo fuel id (s.modBop id (fun p => { p with idx := p.idx + 1 }))
        match entAct e with
        | 0 =>
          let lo := entOff e
          if entFromDst e && o.reduces then next (sendF32 o (entPeer e) cmF32 0 (o.held s (o.dstFirst + lo) (o.dstFirst + lo + entCount e)) s)
          else if entFromDst e then next ((cuts lo (lo + entCount e) 256).foldl (fun s c => collSend o (entPeer e) cmRAW 0 (o.readV s false (o.cdst + c.1) c.2) s) s)
          else next (sendRaw o (entPeer e) cmRAW lo (lo + entCount e) 0 s)
        | 3 => if o.openRecvs.isEmpty then next s else s
        | 15 => if o.openRecvs.isEmpty then collFinish id o.status s else s
        | _ => next s

def schedRun (id : Nat) (s : State) : State :=
  match s.bop id with
  | none => s
  | some o => schedGo (o.sched.length / 2 + 1) id s

/-- Data of a schedule lands at the oldest open receive from its sender; what is left over waits for the next. -/
def schedLand : Nat → Nat → Msg → State → State
  | 0, _, _, s => s
  | fuel + 1, id, m, s =>
    match s.bop id with
    | none => s
    | some o =>
      let f32 := m.param % 8 == cmF32
      let w := if f32 then 4 else o.celt
      let rank := (o.members.findIdx? (fun d => d == m.src)).getD 0
      let k := o.openRecvs.find? (fun k => entPeer (o.ent k) == rank)
      match k with
      | none => { s with links := { s.links with early := s.links.early ++ [m] } }
      | some k =>
        let e := o.ent k
        let at_ := mget 0 o.smap k
        let n := Nat.min (m.data.length / w) (entCount e - at_)
        let mask := m.param / 8
        let bs := m.data.take (w * n)
        let u := o.dstFirst + entOff e + at_
        let xs := maskElems (if f32 then fF32 else (srcFmt o.csfmt).getD fF32) w mask bs
        let s1 := if !o.reduces then landV o (o.cdst + entOff e + at_) bs mask s
          else if entAct e == 1 then landAdd o u xs s
          else landF32 o u (if f32 then f32Of256 mask bs else xs.map f32Of) s
        let s2 := s1.modBop id (fun p => { p with smap := mput p.smap k (at_ + n) })
        if w * n < m.data.length && n != 0 then schedLand fuel id { m with data := m.data.drop (w * n), param := m.param % 8 + 8 * (mask / 2 ^ (w * n / 32)) } s2
        else schedRun id s2

/-! ### Data -/

/-- All openings have arrived: the member's own part is done and its data goes out. -/
def collBegin (id : Nat) (s : State) : State :=
  match s.bop id with
  | none => s
  | some o0 =>
    let o : BOp := { o0 with phase := 4, alg := if o0.aMode then 3 else chooseAlg s o0, idx := 0 }
    let s0 := o.moved o.csrc (o.celt * o.srcUnits) (s.modBop id (fun _ => o))
    let others := (List.range o.m).filter (fun q => q != o.rank)
    if o.aMode then schedRun id s0
    else if o.cop == 2 then
      collCheck id (others.foldl (fun s q => sendRaw o q cmFINAL 0 o.cn (o.rank * o.cn) s)
        ((cuts 0 o.cn 256).foldl (fun s c => let d := o.readV s true (o.csrc + c.1) c.2; landV o (o.cdst + o.rank * o.cn + c.1) d.1 d.2 s) s0))
    else if o.cop == 3 then
      collCheck id (others.foldl (fun s q => sendRaw o q cmFINAL (q * o.cn) ((q + 1) * o.cn) (o.rank * o.cn) s)
        ((cuts 0 o.cn 256).foldl (fun s c => let d := o.readV s true (o.csrc + o.rank * o.cn + c.1) c.2; landV o (o.cdst + o.rank * o.cn + c.1) d.1 d.2 s) s0))
    else match o.alg with
      | 0 =>
        let lo := o.shardLo o.rank
        let s1 := landF32 o lo ((o.own s lo (o.shardLo (o.rank + 1))).map f32Of) s0
        collCheck id (others.foldl (fun s q => sendRaw o q cmCONTRIB (o.shardLo q) (o.shardLo (q + 1)) (o.shardLo q) s) s1)
      | 1 =>
        let p := (o.rank + o.m - 1) % o.m
        collCheck id (sendF32 o ((o.rank + 1) % o.m) cmPARTIAL (o.shardLo p) ((o.own s (o.shardLo p) (o.shardLo (p + 1))).map f32Of) s0)
      | _ =>
        let lo := o.bLo o.hi_
        let own := (o.own s lo (o.bLo (o.hi_ + 1))).map f32Of
        let s1 := own.zipIdx.foldl (fun s x => if o.landsAt (lo + x.2) then landF32 o (lo + x.2) [x.1] s else accPut id (lo + x.2) [x.1] s) s0
        collCheck id (((o.onBoard (o.boardOf o.rank)).zipIdx.filter (fun q => q.1 != o.rank)).foldl (fun s q =>
          sendRaw o q.1 cmBOARD (o.bLo q.2) (o.bLo (q.2 + 1)) (o.bLo q.2) s) s1)

/-- Keep a message for an operation that is not ready for it. -/
def keepEarly (m : Msg) (s : State) : State := { s with links := { s.links with early := s.links.early ++ [m] } }

def BOp.pq (o : BOp) : Nat := bitsOf (o.cw 0) 35 16
def BOp.pz (o : BOp) : Nat := bitsOf (o.cw 1) 31 0
def BOp.pbuf (o : BOp) : Nat := bitsOf (o.cw 2) 51 0
def BOp.pstage (o : BOp) : Nat := bitsOf (o.cw 4) 51 0

/-- The stretches of this device's memory that a COLL or PERM reads or writes, as (local address, length). -/
def BOp.stretches (o : BOp) (s : State) : List (Nat × Nat) :=
  let l := if o.kind == .coll then [(o.csrc, o.celt * o.srcUnits), (o.cdst, o.delt * o.dstUnits)] else [(o.pbuf, o.pq * o.pz), (o.pstage, o.pq * o.pz / 8)]
  ((pagePieces l).filter (fun q => !s.far (paOf o.pages q.va).1)).map (fun q => (o.at_ q.va, q.n))

/-- The engine's accesses to the operation's places wait while a roll slot's query, an export or a recovery holds one of them, or a
reduction holds a line of the destination; what is ROLLED there commits first (R219, R253, R255). -/
def BOp.settled (o : BOp) (s : State) : Option State :=
  let l := o.stretches s
  let s1 := l.foldl (fun s g => commitFirst g.1 g.2 s) s
  let taken := fun (g : Nat × Nat) => winOf g.1 == .hbm && s.cacheCols != 0 &&
    (List.range (ceilDiv (g.1 % 4096 + g.2) 4096)).any (fun k => s.lineHeld (g.1 + 4096 * k))
  if l.any (fun g => s1.rollHeld g.1 g.2 || taken g) then none else some s1

/-- Collective data lands (R314). -/
def cdataAt (o : BOp) (m : Msg) (s : State) : State :=
  let code := m.param % 8
  let mask := m.param / 8
  let raw := maskElems ((srcFmt o.csfmt).getD fF32) o.celt mask m.data
  let id := o.id
  if o.aMode then schedLand (m.data.length + 1) id m s
  else if !o.reduces then collCheck id ((landV o (o.cdst + m.addr) m.data mask s).modBop id (fun p => { p with count := p.count + m.data.length }))
  else if code == cmCONTRIB then collCheck id ((landAdd o m.addr raw s).modBop id (fun p => { p with acks := p.acks + raw.length }))
  else if code == cmBOARD then collCheck id ((boardAdd o m.addr raw s).modBop id (fun p => { p with acks := p.acks + raw.length }))
  else
    let xs := f32Of256 mask m.data
    if code == cmPARTIAL then (if o.alg == 2 && o.idx == 0 then keepEarly m s else collCheck id (ringStep o m.addr xs s))
    else
      let s1 := (landF32 o m.addr xs s).modBop id (fun p => { p with count := p.count + xs.length })
      let nxt := (o.rank + 1) % o.m
      collCheck id (if code == cmPASS && o.shardOf m.addr != nxt then sendF32 o nxt cmPASS m.addr xs s1 else s1)

/-- Collective data reaches its operation, or waits for it. -/
def cdata (m : Msg) (s : State) : State :=
  match s.bank.ops.find? (fun o => o.kind == .coll && o.phase == 4 && o.digest.toNat % 65536 == m.tag && o.members.contains m.src) with
  | none => keepEarly m s
  | some o =>
    match o.settled s with
    | none => keepEarly m s
    | some s1 => cdataAt o m s1

/-! ### PERM (R316 to R318) -/

/-- Destination rank and slice of a local slice. -/
def BOp.pmap (o : BOp) (k : Nat) : Nat × Nat := let e := o.sched.getD k 0; (bitsOf e 11 0, bitsOf e 31 12)

/-- A PERM message: PARAM holds the destination slice; ADDR the offset in the slice over 256 in [23:0], the mask of unreadable
words in [31:24], eleven bits of the digest, and in [43] that the data is map entries, whose number to this rank PARAM then
holds (log 40). -/
def permAddr (o : BOp) (map : Bool) (off mask : Nat) : Nat := off / 256 + mask * 2 ^ 24 + (o.digest.toNat % 2 ^ 11) * 2 ^ 32 + b2n map * 2 ^ 43

/-- Slices of the buffer, each as stretches of at most 256 bytes with their masks. -/
def BOp.slice (o : BOp) (s : State) (base k : Nat) : List (Nat × List Byte × Nat) :=
  (cuts 0 o.pz 256).map (fun c => (c.1, o.readV s false (base + k * o.pz + c.1) c.2))

/-- Rearrange slices of the buffer: slice k takes what slice `from_ k` holds. -/
def permute (o : BOp) (from_ : Nat → Nat) (s : State) : State :=
  let all := (List.range o.pq).map (fun k => o.slice s o.pbuf (from_ k))
  all.zipIdx.foldl (fun s x => x.1.foldl (fun s c => landV o (o.pbuf + x.2 * o.pz + c.1) c.2.1 c.2.2 s) s) (o.moved o.pbuf (o.pq * o.pz) s)

/-- Insert a slice by its key. -/
def insertKey (k : Nat × Nat × Nat) : List (Nat × Nat × Nat) → List (Nat × Nat × Nat)
  | [] => [k]
  | x :: xs => if k.1 < x.1 || (k.1 == x.1 && k.2.1 < x.2.1) then k :: x :: xs else x :: insertKey k xs

/-- Local slices in send order: by rotation, then by destination slice. -/
def BOp.sendOrder (o : BOp) : List Nat :=
  ((List.range o.pq).foldr (fun k l =>
    let e := o.pmap k
    insertKey ((e.1 + o.m - o.rank) % o.m, e.2, k) l) []).map (fun x => x.2.2)

/-- A stretch of a slice reaches the staging area; none where its pass has not begun. -/
def permStage (o : BOp) (dst off : Nat) (bs : List Byte) (mask : Nat) (s : State) : Option State :=
  let done := if o.done.contains dst then o.done else o.done ++ [dst]
  let j := (done.findIdx? (fun x => x == dst)).getD 0
  let per := o.pq / 8
  if j ≥ (o.idx + 1) * per then none
  else some ((landV o (o.pstage + (j - o.idx * per) * o.pz + off) bs mask s).modBop o.id (fun p => { p with done, count := p.count + bs.length }))

/-- The sends of a pass: own slices go to staging, the others out as requests that are acknowledged. -/
def permSend (id : Nat) (s : State) : State :=
  match s.bop id with
  | none => s
  | some o =>
    let per := o.pq / 8
    let order := o.sendOrder
    (List.range per).foldl (fun s j =>
      let pos := o.idx * per + j
      let e := o.pmap (order.getD pos 0)
      (o.slice s o.pbuf pos).foldl (fun s c =>
        match s.bop id with
        | none => s
        | some p =>
          if e.1 == o.rank then (permStage p e.2 c.1 c.2.1 c.2.2 s).getD s
          else
            (sendReq { mtype := mtPDATA, dst := o.members.getD e.1 0, src := s.ownId, addr := permAddr o false c.1 c.2.2, param := e.2, data := c.2.1 } (.msg id) s).1)
        (o.moved (o.pbuf + pos * o.pz) o.pz s)) s

/-- Every map entry goes to its destination rank (R317). -/
def permEntries (id : Nat) (s : State) : State :=
  match s.bop id with
  | none => s
  | some o =>
    (List.range o.m).foldl (fun s q =>
      let l := ((List.range o.pq).filter (fun k => (o.pmap k).1 == q)).map (fun k => (o.pmap k).2)
      if q == o.rank then s
      else (cuts 0 (Nat.max 1 l.length) 64).foldl (fun s c =>
        sendMsg { mtype := mtPDATA, dst := o.members.getD q 0, src := s.ownId, addr := permAddr o true 0 0, param := l.length, data := ((l.drop c.1).take c.2).flatMap (leBytes 4) } s) s) s

/-- Entries of a sender: `smap` holds the sender of each destination slice, and at 2^21 + rank how many a sender has sent;
`split` that the check has failed. -/
def permTake (o : BOp) (rank total : Nat) (l : List Nat) : BOp :=
  let n := mget 0 o.smap (2 ^ 21 + rank) + l.length
  let bad := total != o.pq / o.m || l.any (fun d => d ≥ o.pq || (mfind o.smap d).isSome) || (nub l).length != l.length
  { o with
    smap := mput (l.foldl (fun m d => mput m d rank) o.smap) (2 ^ 21 + rank) n
    split := o.split || bad
    pre := if n ≥ total then (if o.pre.contains rank then o.pre else o.pre ++ [rank]) else o.pre }

/-- Once every member's entries are in, the verdict goes to all; once every verdict is in, the passes begin or the PERM ends. -/
def permCheck (id : Nat) (s : State) : State :=
  match s.bop id with
  | none => s
  | some o =>
    let s1 := if o.phase != 5 || o.pre.length < o.m then s
      else sendOpen o (if o.split then 2 else 1) (s.modBop id (fun p => { p with phase := 6 }))
    match s1.bop id with
    | none => s1
    | some o =>
      if o.phase != 6 || o.opens.length + 1 < o.m then s1
      else if o.split then collFinish id stFormMismatch s1
      else match o.settled s1 with
      | none => s1
      | some s1 =>
        let order := o.sendOrder
        permSend id ((permute o (fun k => order.getD k 0) s1).modBop id (fun p => { p with phase := 7, idx := 0, done := [], count := 0 }))

/-- The opening of a PERM is complete: the map goes out, the member's own entries count at once. -/
def permBegin (id : Nat) (s : State) : State :=
  let s1 := s.modBop id (fun o =>
    let own := ((List.range o.pq).filter (fun k => (o.pmap k).1 == o.rank)).map (fun k => (o.pmap k).2)
    let outside := (List.range o.pq).any (fun k => (o.pmap k).1 ≥ o.m)
    let p := permTake { o with phase := 5, opens := [], smap := [], pre := [] } o.rank own.length own
    { p with split := p.split || outside })
  permCheck id (permEntries id s1)

/-- PERM data arrives: map entries, or a stretch of a slice, which is acknowledged once staged. -/
def pdata (m : Msg) (s : State) : State :=
  let dig := m.addr / 2 ^ 32 % 2 ^ 11
  let mine := fun (o : BOp) => o.kind == .perm && o.digest.toNat % 2 ^ 11 == dig && o.members.contains m.src
  if m.addr / 2 ^ 43 % 2 == 1 then
    match s.bank.ops.find? (fun o => mine o && o.phase == 5) with
    | none => keepEarly m s
    | some o =>
      let rank := (o.members.findIdx? (fun d => d == m.src)).getD 0
      permCheck o.id (s.modBop o.id (fun o => permTake o rank m.param (elems 4 (m.data.length / 4) m.data)))
  else
    match s.bank.ops.find? (fun o => mine o && o.phase == 7) with
    | none => keepEarly m s
    | some o =>
      match (o.settled s).bind (permStage o m.param (m.addr % 2 ^ 24 * 256) m.data (m.addr / 2 ^ 24 % 256)) with
      | none => keepEarly m s
      | some s1 => sendMsg (ackMsg s1 m.src m.tag stOk) s1

/-! ### Openings that arrive -/

/-- Every opening has arrived: the operation begins once its places are free to read and write. -/
def opBegin (id : Nat) (s : State) : State :=
  match s.bop id with
  | none => s
  | some o =>
    match o.settled s with
    | none => s
    | some s1 => if o.kind == .coll then collBegin id s1 else permBegin id s1

/-- An opening belongs to the oldest operation open with its sender that has none from it yet (DESIGN CHOICE, log 41). -/
def copen (m : Msg) (s : State) : State :=
  let want := if m.param == 0 then 3 else 6
  match s.bank.ops.find? (fun o => (o.kind == .coll || o.kind == .perm) && o.members.contains m.src && !o.opens.contains m.src &&
      (o.phase == want || (want == 6 && o.phase == 5))) with
  | none => keepEarly m s
  | some o =>
    let other := leNat (m.data.take 8) != o.digest.toNat || (m.data.getD 8 0).toNat != b2n o.aMode
    let s1 := s.modBop o.id (fun o => { o with opens := o.opens ++ [m.src], split := o.split || (if want == 3 then other else m.param == 2) })
    if want == 6 then permCheck o.id s1
    else if o.opens.length + 2 < o.m then s1
    else if o.split || other then collFinish o.id stCollSplitMismatch s1
    else opBegin o.id s1

/-- A message of the collective channel, or an opening. -/
def collMsg (m : Msg) (s : State) : State :=
  if m.mtype == mtCOPEN then copen m s else if m.mtype == mtCDATA then cdata m s else if m.mtype == mtPDATA then pdata m s else s

/-- Messages that came early are tried again, while trying makes progress. -/
def drainEarly : Nat → State → State
  | 0, s => s
  | k + 1, s =>
    let l := s.links.early
    let s1 := l.foldl (fun s m => collMsg m s) { s with links := { s.links with early := [] } }
    if s1.links.early.length < l.length then drainEarly k s1 else s1

/-- A collective message is handled, and then what waited for it. -/
def collArrive (m : Msg) (s : State) : State :=
  let s1 := collMsg m s
  drainEarly s1.links.early.length s1

/-! ### Issue -/

/-- The schedule up to its END, read entry by entry (R315). -/
def withSched (r : TRef) (i : Instr) : Nat → Nat → List W64 → (List W64 → State → State) → State → State
  | 0, _, _, _, s => finish r none stFormMismatch s
  | fuel + 1, va, acc, k, s =>
    withDesc r i none .r va 16 (fun bs s =>
      let w := wordsOf 2 bs
      if bitsOf (w.getD 0 0) 3 0 == 15 then k (acc ++ w) s else withSched r i fuel (va + 16) (acc ++ w) k s) s

/-- The operation takes its token and waits for the engine. -/
def collQueue (r : TRef) (i : Instr) (f : SForm) (o : BOp) (s : State) : State :=
  takeToken r i f.x f.rd.toNat (fun tok s =>
    let t := s.thread r
    let id := s.bank.nextOp
    let o : BOp := { o with id, tile := r.tile, th := r.th, tok, reel := t.reel, slot := t.cueSlot }
    { s with bank := { s.bank with ops := s.bank.ops ++ [{ o with digest := collDigest o }], nextOp := id + 1 } }) s

/-- The member list, read and checked; the operation with its members and rank (R310, R311). -/
def withMembers (r : TRef) (i : Instr) (n mlist : Nat) (k : List Nat → State → State) (s : State) : State :=
  if n < 2 || n > 4096 then finish r none stFormMismatch s
  else withDesc r i none .r mlist (2 * n) (fun bs s =>
    let ms := memberIds n bs
    if !membersOk s ms then finish r none stFormMismatch s else k ms s) s

def rankIn (s : State) (ms : List Nat) : Nat := (ms.findIdx? (fun d => d == s.ownId)).getD 0

/-- COLL (R310, R311): its mode takes effect at its issue (Table 1.5). -/
def collT (i : Instr) (f : SForm) (r : TRef) (s : State) : State :=
  let va := ((s.thread r).sreg f.ra.toNat).toNat
  if va % 8 != 0 then finish r none stMisaligned s
  else if s.rep.fwSwitching then hold r i .fwSwitch s
  else
    let s := splitPoint 3 s
    withDesc r i none .r va 64 (fun bs s =>
      let w := wordsOf 8 bs
      let o : BOp := { id := 0, tile := r.tile, th := r.th, tok := 0, kind := .coll, reel := 0, slot := 0, addr := va, words := w, group := bitsOf (w.getD 0 0) 11 8, aMode := s.aMode 3 }
      if o.cop > 3 || (o.reduces && (srcFmt o.csfmt).isNone) || o.cn == 0 then finish r none stFormMismatch s
      else withMembers r i (bitsOf (w.getD 0 0) 25 13) (bitsOf (w.getD 4 0) 51 0) (fun ms s =>
        let o : BOp := { o with members := ms, rank := rankIn s ms }
        if o.reduces && (o.cdst % 4 != 0 || o.csrc % o.celt != 0) then finish r none stMisaligned s
        else
          let go := fun (sched : List W64) (s : State) =>
            let dp := pagePieces [(o.cdst, o.delt * o.dstUnits)]
            withAccessMix r i none 0x300 ((pagePieces [(va, 64)]).map (fun q => (Need.rw, q)) ++ dp.map (fun q => (Need.c, q)) ++
                (pagePieces [(o.csrc, o.celt * o.srcUnits)]).map (fun q => (Need.r, q))) (fun ps s =>
              let pages := pagesOf ps
              if !dp.all (fun q => addable s (paOf pages q.va).1) then finish r none stFormMismatch s
              else collQueue r i f { o with pages, sched } s) s
          if o.aMode then withSched r i 65536 (bitsOf (w.getD 5 0) 51 0) [] go s else go [] s) s) s

def execColl (w : Who) (f : SForm) (s : State) : Res :=
  tOnly w (.coll w f) f.x f.x.isNone [.s f.rd.toNat, .s f.ra.toNat] (fun r => notStandby r f.x (collT (.coll w f) f r)) s

/-- PERM (R316): its buffer and staging area lie in this device's memory, the latter in scratch near memory. -/
def permT (i : Instr) (f : SForm) (r : TRef) (s : State) : State :=
  let va := ((s.thread r).sreg f.ra.toNat).toNat
  if va % 8 != 0 then finish r none stMisaligned s
  else if s.rep.fwSwitching then hold r i .fwSwitch s
  else
    withDesc r i none .r va 64 (fun bs s =>
      let w := wordsOf 8 bs
      let o : BOp := { id := 0, tile := r.tile, th := r.th, tok := 0, kind := .perm, reel := 0, slot := 0, addr := va, words := w }
      let n := bitsOf (w.getD 0 0) 12 0
      if n < 2 || n > 4096 || o.pq == 0 || o.pq % 8 != 0 || o.pq % n != 0 || o.pz == 0 || o.pz % 256 != 0 then finish r none stFormMismatch s
      else withMembers r i n (bitsOf (w.getD 5 0) 51 0) (fun ms s =>
        withDesc r i none .r (bitsOf (w.getD 3 0) 51 0) (4 * o.pq) (fun map s =>
          let bp := pagePieces [(o.pbuf, o.pq * o.pz)]
          let sp := pagePieces [(o.pstage, o.pq * o.pz / 8)]
          let both := fun (q : Piece) => [(Need.r, q), (Need.c, q)]
          withAccessMix r i none 0x300 ((bp ++ sp).flatMap both) (fun ps s =>
            let pages := pagesOf ps
            let pa := fun (q : Piece) => (paOf pages q.va).1
            if !bp.all (fun q => addable s (pa q)) || !sp.all (fun q => s.isLocal (pa q) && s.scratch (paLocal (pa q))) then finish r none stFormMismatch s
            else collQueue r i f { o with members := ms, rank := rankIn s ms, pages, sched := (elems 4 o.pq map).map (BitVec.ofNat 64) } s) s) s) s) s

def execPerm (w : Who) (f : SForm) (s : State) : Res :=
  tOnly w (.perm w f) f.x f.x.isNone [.s f.rd.toNat, .s f.ra.toNat] (fun r => notStandby r f.x (permT (.perm w f) f r)) s

/-! ### The engine -/

/-- A COLL's source lies partly at a peer or in the host window. -/
def BOp.farSource (o : BOp) (s : State) : Bool := o.kind == .coll && (pagePieces [(o.csrc, o.celt * o.srcUnits)]).any (fun q => s.far (paOf o.pages q.va).1)

/-- The operation opens: COPEN goes to every member. -/
def collOpen (o : BOp) (s : State) : State :=
  let s1 := s.modBop o.id (fun p => { p with phase := 3 })
  let s2 := sendOpen o 0 s1
  drainEarly s2.links.early.length s2

/-- Deadline of the operation at the collective engine; none once its cue has reached its demand on every port (R387, R388, R533). -/
def BOp.portUrgency (o : BOp) (s : State) : Option Nat :=
  (s.cueIn o.reel o.slot).bind (fun c =>
    if (List.range (Config.ports s.build)).any (fun n => mget 0 c.servSend n < c.send n || mget 0 c.servRecv n < c.recv n) then some c.deadline else none)

/-- The engine starts a waiting operation while fewer than 8 run, and no more urgent one waits (R310, R388); a far source is fetched first, under the slots of the
tile that issued it (DESIGN CHOICE, log 42). One that runs goes on with what waited for its places. -/
def engineStart (id : Nat) (s : State) : State :=
  match s.bop id with
  | none => s
  | some o =>
    if o.kind != .coll && o.kind != .perm then s
    else if o.phase == 2 then collOpen o s
    else if o.phase ≥ 3 then
      let s1 := if o.phase == 3 && o.opens.length + 1 ≥ o.m && !o.split then opBegin id s else if o.phase == 6 then permCheck id s else s
      drainEarly s1.links.early.length s1
    else if o.phase != 0 || (s.bank.ops.filter (fun p => (p.kind == .coll || p.kind == .perm) && p.phase != 0)).length ≥ 8 then s
    else if s.bank.ops.any (fun p => (p.kind == .coll || p.kind == .perm) && p.phase == 0 && beforeSet (p.portUrgency s, 0) (o.portUrgency s, 0)) then s
    else if o.farSource s then
      let n := o.celt * o.srcUnits
      let j := startJob o.tile (if o.dead then 24 else o.th) o.reel o.slot .load (List.replicate n 0) (streamPieces o.pages [(o.csrc, 0, n)]) s
      issueParts true o.tile j.1 (j.2.modBop id (fun p => { p with job := some j.1, phase := 1 }))
    else collOpen o s

def execCollEngineStart (op : Nat) (s : State) : Res := .next (engineStart op s)

/-- Every send of the pass is acknowledged and every slice received: staging goes into place; after the last pass the slices
take their final places and the token completes (steps 3 and 4 of Table 10.14). -/
def permPass (id : Nat) (s : State) : State :=
  match s.bop id with
  | none => s
  | some o =>
    let per := o.pq / 8
    if o.kind != .perm || o.phase != 7 || s.links.reqs.any (fun q => q.owner == .msg id) ||
        o.count < (o.idx + 1) * per * o.pz then s
    else match o.settled s with
    | none => s
    | some s =>
      let s1 := (List.range per).foldl (fun s j =>
        (o.slice s o.pstage j).foldl (fun s c => landV o (o.pbuf + (o.idx * per + j) * o.pz + c.1) c.2.1 c.2.2 s) s) (o.moved o.pstage (per * o.pz) s)
      if o.idx == 7 then
        collFinish id o.status (permute o (fun d => (o.done.findIdx? (fun x => x == d)).getD d) s1)
      else
        let s2 := permSend id (s1.modBop id (fun p => { p with idx := p.idx + 1 }))
        drainEarly s2.links.early.length s2

def execPermPassAcked (op : Nat) (s : State) : Res := .next (permPass op s)

/-- The bytes that a collective message brings count to the cue of the operation that they land for (R533). -/
def serveRecv (port : Nat) (m : Msg) (s : State) : State :=
  match s.bank.ops.find? (fun o => (o.kind == .coll || o.kind == .perm) && o.members.contains m.src &&
      (if m.mtype == mtCDATA then o.digest.toNat % 65536 == m.tag else o.digest.toNat % 2 ^ 11 == m.addr / 2 ^ 32 % 2 ^ 11)) with
  | none => s
  | some o => serveCue o.reel o.slot (fun c => { c with servRecv := mput c.servRecv port (mget 0 c.servRecv port + m.data.length) }) s

/-- A message of a running collective reaches the device. -/
def collPort (port : Nat) (want : Nat) (m : Msg) (s : State) : State :=
  if m.mtype != want then s else onMsg port m (fun s => collArrive m (serveRecv port m (noteFrom port m.src s))) s

def execCdata (port : Nat) (m : Msg) (s : State) : Res := .next (collPort port mtCDATA m s)
def execPdata (port : Nat) (m : Msg) (s : State) : Res := .next (collPort port mtPDATA m s)
def execCopen (port : Nat) (m : Msg) (s : State) : Res := .next (collPort port mtCOPEN m s)

/-- COLL_TMO passes without every opening. -/
def execCollTimeout (op : Nat) (s : State) : Res :=
  .next (match s.bop op with
    | none => s
    | some o => if (o.kind == .coll || o.kind == .perm) && o.phase == 3 then collFinish op stCollTimeout s else s)

end Sys2Proof.Machine
end

