-- ==== Sys2Proof/Machine/Dma.lean ====
section
/-! DEFINITION. The host DMA engines (R437, R438): the start, the data and the end of a descriptor. -/
namespace Sys2Proof.Machine

/-- Bytes that a home reads for an agent outside: HBM through its line (R212), and an UNCORRECTABLE read of a tile store is one of those
that mark its tile failing (R398). -/
def homeRead (o n : Nat) (s : State) : List Byte × State :=
  let s0 := commitFirst o n s
  let s1 := if winOf o == .store && s0.poisoned o n then tileUnc ((o - storeBase) / 0x200000) s0 else s0
  (s1.bytes o n, if winOf o != .hbm then s1 else if (s1.line (lineOf (s1.fabric o))).isSome then s1.touchLine (lineOf (s1.fabric o))
    else cntBase (96 + 4 * s1.stackOf o) n s1)

/-- Fields of a descriptor (Table 14.12). -/
def dLen (w : List W64) : Nat := bitsOf (w.getD 0 0) 31 0
def dToHost (w : List W64) : Bool := bitOf (w.getD 0 0) 32
def dHost (w : List W64) : Nat := (w.getD 1 0).toNat
def dDev (w : List W64) : Nat := bitsOf (w.getD 2 0) 55 0

/-- The first address of each 4 KiB block that a local range of n bytes touches: every window, region and hole begins on one. -/
def blocksOf (o n : Nat) : List Nat := o :: (List.range (n / 4096 + 1)).filterMap (fun k =>
  let a := (o / 4096 + 1 + k) * 4096
  if a < o + n then some a else none)

/-- The check of one local address (R438). -/
def dmaAddr (s : State) (o : Nat) : Status :=
  match winOf o with
  | .reg => stPermFault
  | .host => stFormMismatch
  | _ => if s.inRoll o then stPermFault else if s.populated o then stOk else stNoTarget

/-- The check of a local range: the first failure. -/
def dmaCheck (s : State) (o n : Nat) : Status := (((blocksOf o n).map (dmaAddr s)).find? (fun st => st != stOk)).getD stOk

/-- Bytes of a local range before the first that fails its check. -/
def dmaFit (s : State) (o n : Nat) : Nat :=
  match (blocksOf o n).find? (fun a => dmaAddr s a != stOk) with
  | some a => a - o
  | none => n

/-- Bytes that a descriptor moves: on this device those before the first that fails (R438). -/
def dmaSpan (s : State) (w : List W64) : Nat := if s.isLocal (dDev w) then dmaFit s (paLocal (dDev w)) (dLen w) else dLen w

/-- Every home of a local range serves now (R349, R399, R484), no roll slot of it but what commits first (R253, R255). -/
def rangeServes (s : State) (o n : Nat) : Bool :=
  (blocksOf o n).all (fun a => hbmServes s a && tableReady s a && !swapHeld s none a) && !(commitFirst o n s).rollHeld o n

/-- A request of the engine to a peer is outstanding. -/
def dmaOut (s : State) (k : Nat) : Bool :=
  let mine := fun (o : RemOwner) => match o with
    | .dma j _ => j == k
    | _ => false
  s.links.reqs.any (fun q => mine q.owner)

/-- The descriptor in progress ends: its status and DONE are written, and it counts toward the signal under SIG. -/
def dmaEnd (k : Nat) (st : Status) (s : State) : State :=
  let d := s.dma k
  match d.cur with
  | none => s
  | some w =>
    let r := d.ring
    let at_ := r.base * 4096 + (r.head + r.size - 1) % r.size * 32
    let s1 := s.send (.write at_ (leBytes 8 (setBits (setBits (w.getD 0 0) 47 47 1) 63 48 st.toNat).toNat))
    let c := if bitOf (w.getD 0 0) 33 then r.count else (r, false)
    let s2 := s1.modDma k (fun _ => { ring := c.1 })
    if c.2 then msixFire r.vec s2 else s2

/-- A stretch of a descriptor goes to a peer as one request; the first failure stays. -/
def dmaAsk (k : Nat) (m : Nat → Piece → Msg) (w : List W64) (s : State) : State :=
  (pieces (dDev w) 0 (dLen w)).foldl (fun s p =>
    let q := sendReq (m (paDev p.va) p) (.dma k p.off) s
    if q.2 then q.1 else q.1.modDma k (fun d => { d with status := if d.status == stOk then stNoRoute else d.status })) s

/-- Local memory goes to the host, up to the first word that cannot be read. -/
def dmaOutLocal (k : Nat) (w : List W64) (s : State) : State :=
  let o := paLocal (dDev w)
  let r := (pieces o 0 (dmaSpan s w)).foldl (fun (acc : List Byte × State) p =>
    let q := homeRead p.va p.n acc.2
    (acc.1 ++ q.1, q.2)) ([], s)
  match (List.range (dmaSpan s w)).find? (fun j => r.2.poisoned (o + j) 1) with
  | none => r.2.send (.write (dHost w) r.1)
  | some j => (r.2.send (.write (dHost w) (r.1.take j))).modDma k (fun d => { d with status := stUncorrectable })

/-- A descriptor begins its transfer, or begins it again after an I/O reset. -/
def dmaGo (k : Nat) (s : State) : State :=
  match (s.dma k).cur with
  | none => s
  | some w =>
    let loc := s.isLocal (dDev w)
    let st := if loc then dmaCheck s (paLocal (dDev w)) (dLen w) else stOk
    if dLen w == 0 then dmaEnd k stFormMismatch s
    else if !s.host.bme || s.host.degraded then dmaEnd k stHostAbort s
    else if dmaSpan s w == 0 then dmaEnd k st s
    else if !dToHost w then
      State.send { s.modDma k (fun d => { d with status := st }) with host := { s.host with nextTag := s.host.nextTag + 1 } }
        (.readReq (s.host.nextTag % 2 ^ 14) (dHost w) (dmaSpan s w))
    else if loc then dmaOutLocal k w (s.modDma k (fun d => { d with status := st }))
    else dmaAsk k (fun dst p => { mtype := mtRD, dst, src := s.ownId, addr := paLocal p.va, len := p.n }) w s

/-- An engine takes its next descriptor. -/
def dmaStart (k : Nat) (w : List W64) (s : State) : State :=
  let d := s.dma k
  let r := d.ring
  if k ≥ 4 || !r.en || r.head == r.tail || d.cur.isSome || (s.isLocal (dDev w) && !rangeServes s (paLocal (dDev w)) (dmaSpan s w)) then s
  else dmaGo k (s.modDma k (fun d => { ring := { d.ring with head := (r.head + 1) % r.size }, cur := some w }))

def execDmaDescriptorStart (k : Nat) (d : List W64) (s : State) : Res := .next (dmaStart k d s)

/-- Data from the host reaches local memory; data that came poisoned poisons its words. -/
def dmaIn (w : List W64) (e : HostEnd) (data : List Byte) (s : State) : State :=
  let o := paLocal (dDev w)
  let bs := data.take (dmaSpan s w)
  let s1 := (pieces o 0 bs.length).foldl (fun s p => homeWrite p.va 0 ((bs.drop p.off).take p.n) (commitFirst p.va p.n s)) s
  if e == .poisoned then s1.mark o bs.length else s1

/-- The status of a host transfer's end (R427). -/
def hostStatus : HostEnd → Status
  | .ok => stOk
  | .poisoned => stUncorrectable
  | .abort => stHostAbort

/-- The host side of the descriptor ends. -/
def dmaHostEnd (k : Nat) (e : HostEnd) (data : List Byte) (s : State) : State :=
  let d := s.dma k
  match d.cur with
  | none => s
  | some w =>
    let first := fun (a b : Status) => if a == stOk then b else a
    if dToHost w then (if dmaOut s k then s else dmaEnd k (first d.status (hostStatus e)) s)
    else if d.hostDone then s
    else if e == .abort then dmaEnd k stHostAbort s
    else if s.isLocal (dDev w) then
      (if rangeServes s (paLocal (dDev w)) (dmaSpan s w) then dmaEnd k (first (hostStatus e) d.status) (dmaIn w e data s) else s)
    else if e == .poisoned then dmaEnd k stUncorrectable s
    else
      let s1 := dmaAsk k (fun dst p => { mtype := mtWR, dst, src := s.ownId, addr := paLocal p.va, data := (data.drop p.off).take p.n }) w s
      let s2 := s1.modDma k (fun d => { d with hostDone := true })
      if dmaOut s2 k then s2 else dmaEnd k (s2.dma k).status s2

def execDmaDescriptorDone (k : Nat) (e : HostEnd) (data : List Byte) (s : State) : Res := .next (dmaHostEnd k e data s)

/-- A request of an engine to a peer has ended: data read goes to the host, and the last acknowledgement of a write ends the
descriptor. -/
def dmaRemote (k off : Nat) (st : Status) (bs : List Byte) (s : State) : State :=
  match (s.dma k).cur with
  | none => s
  | some w =>
    let s1 := if st == stOk && dToHost w then s.send (.write (dHost w + off) bs) else s
    let s2 := s1.modDma k (fun x => { x with status := if x.status == stOk then st else x.status })
    if dToHost w || !(s2.dma k).hostDone || dmaOut s2 k then s2 else dmaEnd k (s2.dma k).status s2

end Sys2Proof.Machine
end

