-- ==== Sys2Proof/Machine/Remote.lean ====
section
/-! DEFINITION. Requests from other devices at this one, their home (R307 to R309): the checks, what each does, and the order. -/
namespace Sys2Proof.Machine

/-- The address checks of a home (R199, R200, R208). -/
def homeStatus (s : State) (o n : Nat) : Status :=
  if winOf o == .reg || s.inRoll o || s.inRoll (o + n - 1) then stPermFault
  else if !s.populated o || !s.populated (o + n - 1) then stNoTarget
  else stOk

/-- A request of n bytes waits at its home: its memory does not serve yet, a roll slot holds its bytes, or, for a read-modify-write, a
reduction holds its line (R219, R253, R256, R349, R399). -/
def homeWaits (s : State) (o n : Nat) (rmw : Bool) : Bool :=
  winOf o != .host && homeStatus s o n == stOk && (!rangeServes s o n || (rmw && s.lineHeld o))

/-- A request to the host for a peer. -/
def peerHost (m : Msg) (n : Nat) (s : State) : State :=
  let q := farRead (s.fabric m.addr) n (.peer m.src m.tag) s
  if q.2 == stOk then q.1 else sendMsg (ackMsg s m.src m.tag q.2) q.1

def homeRd (m : Msg) (s : State) : State :=
  if winOf m.addr == .host then peerHost m m.len s
  else
    let st := homeStatus s m.addr m.len
    if st != stOk then sendMsg (ackMsg s m.src m.tag st) s
    else
      let r := homeRead m.addr m.len s
      if r.2.poisoned m.addr m.len then sendMsg (ackMsg s m.src m.tag stUncorrectable) r.2
      else sendMsg { mtype := mtRDATA, dst := m.src, src := s.ownId, tag := m.tag, data := r.1 } r.2

def homeWr (m : Msg) (s : State) : State :=
  if winOf m.addr == .host then
    (if s.hostOpen then sendMsg (ackMsg s m.src m.tag stOk) (s.send (.write (s.busAddr (s.fabric m.addr)) m.data)) else sendMsg (ackMsg s m.src m.tag stHostAbort) s)
  else
    let st := homeStatus s m.addr m.data.length
    let s1 := if st == stOk then homeWrite m.addr 0 m.data (commitFirst m.addr m.data.length s) else s
    sendMsg (ackMsg s m.src m.tag st) s1

def homeSem (m : Msg) (s : State) : State :=
  let st := if winOf m.addr == .host then stFormMismatch else homeStatus s m.addr 8
  if st != stOk then sendMsg (ackMsg s m.src m.tag st) s
  else
    let w := wordsOf 2 m.data
    let q := semAt 0 m.addr (m.param % 4) (w.getD 0 0) (w.getD 1 0) (commitFirst m.addr 8 s)
    match q.1 with
    | none => sendMsg (ackMsg s m.src m.tag stUncorrectable) q.2
    | some old => sendMsg { mtype := mtRDATA, dst := m.src, src := s.ownId, tag := m.tag, data := leBytes 8 old.toNat } q.2

/-- A watch is registered and the word reported at once (R161, R309). -/
def homeWatch (m : Msg) (s : State) : State :=
  let st := if winOf m.addr == .host then stFormMismatch else homeStatus s m.addr 8
  if st != stOk then sendMsg (ackMsg s m.src m.tag st) s
  else
    let s := commitFirst m.addr 8 s
    let s1 : State := { s with links := { s.links with
      watches := s.links.watches.filter (fun w => !(w.owner.isNone && w.src == m.src && w.tag == m.tag)) ++ [{ addr := m.addr, src := m.src, tag := m.tag, owner := none }] } }
    sendMsg { mtype := mtNOTIFY, dst := m.src, src := s.ownId, tag := m.tag, param := if s.poisoned m.addr 8 then stUncorrectable.toNat else 0, data := leBytes 8 (s.word m.addr).toNat } s1

/-- Pages of 4 KiB are zeroed, the slots whose masters lie in any of them first settled (R166, R266). -/
def homeZero (m : Msg) (s : State) : State :=
  let n := 4096 * m.param
  let st := if winOf m.addr == .host then stPermFault else homeStatus s m.addr n
  let s0 := if st == stOk && winOf m.addr == .near then settleRange m.addr n s else s
  let s1 := if st == stOk then (List.range m.param).foldl (fun s k => zeroHome (m.addr + 4096 * k) s) s0 else s
  sendMsg (ackMsg s m.src m.tag st) s1

/-! ### Their order (R308) -/

/-- Bytes of the home that a request touches. -/
def reqSize (m : Msg) : Nat := if m.mtype == mtRD then m.len else if m.mtype == mtWR then m.data.length else if m.mtype == mtZERO then 4096 * m.param else 8

/-- What a request does at its home. -/
def homeDo (m : Msg) (s : State) : State :=
  if m.mtype == mtRD then homeRd m s else if m.mtype == mtWR then homeWr m s else if m.mtype == mtSEM then homeSem m s
  else if m.mtype == mtWATCH then homeWatch m s else homeZero m s

/-- The home can perform a request now. -/
def homeCan (s : State) (m : Msg) : Bool := !homeWaits s m.addr (reqSize m) (m.mtype == mtSEM)

/-- The requests that wait at this home, tried in the order of their arrival: the first of each source goes once the home can perform it. -/
def homeGo : Nat → List Nat → State → State
  | 0, _, s => s
  | k + 1, stuck, s =>
    match s.links.homeQ.find? (fun x => !stuck.contains x.2.src) with
    | none => s
    | some x =>
      if homeCan s x.2 then homeGo k stuck (homeDo x.2 { s with links := { s.links with homeQ := s.links.homeQ.erase x } })
      else homeGo k (x.2.src :: stuck) s

/-- A request of another device arrives: it is performed, or waits at its home until it can be, after those of its source that wait
already. -/
def homeTake (port : Nat) (m : Msg) (s : State) : State :=
  if homeCan s m && s.links.homeQ.all (fun x => x.2.src != m.src) then homeDo m s
  else { s with links := { s.links with homeQ := s.links.homeQ ++ [(port, m)] } }

end Sys2Proof.Machine
end

