-- ==== Sys2Proof/Machine/Sfn.lean ====
section
/-! DEFINITION. The special functions of VSFN (R132, Table 4.7): the exact value enclosed in a narrow interval, the set of
results that the bound permits, and the choice among them, which the manual leaves open. -/
namespace Sys2Proof.Machine

/-- A real number enclosed: (a - err) 2^e to (a + err) 2^e. -/
structure Encl where
  a : Int
  e : Int
  err : Nat
  deriving DecidableEq, Repr

/-- ln 2, log2 e and 2/sqrt(pi) over 2^256, rounded down. -/
def kLn2 : Nat := 80260960185991308862233904206310070533990667611589946606122867505419956976171
def kLog2e : Nat := 167052672916848388242985626561247531987276682633131050150846402744536260568207
def k2SqrtPi : Nat := 130657381209852114387528029350014196574164286124850014242073919076264802271585

/-- Taylor terms of exp(y) for y over 2^128: the k-th term from the one before it. -/
def expGo : Nat → Nat → Nat → Nat → Nat
  | 0, _, _, _ => 0
  | n + 1, k, y, t => t + expGo n (k + 1) y (t * y / 2 ^ 128 / (k + 1))

/-- exp2 of z over 2^128. -/
def exp2Encl (z : Int) : Encl :=
  let n := z / 2 ^ 128
  let f := (z % 2 ^ 128).toNat
  ⟨(expGo 48 0 (f * kLn2 / 2 ^ 256) (2 ^ 128) : Nat), n - 128, 2 ^ 20⟩

/-- exp2 of x = m 2^e or -m 2^e near 0, below 2^-60: strictly on its side of 1, between 1 + x/2 and 1 + x. -/
def exp2Near (neg : Bool) (m : Nat) (e : Int) : Encl :=
  let y : Int := (m : Int) * 2 ^ (e + 300).toNat
  let c : Int := if neg then 2 ^ 302 - 3 * y else 2 ^ 302 + 3 * y
  ⟨c, -302, y.natAbs⟩

/-- A magnitude m 2^e over 2^128, rounded down. -/
def toFix (m : Nat) (e : Int) : Nat := if e + 128 ≥ 0 then m * 2 ^ (e + 128).toNat else m / 2 ^ (-(e + 128)).toNat

/-- Fraction bits of log2 of y over 2^256, y from 1 to 2, by squaring. -/
def log2Go : Nat → Nat → Nat → Nat
  | 0, _, acc => acc
  | n + 1, y, acc =>
    let y2 := y * y / 2 ^ 256
    if y2 ≥ 2 ^ 257 then log2Go n (y2 / 2) (2 * acc + 1) else log2Go n y2 (2 * acc)

def log2Encl (m : Nat) (e : Int) : Encl :=
  let l := Nat.log2 m
  ⟨((l : Int) + e) * 2 ^ 128 + (log2Go 128 (m * 2 ^ 256 / 2 ^ l) 0 : Nat), -128, 4⟩

def rcpEncl (m : Nat) (e : Int) : Encl := ⟨(2 ^ 200 / m : Nat), -200 - e, 1⟩

def rsqrtEncl (m : Nat) (e : Int) : Encl :=
  let m' := if e % 2 == 0 then m else 2 * m
  let e' := if e % 2 == 0 then e else e - 1
  ⟨(isqrt (2 ^ 400 / m') : Nat), -200 - e' / 2, 2⟩

/-- tanh of a positive magnitude: 1 - 2 / (exp(2x) + 1); near 0, strictly below x and less than a relative 2^-40 from it. -/
def tanhEncl (m : Nat) (e : Int) : Encl :=
  if (Nat.log2 m : Int) + e < -20 then ⟨(m * 2 ^ 320 - m * 2 ^ 279 : Nat), e - 320, m * 2 ^ 279 - 1⟩
  else if (Nat.log2 m : Int) + e ≥ 6 then ⟨2 ^ 128, -128, 1⟩
  else
    let t := exp2Encl (2 * toFix m e * kLog2e / 2 ^ 256 : Nat)
    let T := t.a.toNat * 2 ^ (t.e + 128).toNat
    ⟨2 ^ 128 - (2 ^ 257 / (T + 2 ^ 128) : Nat), -128, 2 ^ 40⟩

/-- The alternating series of erf: x and x^2 over 2^256, the term before division by 2n + 1. -/
def erfGo : Nat → Nat → Nat → Int → Int
  | 0, _, _, _ => 0
  | k + 1, n, x2, t => t / (2 * n + 1) + erfGo k (n + 1) x2 (-(t * x2 / 2 ^ 256 / (n + 1)))

def erfEncl (m : Nat) (e : Int) : Encl :=
  if (Nat.log2 m : Int) + e < -20 then
    let x2 := toFix (m * m) (2 * e)
    let a : Nat := m * k2SqrtPi * (2 ^ 128 - x2 / 3 + x2 * x2 / 2 ^ 128 / 10)
    ⟨a, e - 384, a / 2 ^ 110 + 1⟩
  else if (Nat.log2 m : Int) + e ≥ 3 then ⟨2 ^ 256, -256, 2 ^ 160⟩
  else
    let x := m * 2 ^ (e + 256).toNat
    ⟨erfGo 340 0 (x * x / 2 ^ 256) x * k2SqrtPi / 2 ^ 256, -256, 2 ^ 130⟩

/-- The pattern of a magnitude rounded toward zero, at most the largest finite one, and whether it was exact. -/
def FFmt.down (f : FFmt) (m : Nat) (e : Int) : Nat × Bool :=
  if m == 0 then (0, true)
  else if gtMag m e f.max.1 f.max.2 then (f.maxPat, false)
  else
    let q := unitExp f.mb f.qmin m e
    let n := (roundAt .rtz 0 m e q false).1
    (f.encode n q, eqMag m e n q)

/-- Ordinals number the finite patterns by value: the pattern, negative below zero. The largest at or below v 2^e. -/
def FFmt.ordFloor (f : FFmt) (v e : Int) : Int :=
  let d := f.down v.natAbs e
  if v ≥ 0 then d.1 else -(if d.2 then (d.1 : Int) else (d.1 : Int) + 1)
/-- The smallest ordinal at or above v 2^e. -/
def FFmt.ordCeil (f : FFmt) (v e : Int) : Int := -(f.ordFloor (-v) e)
def FFmt.ofOrd (f : FFmt) (o : Int) : Nat := if o < 0 then f.signed true o.natAbs else o.natAbs

/-- The ordinals within k ulp of the exact value, or within 2^ab when that is larger; `one` caps the magnitude at 1. The ulp is
that of the enclosure's end nearer zero: no enclosure reaches up to a power of two that its exact value is not below. -/
def permitted (f : FFmt) (x : Encl) (k : Nat) (ab : Option Int) (one : Bool) : Int × Int :=
  let u := unitExp f.mb f.qmin (x.a.natAbs - x.err) x.e
  let q0 := minInt x.e u
  let q := match ab with
    | some b => minInt q0 b
    | none => q0
  let w := k * 2 ^ (u - q).toNat
  let w := match ab with
    | some b => Nat.max w (2 ^ (b - q).toNat)
    | none => w
  let lo := f.ordCeil ((x.a - x.err) * 2 ^ (x.e - q).toNat - w) q
  let hi := f.ordFloor ((x.a + x.err) * 2 ^ (x.e - q).toNat + w) q
  let one' : Int := (f.bias * 2 ^ f.mb : Nat)
  if one then (lo, minInt hi one') else (lo, hi)

/-- The functions of VSFN in the order of their FN. -/
inductive Sfn where
  | exp2
  | log2
  | rsqrt
  | rcp
  | tanh
  | erf
  deriving DecidableEq, Repr

def Sfn.code : Sfn → Nat
  | .exp2 => 0
  | .log2 => 1
  | .rsqrt => 2
  | .rcp => 3
  | .tanh => 4
  | .erf => 5

/-- The bound of Table 4.7: ulps, and the absolute bound's exponent where it applies. -/
def sfnBound (g : Sfn) (f : FFmt) (x : Num) : Nat × Option Int :=
  let wide := f.w == 32
  match g with
  | .exp2 => (if wide then 2 else 1, none)
  | .log2 => (if wide then 2 else 1,
      if !numLt x (.fin false 3 (-2)) && !numLt (.fin false 3 (-1)) x then some (if wide then -22 else -11) else none)
  | .rsqrt => (1, none)
  | .rcp => (1, none)
  | .tanh => (if wide then 2 else 1, if wide then some (-24) else none)
  | .erf => (if wide then 2 else 1, if wide then some (-24) else none)

/-- The choice among the permitted results of a finite operand, as an ordinal; an overflow to infinity answers none. -/
def sfnChoose (g : Sfn) (f : FFmt) (x : Num) (pat : Nat) (y : Encl) (one : Bool) : Option Int :=
  let c := f.convFin .rne false 0 false y.a.natAbs y.e true
  if c.flags &&& fOF != 0 then none
  else
    let b := sfnBound g f x
    let r := permitted f y b.1 b.2 one
    some (r.1 + (Config.sfnPick g.code f.w pat : Int) % (r.2 - r.1 + 1))

/-- 2^k as a result of the format, when it is representable. -/
def FFmt.pow2 (f : FFmt) (k : Int) : Option Nat :=
  if k ≥ f.qmin && !gtMag 1 k f.max.1 f.max.2 then some (f.down 1 k).1 else none

/-- The magnitude is a power of two: its exponent. -/
def pow2Exp (m : Nat) (e : Int) : Option Int := if m == 2 ^ Nat.log2 m then some ((Nat.log2 m : Int) + e) else none

/-- The result of an ordinal choice: the pattern with its sign, UF when a non-zero value became zero, the overflow's
infinity when there is none. -/
def sfnOut (f : FFmt) (neg : Bool) (o : Option Int) : Nat × Flags4 :=
  match o with
  | none => (f.signed neg f.infPat, fOF ||| fNF)
  | some o => (if neg then (if o ≤ 0 then f.signed (o == 0) o.natAbs else f.signed true o.natAbs) else f.ofOrd o,
      if o == 0 then fUF else 0)

/-- VSFN on one element (R132, Table 4.7). -/
def sfnElem (g : Sfn) (f : FFmt) (p : Nat) : Nat × Flags4 :=
  let x := f.decode p
  let mag := p % 2 ^ (f.w - 1)
  match g, x with
  | _, .nan => (f.nanPat, fNF)
  | .exp2, .inf neg => if neg then (0, 0) else (f.infPat, fNF)
  | .exp2, .fin neg m e =>
    if m == 0 then (((f.pow2 0).getD 0), 0)
    else
      let big := (Nat.log2 m : Int) + e ≥ 12
      if big then (if neg then (0, fUF) else (f.infPat, fOF ||| fNF))
      else
        let whole : Option Int := if e ≥ 0 then some (sgnMul neg m * 2 ^ e.toNat)
          else if m % 2 ^ (-e).toNat == 0 then some (sgnMul neg (m / 2 ^ (-e).toNat)) else none
        match whole.bind f.pow2 with
        | some r => (r, 0)
        | none =>
          let z : Int := if neg then -(toFix m e : Int) else toFix m e
          let y := if (Nat.log2 m : Int) + e < -60 then exp2Near neg m e else exp2Encl z
          sfnOut f false (sfnChoose g f x p y false)
  | .log2, .inf neg => if neg then (f.nanPat, fNV ||| fNF) else (f.infPat, fNF)
  | .log2, .fin neg m e =>
    if m == 0 then (f.signed true f.infPat, fNF)
    else if neg then (f.nanPat, fNV ||| fNF)
    else match pow2Exp m e with
      | some k => (f.conv .rne false 0 (finOf k 0 false)).pat |> fun r => (r, 0)
      | none =>
        match sfnChoose g f x p (log2Encl m e) false with
        | none => (f.infPat, fOF ||| fNF)
        | some o => (f.ofOrd o, if o == 0 then fUF else 0)
  | .rsqrt, .inf neg => if neg then (f.nanPat, fNV ||| fNF) else (0, 0)
  | .rsqrt, .fin neg m e =>
    if m == 0 then (f.signed neg f.infPat, fNF)
    else if neg then (f.nanPat, fNV ||| fNF)
    else
      let ex := (pow2Exp m e).bind (fun k => if k % 2 == 0 then f.pow2 (-(k / 2)) else none)
      match ex with
      | some r => (r, 0)
      | none => sfnOut f false (sfnChoose g f x p (rsqrtEncl m e) false)
  | .rcp, .inf neg => (f.signed neg 0, 0)
  | .rcp, .fin neg m e =>
    if m == 0 then (f.signed neg f.infPat, fNF)
    else
      match (pow2Exp m e).bind (fun k => f.pow2 (-k)) with
      | some r => (f.signed neg r, 0)
      | none => sfnOut f neg (sfnChoose g f x mag (rcpEncl m e) false)
  | .tanh, .inf neg => (f.signed neg ((f.pow2 0).getD 0), 0)
  | .tanh, .fin neg m e =>
    if m == 0 then (f.signed neg 0, 0) else sfnOut f neg (sfnChoose g f x mag (tanhEncl m e) true)
  | .erf, .inf neg => (f.signed neg ((f.pow2 0).getD 0), 0)
  | .erf, .fin neg m e =>
    if m == 0 then (f.signed neg 0, 0) else sfnOut f neg (sfnChoose g f x mag (erfEncl m e) true)

end Sys2Proof.Machine
end

