-- ==== Sys2Proof/Machine/Vector.lean ====
section
/-! DEFINITION. The vector instructions (chapter 4, Table 6.8). -/
namespace Sys2Proof.Machine

/-! ### Elements, immediates, masks -/

/-- Width of the elements that an EF code names (R110). -/
def efWidth (ef : Nat) : Nat := if ef == 1 || ef == 2 then 16 else 32
/-- The floating-point format of EF; none for 32-bit lanes (Table 6.2). -/
def efFmt : Nat → Option FFmt
  | 0 => some fF32
  | 1 => some fF16
  | 2 => some fBF16
  | _ => none

/-- Element e of width w of a register (R110). -/
def elem (w : Nat) (v : VReg) (e : Nat) : Nat := (v.toNat >>> (w * e)) % 2 ^ w
/-- A register from its elements of width w. -/
def ofElems (w : Nat) (l : List Nat) : VReg := BitVec.ofNat 4096 (l.foldr (fun x acc => x % 2 ^ w + acc * 2 ^ w) 0)

/-- The immediate as an element of the operation's format (Table 4.2). -/
def VForm_imm (f : VForm) : Nat :=
  match f.ef.toNat, f.x with
  | 0, none => f.imm.toNat * 2 ^ 16
  | 0, some x => x.toNat % 2 ^ 32
  | 3, none => (f.imm.signExtend 32).toNat
  | 3, some x => x.toNat % 2 ^ 32
  | _, none => f.imm.toNat
  | _, some x => x.toNat % 2 ^ 16

/-- Element e of the last source: the register, or the immediate when I = 1 (R120, R174). -/
def lastSrc (f : VForm) (v : VReg) (e : Nat) : Nat := if f.i then VForm_imm f else elem (efWidth f.ef.toNat) v e

/-- A long immediate goes with I = 1 only (Table 6.4). -/
def longImmV (f : VForm) : Bool := f.x.isNone || f.i

/-- The result of an element-wise operation under its mask (R129, R130, R131): a masked element computes nothing. -/
def maskedElems (f : VForm) (t : Thread) (op : Nat → Nat × Flags4) : List (Nat × Flags4) :=
  let w := efWidth f.ef.toNat
  (List.range (4096 / w)).map (fun e =>
    if mbit (t.mreg f.mm.toNat) (e * w / 32) then op e else (if f.z then 0 else elem w (t.vreg f.vd.toNat) e, 0))

/-! ### Issue -/

/-- The beats that an instruction occupies the vector engine are counted, and serve the thread's cue (Table 17.4, R387). -/
def vecBeats (r : TRef) (n : Nat) (s : State) : State :=
  let t := s.thread r
  serveCue t.reel t.cueSlot (fun c => { c with servVec := mput c.servVec r.tile (mget 0 c.servVec r.tile + n) }) (cntFix r.tile 2 n s)

/-- A vector instruction that changes its thread's registers, with the flags it raises. -/
def vecDone (r : TRef) (f : VForm) (beats : Nat) (g : Thread → Thread × Flags4) (s : State) : State :=
  finishWith r f.x (fun t => let y := g t; { y.1 with flags := y.1.flags ||| y.2 }) (vecBeats r beats s)

/-- Registers of a vector instruction with sources `vs`. -/
def vRegs (f : VForm) (vs : List Nat) : List Reg := [.v f.vd.toNat, .m f.mm.toNat] ++ vs.map .v
/-- Sources of an operation on VA and a last source VB. -/
def srcsAB (f : VForm) : List Nat := if f.i then [f.va.toNat] else [f.va.toNat, f.vb.toNat]
/-- Sources of an operation whose only source, VA, is its last. -/
def srcsA (f : VForm) : List Nat := if f.i then [] else [f.va.toNat]

/-- An element-wise operation writing VD. -/
def elementwise (i : Instr) (w : Who) (f : VForm) (srcs : List Nat) (ok : Bool) (op : Thread → Nat → Nat × Flags4) (s : State) : Res :=
  tOnly w i f.x (longImmV f) (vRegs f srcs) (fun r s =>
    if !ok then finish r f.x stFormMismatch s
    else vecDone r f 1 (fun t =>
      let l := maskedElems f t (op t)
      (t.setV f.vd.toNat (ofElems (efWidth f.ef.toNat) (l.map (fun x => x.1))), orFlags (l.map (fun x => x.2)))) s) s

/-! ### Arithmetic (R117, R118, R74) -/

/-- A floating-point operation of two sources. -/
def vecFp2 (i : Instr) (w : Who) (f : VForm) (op : FFmt → Nat → Nat → Nat × Flags4) (s : State) : Res :=
  elementwise i w f (srcsAB f) (efFmt f.ef.toNat).isSome (fun t e =>
    match efFmt f.ef.toNat with
    | none => (0, 0)
    | some g => op g (elem g.w (t.vreg f.va.toNat) e) (lastSrc f (t.vreg f.vb.toNat) e)) s

def fpAdd (g : FFmt) (a b : Nat) : Nat × Flags4 := roundResult g (numAdd (g.decode a) (g.decode b))
def fpSub (g : FFmt) (a b : Nat) : Nat × Flags4 := roundResult g (numAdd (g.decode a) (numNeg (g.decode b)))
def fpMul (g : FFmt) (a b : Nat) : Nat × Flags4 := roundResult g (numMul (g.decode a) (g.decode b))
/-- A maximum or minimum: the chosen operand's pattern, the canonical NaN of two NaNs, no flag (R74). -/
def fpPick (pickY : Num → Num → Bool) (g : FFmt) (a b : Nat) : Nat × Flags4 :=
  let x := g.decode a
  let y := g.decode b
  (if x.isNan && y.isNan then g.nanPat else if pickY x y then b else a, 0)

def execVadd (w : Who) (f : VForm) (s : State) : Res := vecFp2 (.vadd w f) w f fpAdd s
def execVsub (w : Who) (f : VForm) (s : State) : Res := vecFp2 (.vsub w f) w f fpSub s
def execVmul (w : Who) (f : VForm) (s : State) : Res := vecFp2 (.vmul w f) w f fpMul s
def execVmax (w : Who) (f : VForm) (s : State) : Res := vecFp2 (.vmax w f) w f (fpPick maxPicksY) s
def execVmin (w : Who) (f : VForm) (s : State) : Res := vecFp2 (.vmin w f) w f (fpPick minPicksY) s

def execVfma (w : Who) (f : VForm) (s : State) : Res :=
  elementwise (.vfma w f) w f ([f.va.toNat, f.vb.toNat] ++ (if f.i then [] else [f.vc.toNat])) (efFmt f.ef.toNat).isSome
    (fun t e =>
      match efFmt f.ef.toNat with
      | none => (0, 0)
      | some g => roundResult g (numFma (g.decode (elem g.w (t.vreg f.va.toNat) e)) (g.decode (elem g.w (t.vreg f.vb.toNat) e))
          (g.decode (lastSrc f (t.vreg f.vc.toNat) e)))) s

/-- Change of the sign bit alone (R117). -/
def vecSign (i : Instr) (w : Who) (f : VForm) (op : Nat → Nat → Nat) (s : State) : Res :=
  elementwise i w f (srcsA f) (efFmt f.ef.toNat).isSome (fun t e => (op (efWidth f.ef.toNat) (lastSrc f (t.vreg f.va.toNat) e), 0)) s

def execVabs (w : Who) (f : VForm) (s : State) : Res := vecSign (.vabs w f) w f (fun n x => x % 2 ^ (n - 1)) s
def execVneg (w : Who) (f : VForm) (s : State) : Res := vecSign (.vneg w f) w f (fun n x => (x + 2 ^ (n - 1)) % 2 ^ n) s

def execVmov (w : Who) (f : VForm) (s : State) : Res :=
  elementwise (.vmov w f) w f (srcsA f) true (fun t e => (lastSrc f (t.vreg f.va.toNat) e, 0)) s

/-- VSEL: the mask MB chooses, by the lane the element lies in. -/
def execVsel (w : Who) (f : VForm) (s : State) : Res :=
  elementwise (.vsel w f) w f (srcsAB f) true (fun t e =>
    let n := efWidth f.ef.toNat
    (if mbit (t.mreg f.mb.toNat) (e * n / 32) then elem n (t.vreg f.va.toNat) e else lastSrc f (t.vreg f.vb.toNat) e, 0)) s

/-! ### Compare (R75, R119) -/

/-- VCMP: bit i of mask VD from lane i, or from element 2i + H of a 16-bit format. -/
def vecCmp (i : Instr) (w : Who) (f : VForm) (p : Num → Num → Bool) (s : State) : Res :=
  tOnly w i f.x (longImmV f) ([.m (f.vd.toNat % 8), .m f.mm.toNat] ++ (srcsAB f).map .v) (fun r s =>
    match efFmt f.ef.toNat with
    | none => finish r f.x stFormMismatch s
    | some g => vecDone r f 1 (fun t =>
        let bit := fun k =>
          let e := if g.w == 32 then k else 2 * k + b2n f.h
          if mbit (t.mreg f.mm.toNat) k then
            p (g.decode (elem g.w (t.vreg f.va.toNat) e)) (g.decode (lastSrc f (t.vreg f.vb.toNat) e))
          else !f.z && mbit (t.mreg (f.vd.toNat % 8)) k
        (t.setM (f.vd.toNat % 8) (BitVec.ofNat 128 ((List.range 128).foldr (fun k acc => b2n (bit k) + 2 * acc) 0)), 0)) s) s

def execVcmpEq (w : Who) (f : VForm) (s : State) : Res := vecCmp (.vcmpEq w f) w f numEq s
def execVcmpNe (w : Who) (f : VForm) (s : State) : Res := vecCmp (.vcmpNe w f) w f (fun x y => !numEq x y) s
def execVcmpLt (w : Who) (f : VForm) (s : State) : Res := vecCmp (.vcmpLt w f) w f numLt s
def execVcmpLe (w : Who) (f : VForm) (s : State) : Res := vecCmp (.vcmpLe w f) w f (fun x y => numLt x y || numEq x y) s
def execVcmpGt (w : Who) (f : VForm) (s : State) : Res := vecCmp (.vcmpGt w f) w f (fun x y => numLt y x) s
def execVcmpGe (w : Who) (f : VForm) (s : State) : Res := vecCmp (.vcmpGe w f) w f (fun x y => numLt y x || numEq x y) s
def execVcmpUn (w : Who) (f : VForm) (s : State) : Res := vecCmp (.vcmpUn w f) w f (fun x y => x.isNan || y.isNan) s

/-! ### Bit operations on 32-bit lanes (R110) -/

def vecBit (i : Instr) (w : Who) (f : VForm) (op : W32 → W32 → W32) (s : State) : Res :=
  elementwise i w f (srcsAB f) (f.ef.toNat == 3) (fun t e =>
    ((op (BitVec.ofNat 32 (lane (t.vreg f.va.toNat) e)) (BitVec.ofNat 32 (lastSrc f (t.vreg f.vb.toNat) e))).toNat, 0)) s

def execVand (w : Who) (f : VForm) (s : State) : Res := vecBit (.vand w f) w f (fun a b => a &&& b) s
def execVor (w : Who) (f : VForm) (s : State) : Res := vecBit (.vor w f) w f (fun a b => a ||| b) s
def execVxor (w : Who) (f : VForm) (s : State) : Res := vecBit (.vxor w f) w f (fun a b => a ^^^ b) s
def execVshl (w : Who) (f : VForm) (s : State) : Res := vecBit (.vshl w f) w f (fun a b => a <<< (b.toNat % 32)) s
def execVshr (w : Who) (f : VForm) (s : State) : Res := vecBit (.vshr w f) w f (fun a b => a >>> (b.toNat % 32)) s
def execViadd (w : Who) (f : VForm) (s : State) : Res := vecBit (.viadd w f) w f (fun a b => a + b) s

/-! ### Masks, lane transfer, shuffle -/

/-- An operation that has no immediate source: FORM_MISMATCH when I = 1 (R174). -/
def vecPlain (i : Instr) (w : Who) (f : VForm) (regs : List Reg) (k : TRef → State → State) (s : State) : Res :=
  tOnly w i f.x f.x.isNone regs (fun r s => if f.i then finish r f.x stFormMismatch s else k r s) s

def vecMask (i : Instr) (w : Who) (f : VForm) (op : MReg → MReg → MReg) (s : State) : Res :=
  vecPlain i w f [.m (f.vd.toNat % 8), .m (f.va.toNat % 8), .m (f.vb.toNat % 8)]
    (fun r => vecDone r f 1 (fun t => (t.setM (f.vd.toNat % 8) (op (t.mreg (f.va.toNat % 8)) (t.mreg (f.vb.toNat % 8))), 0))) s

def execVmand (w : Who) (f : VForm) (s : State) : Res := vecMask (.vmand w f) w f (fun a b => a &&& b) s
def execVmor (w : Who) (f : VForm) (s : State) : Res := vecMask (.vmor w f) w f (fun a b => a ||| b) s
def execVmxor (w : Who) (f : VForm) (s : State) : Res := vecMask (.vmxor w f) w f (fun a b => a ^^^ b) s
def execVmnot (w : Who) (f : VForm) (s : State) : Res :=
  vecPlain (.vmnot w f) w f [.m (f.vd.toNat % 8), .m (f.va.toNat % 8)]
    (fun r => vecDone r f 1 (fun t => (t.setM (f.vd.toNat % 8) (~~~ t.mreg (f.va.toNat % 8)), 0))) s

/-- Count of set bits of a mask. -/
def maskCount (m : MReg) : Nat := ((List.range 128).filter (mbit m)).length

def execVmpop (w : Who) (f : VForm) (s : State) : Res :=
  vecPlain (.vmpop w f) w f [.s f.sr.toNat, .m (f.va.toNat % 8)]
    (fun r => vecDone r f 1 (fun t => (t.setS f.sr.toNat (BitVec.ofNat 64 (maskCount (t.mreg (f.va.toNat % 8)))), 0))) s

/-- A lane transfer takes EF 0b11 or any other: its rows name no element format. -/
def execVins (w : Who) (f : VForm) (s : State) : Res :=
  vecPlain (.vins w f) w f (vRegs f [] ++ [.s f.sr.toNat]) (fun r => vecDone r f 1 (fun t =>
    let j := f.imm.toNat % 128
    let v := t.vreg f.vd.toNat
    let x := if mbit (t.mreg f.mm.toNat) j then (t.sreg f.sr.toNat).toNat % 2 ^ 32 else if f.z then 0 else lane v j
    (t.setV f.vd.toNat (ofLanes ((lanes v).set j x)), 0))) s

def execVext (w : Who) (f : VForm) (s : State) : Res :=
  vecPlain (.vext w f) w f [.s f.sr.toNat, .v f.va.toNat, .m f.mm.toNat] (fun r => vecDone r f 1 (fun t =>
    let j := f.imm.toNat % 128
    (if mbit (t.mreg f.mm.toNat) j then t.setS f.sr.toNat (BitVec.ofNat 64 (lane (t.vreg f.va.toNat) j))
     else if f.z then t.setS f.sr.toNat 0 else t, 0))) s

def execVidx (w : Who) (f : VForm) (s : State) : Res :=
  vecPlain (.vidx w f) w f (vRegs f []) (fun r => vecDone r f 1 (fun t =>
    (t.setV f.vd.toNat (maskLanes f.z (t.mreg f.mm.toNat) (t.vreg f.vd.toNat) (List.range 128)), 0))) s

/-- Source lane that destination lane i receives (Table 4.4), with HSWAP exchanging halves. -/
def shufLane (pat par : Nat) (v : VReg) (i : Nat) : Nat :=
  match pat with
  | 0 => lane v (Nat.xor i par)
  | 1 => lane v ((i + par) % 128)
  | 2 => lane v par
  | _ => lane v i / 2 ^ 16 + (lane v i % 2 ^ 16) * 2 ^ 16

def execVshf (w : Who) (f : VForm) (s : State) : Res :=
  vecPlain (.vshf w f) w f (vRegs f [f.va.toNat]) (fun r s =>
    let pat := f.imm.toNat % 4
    let par := natBits f.imm.toNat 8 2
    if pat == 0 && !([1, 2, 4, 8, 16, 32, 64].contains par) then finish r f.x stFormMismatch s
    else vecDone r f 1 (fun t =>
      (t.setV f.vd.toNat (maskLanes f.z (t.mreg f.mm.toNat) (t.vreg f.vd.toNat)
        ((List.range 128).map (shufLane pat par (t.vreg f.va.toNat)))), 0)) s) s

/-! ### Special functions (R132) -/

/-- VSFN occupies the special-function unit 4 beats in F32 and 8 in a 16-bit format (Table 4.1). -/
def vecSfn (i : Instr) (w : Who) (f : VForm) (g : Sfn) (s : State) : Res :=
  vecPlain i w f (vRegs f [f.va.toNat]) (fun r s =>
    match efFmt f.ef.toNat with
    | none => finish r f.x stFormMismatch s
    | some e =>
      let beats := if e.w == 32 then 4 else 8
      vecDone r f beats (fun t =>
        let l := maskedElems f t (fun k => sfnElem g e (elem e.w (t.vreg f.va.toNat) k))
        (t.setV f.vd.toNat (ofElems e.w (l.map (fun x => x.1))), orFlags (l.map (fun x => x.2))))
        (cntPmc r.tile 0x06 (s.thread r).reel beats s)) s

def execVsfnExp2 (w : Who) (f : VForm) (s : State) : Res := vecSfn (.vsfnExp2 w f) w f .exp2 s
def execVsfnLog2 (w : Who) (f : VForm) (s : State) : Res := vecSfn (.vsfnLog2 w f) w f .log2 s
def execVsfnRsqrt (w : Who) (f : VForm) (s : State) : Res := vecSfn (.vsfnRsqrt w f) w f .rsqrt s
def execVsfnRcp (w : Who) (f : VForm) (s : State) : Res := vecSfn (.vsfnRcp w f) w f .rcp s
def execVsfnTanh (w : Who) (f : VForm) (s : State) : Res := vecSfn (.vsfnTanh w f) w f .tanh s
def execVsfnErf (w : Who) (f : VForm) (s : State) : Res := vecSfn (.vsfnErf w f) w f .erf s

/-! ### Conversion (R122 to R124, R130) -/

/-- A side of a VCVT: a wide format, or a narrow one. -/
inductive Side where
  | wide (g : FFmt)
  | narrow (e : Elem)
  deriving DecidableEq, Repr

def sideOf (c : Nat) : Option Side :=
  match elemOf c with
  | some (.fl g) => if g.w ≥ 16 then some (.wide g) else some (.narrow (.fl g))
  | some .i4 => none
  | some e => some (.narrow e)
  | none => none

/-- A pair of codes that Table 4.3 lists, with SCALED as the narrow side takes it (R124). -/
def cvtOk (f : VForm) : Option (Side × Side) :=
  let scaled := bitOf f.imm 8
  let narrowOk := fun (e : Elem) => e != .l8 || scaled
  match sideOf (natBits f.imm.toNat 3 0), sideOf (natBits f.imm.toNat 7 4) with
  | some (.wide a), some (.wide b) => if a != b && !scaled then some (.wide a, .wide b) else none
  | some (.wide a), some (.narrow e) => if narrowOk e then some (.wide a, .narrow e) else none
  | some (.narrow e), some (.wide b) => if narrowOk e then some (.narrow e, .wide b) else none
  | _, _ => none

/-- Width of a side's elements. -/
def Side.w : Side → Nat
  | .wide g => g.w
  | .narrow e => e.width

/-- Position of element j of a side: element 128 H + j of a 16-bit side (R130). -/
def Side.at_ (x : Side) (h : Bool) (j : Nat) : Nat :=
  match x with
  | .wide g => if g.w == 16 then 128 * b2n h + j else j
  | .narrow _ => j

/-- The scale byte of element j's group in a scalar register (R123). -/
def scaleByte (sc : W64) (g j : Nat) : Nat := natBits sc.toNat (8 * (j / g) + 7) (8 * (j / g))

/-- Exact value of source element j, with the flags of its decoding into F32 under a scale (R58, R123). -/
def cvtSrc (f : VForm) (src : Side) (t : Thread) (j : Nat) : Num × Flags4 :=
  let p := elem src.w (t.vreg f.va.toNat) (src.at_ f.h j)
  match src with
  | .wide g => (g.decode p, 0)
  | .narrow e =>
    if bitOf f.imm 8 then
      let sc := scaleByte (t.sreg f.sr.toNat) (gszOf (natBits f.imm.toNat 10 9)) j
      let d := decodeScaled e sc p
      (fF32.decode d.1, if (scaledValue e sc p).isFin then d.2 else 0)
    else (e.decode p, 0)

/-- The elements of group k that the mask leaves. -/
def cvtGroup (f : VForm) (t : Thread) (g k : Nat) : List Nat :=
  (List.range 128).filter (fun j => j / g == k && mbit (t.mreg f.mm.toNat) j)

/-- Scale byte of a group converted to a narrow format (R60, R61, R130). -/
def cvtScale (e : Elem) (vals : List Num) : Nat :=
  if vals.isEmpty then 0x7F else if groupBad e vals then 0xFF else scaleCode e vals

/-- The conversion of element j, as a function of its draw. -/
def cvtElem (f : VForm) (src dst : Side) (t : Thread) (scales : List Nat) (j : Nat) (u : Nat) : Conv :=
  let x := cvtSrc f src t j
  let m := rmodeOf f.mb.toNat
  let sat := satOf f.mb.toNat
  if !mbit (t.mreg f.mm.toNat) j then
    ⟨if f.z then 0 else elem dst.w (t.vreg f.vd.toNat) (dst.at_ f.h j), 0, false⟩
  else
    let c := match dst with
      | .wide g => g.conv m (sat && !(g.w == 32 && bitOf f.imm 8)) u x.1
      | .narrow e =>
        if bitOf f.imm 8 then
          let sc := scales.getD (j / gszOf (natBits f.imm.toNat 10 9)) 0x7F
          if sc == 0xFF then ⟨0, 0, false⟩ else e.conv m sat u ((sc : Int) - 127) x.1
        else e.conv m sat u 0 x.1
    { c with flags := c.flags ||| x.2 }

/-- The destination register: a narrow run packed from byte 0 with zeros above it, or 128 elements of a wide format, the
other elements of a 16-bit register unchanged. -/
def cvtReg (dst : Side) (h : Bool) (old : VReg) (l : List Nat) : VReg :=
  match dst with
  | .narrow e => ofElems e.width l
  | .wide g =>
    if g.w == 32 then ofElems 32 l
    else ofElems 16 ((List.range 256).map (fun k => if k / 128 == b2n h then l.getD (k % 128) 0 else elem 16 old k))

/-- Issue beats of a VCVT (Table 4.1). -/
def cvtBeats (f : VForm) (src dst : Side) : Nat :=
  match src, dst with
  | .wide _, .wide _ => 1
  | _, _ => if bitOf f.imm 8 then 3 else 2

/-- The thread converts 128 elements: data and flags, with SR taking the scales of a block-scaled narrow result. -/
def cvtRun (r : TRef) (f : VForm) (src dst : Side) (s : State) : State :=
  let t := s.thread r
  let g := gszOf (natBits f.imm.toNat 10 9)
  let groups := match dst with
    | .narrow _ => if bitOf f.imm 8 then ceilDiv 128 g else 0
    | .wide _ => 0
  let gvals := (List.range groups).map (fun k => (cvtGroup f t g k).map (fun j => (cvtSrc f src t j).1))
  let scales := match dst with
    | .narrow e => gvals.map (cvtScale e)
    | .wide _ => []
  let gflags := match dst with
    | .narrow e => orFlags (gvals.map (fun v => if groupBad e v then groupBadFlags v else 0))
    | .wide _ => 0
  let c := convEach (siteVector r.tile) t.reel ((List.range 128).map (cvtElem f src dst t scales)) s
  vecDone r f (cvtBeats f src dst) (fun t =>
    let t1 := t.setV f.vd.toNat (cvtReg dst f.h (t.vreg f.vd.toNat) (c.1.map (fun x => x.pat)))
    (if groups == 0 then t1 else t1.setS f.sr.toNat (BitVec.ofNat 64 (leNat (scales.map (BitVec.ofNat 8)))),
      gflags ||| orFlags (c.1.map (fun x => x.flags)))) c.2

def execVcvt (w : Who) (f : VForm) (s : State) : Res :=
  vecPlain (.vcvt w f) w f (vRegs f [f.va.toNat] ++ [.s f.sr.toNat]) (fun r s =>
    match cvtOk f with
    | none => finish r f.x stFormMismatch s
    | some (src, dst) => cvtRun r f src dst s) s

end Sys2Proof.Machine
end

