-- ==== Sys2Proof/Machine/Resume.lean ====
section
/-! DEFINITION. The issue of held instructions: what a thread waits for has come, and the instruction that it holds is issued
again (R143). -/
namespace Sys2Proof.Machine

/-- Registers of a scalar load, and of a scalar store. -/
def ldxRegs (f : SForm) : List Reg := [.s f.rd.toNat, .s f.ra.toNat]
def stxRegs (f : SForm) : List Reg := [.s f.rb.toNat, .s f.ra.toNat]

/-- What an instruction of a tile thread does when it issues; other commands are never held. -/
def reissueRes (i : Instr) (s : State) : Res :=
  match i with
  | .nop w f => execNop w f s
  | .endT w f => execEndT w f s
  | .add w f => execAdd w f s
  | .sub w f => execSub w f s
  | .and w f => execAnd w f s
  | .or w f => execOr w f s
  | .xor w f => execXor w f s
  | .sll w f => execSll w f s
  | .srl w f => execSrl w f s
  | .sra w f => execSra w f s
  | .slt w f => execSlt w f s
  | .sltu w f => execSltu w f s
  | .min w f => execMin w f s
  | .max w f => execMax w f s
  | .mul w f => execMul w f s
  | .mulhu w f => execMulhu w f s
  | .beq w f => execBeq w f s
  | .bne w f => execBne w f s
  | .blt w f => execBlt w f s
  | .bge w f => execBge w f s
  | .bltu w f => execBltu w f s
  | .bgeu w f => execBgeu w f s
  | .j w f => execJ w f s
  | .jr w f => execJr w f s
  | .csrr w f => execCsrr w f s
  | .csrw w f => execCsrw w f s
  | .ldxB w f => tOnly w (.ldxB w f) f.x true (ldxRegs f) (ldxScalarT (.ldxB w f) f 1) s
  | .ldxH w f => tOnly w (.ldxH w f) f.x true (ldxRegs f) (ldxScalarT (.ldxH w f) f 2) s
  | .ldxW w f => tOnly w (.ldxW w f) f.x true (ldxRegs f) (ldxScalarT (.ldxW w f) f 4) s
  | .ldxL w f => tOnly w (.ldxL w f) f.x true (ldxRegs f) (ldxScalarT (.ldxL w f) f 8) s
  | .ldxD w f => execLdxD w f s
  | .stxB w f => tOnly w (.stxB w f) f.x true (stxRegs f) (stxScalarT (.stxB w f) f 1) s
  | .stxH w f => tOnly w (.stxH w f) f.x true (stxRegs f) (stxScalarT (.stxH w f) f 2) s
  | .stxW w f => tOnly w (.stxW w f) f.x true (stxRegs f) (stxScalarT (.stxW w f) f 4) s
  | .stxL w f => tOnly w (.stxL w f) f.x true (stxRegs f) (stxScalarT (.stxL w f) f 8) s
  | .stxD w f => execStxD w f s
  | .ldxS w f => execLdxS w f s
  | .stxS w f => execStxS w f s
  | .ldxV w f => execLdxV w f s
  | .ldxVI w f => execLdxVI w f s
  | .stxV w f => execStxV w f s
  | .stxVI w f => execStxVI w f s
  | .semAdd w f => tOnly w (.semAdd w f) f.x (longImmOk f) (semRegs f) (semT (.semAdd w f) f 0) s
  | .semSwap w f => tOnly w (.semSwap w f) f.x (longImmOk f) (semRegs f) (semT (.semSwap w f) f 1) s
  | .semCas w f => tOnly w (.semCas w f) f.x (longImmOk f) (semRegs f) (semT (.semCas w f) f 2) s
  | .semRead w f => tOnly w (.semRead w f) f.x (longImmOk f) (semRegs f) (semT (.semRead w f) f 3) s
  | .waitTok w f => execWaitTok w f s
  | .waitTokall w f => execWaitTokall w f s
  | .waitMem w f => execWaitMem w f s
  | .waitTime w f => execWaitTime w f s
  | .bar w f => execBar w f s
  | .dset w f => execDset w f s
  | .cue w f => execCue w f s
  | .endcue w f => execEndcue w f s
  | .phase w f => execPhase w f s
  | .clap w f => execClap w f s
  | .upd w f => execUpd w f s
  | .rdw w f => execRdw w f s
  | .coll w f => execColl w f s
  | .perm w f => execPerm w f s
  | .scrub w f => execScrub w f s
  | .toll w f => execToll w f s
  | .mmaOpen w f => execMmaOpen w f s
  | .mmaCont w f => execMmaCont w f s
  | .rsc w f => execRsc w f s
  | .cpyl w f => execCpyl w f s
  | .vadd w f => execVadd w f s
  | .vsub w f => execVsub w f s
  | .vmul w f => execVmul w f s
  | .vmax w f => execVmax w f s
  | .vmin w f => execVmin w f s
  | .vfma w f => execVfma w f s
  | .vabs w f => execVabs w f s
  | .vneg w f => execVneg w f s
  | .vmov w f => execVmov w f s
  | .vsel w f => execVsel w f s
  | .vcmpEq w f => execVcmpEq w f s
  | .vcmpNe w f => execVcmpNe w f s
  | .vcmpLt w f => execVcmpLt w f s
  | .vcmpLe w f => execVcmpLe w f s
  | .vcmpGt w f => execVcmpGt w f s
  | .vcmpGe w f => execVcmpGe w f s
  | .vcmpUn w f => execVcmpUn w f s
  | .vand w f => execVand w f s
  | .vor w f => execVor w f s
  | .vxor w f => execVxor w f s
  | .vshl w f => execVshl w f s
  | .vshr w f => execVshr w f s
  | .viadd w f => execViadd w f s
  | .vmand w f => execVmand w f s
  | .vmor w f => execVmor w f s
  | .vmxor w f => execVmxor w f s
  | .vmnot w f => execVmnot w f s
  | .vmpop w f => execVmpop w f s
  | .vins w f => execVins w f s
  | .vext w f => execVext w f s
  | .vidx w f => execVidx w f s
  | .vshf w f => execVshf w f s
  | .vcvt w f => execVcvt w f s
  | .vsfnExp2 w f => execVsfnExp2 w f s
  | .vsfnLog2 w f => execVsfnLog2 w f s
  | .vsfnRsqrt w f => execVsfnRsqrt w f s
  | .vsfnRcp w f => execVsfnRcp w f s
  | .vsfnTanh w f => execVsfnTanh w f s
  | .vsfnErf w f => execVsfnErf w f s
  | _ => .next s

/-- The state that an outcome goes on with. -/
def Res.state (d : State) (r : Res) : State :=
  match r with
  | .next s => s
  | _ => d

def reissue (i : Instr) (s : State) : State := (reissueRes i s).state s

/-- Whether a held instruction is worth issuing again. A CUE, an ENDCUE and a WAIT end by their own commands. -/
def heldMayGo (s : State) (r : TRef) (w : Why) : Bool :=
  match w with
  | .cue => false
  | .endcue => false
  | .wait => false
  | .page p => s.xl.bad.any (fun b => b.1 == p) || !s.xl.walks.any (fun q => pageOf q.va == p)
  | .desc => !asking s r
  | .fwSwitch => !s.rep.fwSwitching
  | _ => true

/-- A thread that holds an instruction issues it again; one that is to halt for debug does so after that instruction (R463). -/
def wakeThread (r : TRef) (s : State) : State :=
  let t := s.thread r
  match t.held with
  | none => s
  | some h =>
    if !t.live || t.halted || t.wait.isSome || s.sec.retention || !heldMayGo s r h.why then s
    else
      let s1 := s.modThread r (fun t => { t with held := none, dbgHalt := false })
      if !canIssue s1 r then s
      else
        let s2 := (fun s2 => if h.why == .bar && !(s2.thread r).waitsBar then foleyLeave r.tile s2 else s2) (reissue h.i s1)
        if t.dbgHalt && (s2.thread r).live then s2.modThread r (fun t => { t with dbgHalt := true }) else s2

/-- Threads that hold an instruction: the tiles in order of their numbers (DESIGN CHOICE, log 47), the threads of each in rotating order
from the one after the last that it granted (R143). -/
def heldThreads (s : State) : List TRef :=
  s.tiles.flatMap (fun T =>
    let l := (T.2.threads.filter (fun t => t.2.held.isSome)).map (fun t => TRef.mk T.1 t.1)
    l.filter (fun r => T.2.lastIssue < r.th) ++ l.filter (fun r => r.th ≤ T.2.lastIssue))

/-- What has changed lets copies go on, held instructions issue, and other devices' requests that wait here be performed. -/
def wake (s : State) : State :=
  let s1 := (s.tiles.map (fun T => T.1)).foldl (fun s t => cpylGo t s) s
  let s2 := (heldThreads s1).foldl (fun s r => wakeThread r s) s1
  homeGo (2 * s2.links.homeQ.length) [] s2

/-- The outcome of an event after which held instructions issue. -/
def wakeRes (s : State) : Res := .next (wake s)

end Sys2Proof.Machine
end

