-- ==== Sys2Proof/Machine/Security.lean ====
section
/-! DEFINITION. Security (chapter 15): the lifecycle, tokens, images, and debug sessions. -/
namespace Sys2Proof.Machine

/-! ### Tokens (Table 15.8, R460) -/

def tokBytes (s : State) (o n : Nat) : List Byte := (List.range n).map (fun k => mget 0 s.sec.tokWin (o + k))
def tokWord (s : State) (i : Nat) : W64 := BitVec.ofNat 64 (leNat (tokBytes s (8 * i) 8))
def digest64 (l : List Byte) : List Byte := Config.shake256 l 64

/-- The tag that names the device: the unit tag in BLANK, the identity tag after it (R445). -/
def State.tag (s : State) : W64 := if s.sec.lc == 0 then s.sec.unitTag else s.sec.idTag

/-- Who must sign. -/
inductive Signer where
  | none
  | bernufort
  | owner
  deriving DecidableEq, Repr

/-- Check 1 of R460: the kind and its level or operation are the request's, and reserved fields are zero. -/
def tokForm (s : State) (kind sel : Nat) : Bool :=
  let w := tokWord s 0
  bitsOf w 3 0 == kind && (if kind == 1 then bitsOf w 6 4 else bitsOf w 10 7) == sel && bitsOf w 63 15 == 0 &&
  tokWord s 7 == 0 && (kind == 2 && sel == 2 || (tokBytes s 128 64).all (fun b => b == 0))

/-- The checks of R460 in order; `sel` is the level or the operation, `avail` check 4, `deny` its status. -/
def tokenCheck (s : State) (kind sel : Nat) (avail : Bool) (deny : Status) (who : Signer) : Status :=
  let w := tokWord s 0
  let pk := tokBytes s 64 64
  let owner := bitOf w 14
  let dig := if owner then mget [] s.sec.ownerDig s.sec.slot else s.sec.bernDig
  if !tokForm s kind sel then stTokenInvalid
  else if tokWord s 1 != s.tag then stTokenInvalid
  else if bitsOf w 13 11 != s.sec.lc then stTokenInvalid
  else if !avail then deny
  else if !s.sec.nonceOk || leNat (tokBytes s 16 32) != s.sec.nonce.toNat then stTokenInvalid
  else if owner != (who == .owner) || (owner && s.sec.lc == 3) || digest64 pk != dig then stTokenInvalid
  else if tokWord s 6 != 0 && (tokWord s 6).toNat ≤ s.time.tmb.toNat then stTokenInvalid
  else if !Config.slhVerify pk (tokBytes s 0 192) (tokBytes s 192 29792) then stTokenInvalid
  else stOk

/-! ### Lifecycle (R442, R443, R447) -/

/-- Who must authorise a transition from the state in force; none where Table 15.2 does not list it. -/
def lcListed (lc op : Nat) : Option Signer :=
  match lc, op with
  | 0, 0 => some .none
  | 1, 1 => some .none
  | 2, 2 => some .owner
  | 1, 3 => some .bernufort
  | 2, 3 => some .owner
  | 1, 4 => some .bernufort
  | 3, 4 => some .bernufort
  | 2, 4 => some .owner
  | _, _ => Option.none

def lcEnd (st : Status) (s : State) : State := { s with sec := { s.sec with lcBusy := false, lcStatus := st } }

/-- A transition request: SPR_LC with OP and GO. -/
def lcRequest (op : Nat) (secret : BitVec 256) (s : State) : State :=
  let s : State := { s with sec := { s.sec with lcOp := op } }
  if s.sec.lcBusy then s
  else
    let ok := s.sec.next == 7 && !(op == 2 && s.sec.slot == 7)
    match lcListed s.sec.lc op with
    | none => lcEnd stLcDenied s
    | some who =>
      let st := if who == .none then (if ok then stOk else stLcDenied) else if s.sec.next != 7 then stLcDenied else tokenCheck s 2 op ok stLcDenied who
      if st != stOk then lcEnd st s
      else winRequest (.lc op (tokBytes s 128 64) secret) { s with sec := { s.sec with lcBusy := true, lcStatus := stOk } }

def execLcProvision (secret : BitVec 256) (s : State) : Res := .next (lcRequest 0 secret s)
def execLcClaim (s : State) : Res := .next (lcRequest 1 0 s)
def execLcTransfer (s : State) : Res := .next (lcRequest 2 0 s)
def execLcReturn (s : State) : Res := .next (lcRequest 3 0 s)
def execLcVoid (s : State) : Res := .next (lcRequest 4 0 s)

/-- CERTIFY stores the certificate chain (R447); in PROVISIONED it is refused as any GO is while NEXT holds a state (R442; DEDUCED,
log 103). -/
def lcCertify (s : State) : State :=
  let s : State := { s with sec := { s.sec with lcOp := 5 } }
  if s.sec.lcBusy then s
    else
      let chain := (List.range 65472).map (fun k => mget 0 s.sec.certWin k)
      if !((s.sec.lc == 0 && s.sec.next == 1) || (s.sec.lc == 1 && s.sec.next == 7)) || !s.sec.chain.isEmpty || !Config.chainFor chain s.sec.pk then
        lcEnd stLcDenied s
      else winRequest (.certify chain) { s with sec := { s.sec with lcBusy := true, lcStatus := stOk } }

def execLcCertify (s : State) : Res := .next (lcCertify s)

/-! ### Images (R448 to R451) -/

def imgSlot (s : State) (k : Nat) : List Byte := if k == 0 then s.sec.imgA else s.sec.imgB
def imgBytes (img : List Byte) (o n : Nat) : List Byte := (List.range n).map (fun k => img.getD (o + k) 0)
def imgWord (img : List Byte) (i : Nat) : W64 := BitVec.ofNat 64 (leNat (imgBytes img (8 * i) 8))
def imgSvn (img : List Byte) : Nat := bitsOf (imgWord img 0) 30 24
def imgBodyLen (img : List Byte) : Nat := bitsOf (imgWord img 2) 31 0

/-- Sections of an image as (processor, offset, length) (Table 15.6). -/
def imgSections (img : List Byte) : List (Nat × Nat × Nat) :=
  (List.range 5).map (fun k => (bitsOf (imgWord img (32 + 4 * k)) 3 0, bitsOf (imgWord img (33 + 4 * k)) 31 0,
    bitsOf (imgWord img (33 + 4 * k)) 63 32))

/-- Bytes of the section of a processor. -/
def imgSection (img : List Byte) (p : Nat) : List Byte :=
  match (imgSections img).find? (fun x => x.1 == p) with
  | some x => imgBytes img (30304 + x.2.1) x.2.2
  | none => []

/-- Check 2 of R449. -/
def imgSectionsOk (img : List Byte) : Bool :=
  let l := imgSections img
  bitsOf (imgWord img 0) 21 18 == 5 && [1, 2, 3, 4, 5].all (fun p => (l.filter (fun x => x.1 == p)).length == 1) &&
  l.all (fun x => x.2.1 + x.2.2 ≤ imgBodyLen img) &&
  l.all (fun x => l.all (fun y => x.1 == y.1 || !rangesMeet x.2.1 x.2.2 y.2.1 y.2.2))

/-- The checks of R449 in order. -/
def imgVerify (s : State) (img : List Byte) : Status :=
  let w := imgWord img 0
  let pk := imgBytes img 24 64
  let buildBit := match s.build with
    | .t => 16
    | .s => 17
  if bitsOf w 15 0 != 1 || !bitOf w buildBit then stImageInvalid
  else if !imgSectionsOk img then stImageInvalid
  else if digest64 pk != mget [] s.sec.imageDig (bitsOf w 23 22) then stImageInvalid
  else if imgSvn img < s.sec.minSvn then stRollback
  else if !Config.slhVerify pk (imgBytes img 0 512) (imgBytes img 512 29792) then stImageInvalid
  else if digest64 (imgBytes img 30304 (imgBodyLen img)) != imgBytes img 88 64 then stImageInvalid
  else stOk

/-- Firmware-level entry point of a processor's section. -/
def imgEntry (img : List Byte) (p : Nat) : W64 :=
  match (List.range 5).find? (fun k => bitsOf (imgWord img (32 + 4 * k)) 3 0 == p) with
  | some k => BitVec.ofNat 64 (bitsOf (imgWord img (35 + 4 * k)) 43 0)
  | none => 0

/-- The cores of a processor start at its section's entry point. -/
def coresStart (img : List Byte) (p : Nat) (s : State) : State :=
  (List.range (coresOf p)).foldl (fun s c => s.setCore p c { pc := imgEntry img p }) s

/-- The Director, Grip and Continuity run the sections of an image: their cores start, and measurement 5 follows (R411, R455). -/
def runStack (img : List Byte) (s : State) : State :=
  let s1 := coresStart img 3 (coresStart img 2 (coresStart img 1 s))
  { s1 with sec := { s1.sec with secDig := mput s1.sec.secDig 5 (digest64 (imgSection img 1 ++ imgSection img 2 ++ imgSection img 3)) } }

/-- Gaffer and the SP run the sections of an image (R471). -/
def runIsland (img : List Byte) (s : State) : State :=
  let s1 := coresStart img 5 (coresStart img 4 s)
  { s1 with sec := { s1.sec with secDig := mput (mput s1.sec.secDig 3 (digest64 (imgSection img 5))) 4 (digest64 (imgSection img 4)) } }

/-- SPR_SVN.COMMIT raises MIN to the active image's SVN; one that would lower it does nothing (R450). -/
def svnCommit (s : State) : State :=
  let v := imgSvn (imgSlot s s.rep.fwActive)
    if v ≤ s.sec.minSvn then s else winRequest (.svn v) s

def execSvnCommit (s : State) : Res := .next (svnCommit s)

/-- The copy of an image begins: VERIFIED clears (R451). -/
def imgStart (s : State) : State :=
  { s with
    sec := { s.sec with imgBusy := true, imgWait := false, imgStatus := stOk }
    rep := { s.rep with fwVerified := false } }

/-- SPR_IMG_CTL.GO: ignored while BUSY, waiting while a live switch runs. -/
def imgGo (s : State) : State :=
  if s.sec.imgBusy || s.sec.imgWait then s
    else if s.rep.fwBusy then { s with sec := { s.sec with imgWait := true } }
    else imgStart s

def execImgGo (s : State) : Res := .next (imgGo s)

/-- The image has been copied to the inactive slot and verified (R449, R451). -/
def execImageVerifyComplete (s : State) : Res :=
  .next (if !s.sec.imgBusy then s
    else
      let src := bitsOf s.sec.imgSrc 43 0
      let n := Nat.min 0x800000 (30304 + bitsOf (s.word (src + 16)) 31 0)
      let there := (s.scratch src && s.scratch (src + n - 1)) ||
        (winOf src == .hbm && s.populated src && s.populated (src + n - 1))
      let img := s.bytes src n
      let st := if !there || s.poisoned src n || 30304 + imgBodyLen img > 0x800000 then stImageInvalid else imgVerify s img
      let c := { s.sec with imgBusy := false, imgStatus := st }
      { s with
        sec := if !there then c else if s.rep.fwActive == 0 then { c with imgB := img } else { c with imgA := img }
        rep := { s.rep with fwVerified := st == stOk } })

/-! ### Debug sessions (R458 to R463, Table 15.11) -/

/-- CHAL: a new nonce; ignored while BUSY (R459). -/
def debugChal (nonce : BitVec 256) (s : State) : State :=
  if s.sec.dbgBusy then s else { s with sec := { s.sec with nonce, nonceOk := true } }

def execChal (nonce : BitVec 256) (s : State) : Res := .next (hostWrite (debugChal nonce) s)

/-- OPEN at REQ: ignored while another is checked, whose level stays (log 103), and refused while a session is open; it then waits for its
check. -/
def debugOpen (req : BitVec 3) (s : State) : State :=
  let c := { s.sec with req := req.toNat }
  { s with sec :=
      if c.dbgBusy then c
      else if c.level != 0 then { c with dbgStatus := stDebugDenied, nonceOk := false }
      else { c with openReq := req.toNat, dbgBusy := true, dbgStatus := stOk } }

def execDbgOpen (req : BitVec 3) (s : State) : Res := .next (hostWrite (debugOpen req) s)

/-- What opening a level needs (Table 15.11); none: it cannot open. -/
def openNeeds (lc level : Nat) : Option Signer :=
  if level == 0 || level > 4 then none
  else match lc with
    | 0 => some .none
    | 1 => if level == 1 then some .none else if level < 4 then some .bernufort else none
    | 2 => if level == 1 then some .none else if level < 4 then some .owner else none
    | 3 => some .bernufort
    | _ => none

/-- Every IDE stream loses its keys, and every session ends (R461). -/
def dropSessions (s : State) : State := { s with sec := { s.sec with sessions := [], opening := [], ide := [] } }

/-- The SP checks the opening: for D3 and D4 once no cue is admitted and no live switch runs; none while D3hot is asked for
(R459, R460, R461). -/
def execDebugOpenCheck (s : State) : Res :=
  .next (let c := s.sec
    if !c.dbgBusy || c.d3hot || (c.openReq ≥ 3 && (!s.admitted.isEmpty || s.rep.fwBusy)) then s
    else
      let need := openNeeds c.lc c.openReq
      let st := match need with
        | none => stDebugDenied
        | some .none => stOk
        | some who => tokenCheck s 1 c.openReq true stDebugDenied who
      let done := { s with sec := { c with dbgBusy := false, dbgStatus := st, nonceOk := false } }
      if st != stOk then done
      else
        let s1 := if c.openReq ≥ 3 then dropSessions done else done
        { s1 with sec := { s1.sec with
          level := c.openReq
          susp := false
          expiry := if need == some Signer.none then 0 else tokWord s 6
          debugged := c.debugged || c.openReq ≥ 3
          maxdbg := Nat.max c.maxdbg c.openReq } })

/-- A session ends: LEVEL returns to 0, debug halts are released, and every enable of the counters, trace and Dailies clears (R462,
R492). -/
def sessionEnd (s : State) : State :=
  { s with
    sec := { s.sec with level := 0, susp := false, expiry := 0 }
    obs := { s.obs with cntEn := false, trcEn := false, trcAddr := false, dlyEn := false, armWarm := false }
    tiles := s.tiles.map (fun T => (T.1, { T.2 with threads := T.2.threads.map (fun t => (t.1, { t.2 with dbgHalt := false })) })) }

/-- EXPIRY passes. -/
def State.expired (s : State) : Bool := s.sec.expiry != 0 && s.sec.expiry.toNat ≤ s.time.tmb.toNat

/-- Halt, step and register access are permitted (R458, R463, R466). -/
def State.dbgThreads (s : State) : Bool := s.sec.level ≥ 3 && !s.sec.susp

/-- DBG_THR_CTL selects a thread. -/
def selectThread (tile th : Nat) (s : State) : State := { s with sec := { s.sec with thrTile := tile % 256, thrTh := th % 32 } }

/-- TSTATE of the selected thread (R463). -/
def tstate (s : State) : Nat :=
  let t := s.thread ⟨s.sec.thrTile, s.sec.thrTh⟩
  if !t.live then 3 else if t.halted then 2 else if t.dbgHalt && t.held.isNone && t.wait.isNone then 1 else 0

/-- HALT: the thread stops at its next instruction boundary. -/
def debugHalt (tile th : Nat) (s : State) : State :=
  if !s.dbgThreads then s
    else
      let s1 := selectThread tile th s
      let r : TRef := ⟨s1.sec.thrTile, s1.sec.thrTh⟩
      if (s1.thread r).live then s1.modThread r (fun t => { t with dbgHalt := true }) else s1

def execDbgHalt (tile th : Nat) (s : State) : Res := .next (hostWrite (debugHalt tile th) s)

/-- RESUME: no effect on a thread halted by status. -/
def dbgResume (tile th : Nat) (s : State) : State :=
  if !s.dbgThreads then s
    else
      let s1 := selectThread tile th s
      let r : TRef := ⟨s1.sec.thrTile, s1.sec.thrTh⟩
      let t := s1.thread r
      if t.live && !t.halted then s1.modThread r (fun t => { t with dbgHalt := false }) else s1

/-! ### Power states (R464 to R466) -/

/-- A write of D3hot: CUEs are held and no launch starts. -/
def execD3hot (s : State) : Res := .next { s with sec := { s.sec with d3hot := true } }

/-- Retention begins once no cue is admitted: D4 ends, D2 and D3 are suspended (Table 15.11), and OP-L is requested. -/
def execRetentionEnter (s : State) : Res :=
  .next (if !s.sec.d3hot || s.sec.retention || !s.admitted.isEmpty then s
    else
      let s1 := if s.sec.level == 4 then sessionEnd s else { s with sec := { s.sec with susp := s.sec.level ≥ 2 } }
      { s1 with
        sec := { s1.sec with retention := true }
        pow := { s1.pow with target := 0, req := if s1.pow.op == 0 then s1.pow.req else some 0 } })

/-- A write of D0: issue and admission resume; a suspended session goes on unless its EXPIRY has passed. -/
def wakeD0 (s : State) : State :=
  let s1 : State := { s with sec := { s.sec with d3hot := false, retention := false, susp := false } }
    if s1.sec.level != 0 && s1.expired then sessionEnd s1 else s1

end Sys2Proof.Machine
end

