-- ==== Sys2Proof/Machine/Debug.lean ====
section
/-! DEFINITION. Debug access to a thread: STEP and the thread window (R463). -/
namespace Sys2Proof.Machine

/-- The instruction that the thread's fetched words spell, when they are all there. -/
def nextInstr (r : TRef) (t : Thread) : Option (Option Instr × Option W64) :=
  match t.fetched with
  | [] => none
  | w :: ws =>
    if wordHasExt w then (match ws with
      | [] => none
      | x :: _ => some (decodeIdmon (.t r) w (some x), some x))
    else some (decodeIdmon (.t r) w none, none)

/-- Fetches until the words of the next instruction are there, or one must come from elsewhere. -/
def fetchNext (r : TRef) (s : State) : State := fetchT r (fetchT r s)

/-- One instruction of a debug-halted thread issues, and the thread halts again. -/
def stepThread (r : TRef) (s : State) : State :=
  let s1 := fetchNext r s
  match nextInstr r (s1.thread r) with
  | none => s1
  | some (i, x) =>
    let s2 := s1.modThread r (fun t => { t with dbgHalt := false })
    let s3 := match i with
      | some i => reissue i s2
      | none => illegalT r x s2
    if (s3.thread r).live then s3.modThread r (fun t => { t with dbgHalt := true }) else s3

def debugStep (tile th : Nat) (s : State) : State :=
  if !s.dbgThreads then s
  else
    let s1 := selectThread tile th s
    if tstate s1 == 1 then stepThread ⟨s1.sec.thrTile, s1.sec.thrTh⟩ s1 else s1

def execDbgStep (tile th : Nat) (s : State) : Res := .next (hostWrite (fun s => debugStep tile th s) s)

/-! ### The thread window -/

/-- A 64-bit word of a register of n bytes, at a byte offset. -/
def putWord64 {n : Nat} (v : BitVec n) (off : Nat) (w : W64) : BitVec n := setBits v (8 * off + 63) (8 * off) w.toNat
def getWord64 {n : Nat} (v : BitVec n) (off : Nat) : W64 := BitVec.ofNat 64 (v.toNat >>> (8 * off))

/-- A write of 8 bytes to the window for a debug-halted thread. -/
def windowPut (r : TRef) (off : Nat) (v : W64) (s : State) : State :=
  let mod := fun (f : Thread → Thread) => s.modThread r f
  let o := off / 8 * 8
  if o < 0x100 then mod (fun t => t.setS (o / 8) v)
  else if o < 0x180 then mod (fun t => t.setM ((o - 0x100) / 16) (putWord64 (t.mreg ((o - 0x100) / 16)) (o % 16) v))
  else if o < 0x200 then s
  else if o < 0x300 then mod (fun t => t.setD ((o - 0x200) / 32) (putWord64 (t.dreg ((o - 0x200) / 32)) (o % 32) v))
  else if o == 0x400 then mod (fun t => { t with pc := v, fetched := [], fetchPage := none, fetchFill := none })
  else if o == 0x408 then csrWrite r 0x100 v s
  else if o == 0x410 then csrWrite r 0x101 v s
  else if o == 0x418 then csrWrite r 0x102 v s
  else if 0x1000 ≤ o && o < 0x3000 then mod (fun t => t.setV ((o - 0x1000) / 512) (putWord64 (t.vreg ((o - 0x1000) / 512)) (o % 512) v))
  else s

/-- What the window shows at an offset. -/
def windowGet (s : State) (off : Nat) : W64 :=
  let r : TRef := ⟨s.sec.thrTile, s.sec.thrTh⟩
  let t := s.thread r
  let o := off / 8 * 8
  if tstate s == 0 || tstate s == 3 then 0
  else if o < 0x100 then t.sreg (o / 8)
  else if o < 0x180 then getWord64 (t.mreg ((o - 0x100) / 16)) (o % 16)
  else if o < 0x200 then 0
  else if o < 0x300 then getWord64 (t.dreg ((o - 0x200) / 32)) (o % 32)
  else if o == 0x400 then t.pc
  else if o == 0x408 then t.tcs
  else if o == 0x410 then t.tstat
  else if o == 0x418 then t.tflg
  else if 0x1000 ≤ o && o < 0x3000 then getWord64 (t.vreg ((o - 0x1000) / 512)) (o % 512)
  else 0

def threadWrite (off : Nat) (v : W64) (s : State) : State :=
  if s.dbgThreads && tstate s == 1 then windowPut ⟨s.sec.thrTile, s.sec.thrTh⟩ off v s else s

def execThreadWindowWrite (off : Nat) (v : W64) (s : State) : Res := .next (hostWrite (fun s => threadWrite off v s) s)

end Sys2Proof.Machine
end

