-- ==== Sys2Proof/Machine/Events.lean ====
section
/-! DEFINITION. The events that complete what instructions started, each followed by the issue of the instructions that it
lets go on (R143, R144, R162). -/
namespace Sys2Proof.Machine

def execLoadResponse (tile op part : Nat) (ecc : List Ecc) (s : State) : Res := wakeRes (loadResponse tile op part ecc s)
def execStoreAck (tile op part : Nat) (s : State) : Res := wakeRes (storeAck tile op part s)
def execSemHomePerform (tile op : Nat) (s : State) : Res := wakeRes (semHome tile op s)
def execSlotWaitGrant (r : TRef) (s : State) : Res := wakeRes (slotGrant r s)
def execTableSwap (tile : Nat) (s : State) : Res := wakeRes (s.modTile tile Tile.takeSwaps)

/-- The last product of an MMA has reached the pool (R106). -/
def execMmaComplete (tile h : Nat) (s : State) : Res := wakeRes (mmaDone tile h s)
def execRscDrainStart (tile h : Nat) (s : State) : Res := wakeRes (drainStart tile h s)
def execRscComplete (tile h : Nat) (s : State) : Res := wakeRes (rscDone tile h s)
def execCpylComplete (tile : Nat) (s : State) : Res := wakeRes (cpylDone tile s)

/-- Debug halts end (R462, R463, R465). -/
def execDbgResume (tile th : Nat) (s : State) : Res := .next (hostWrite (fun s => wake (dbgResume tile th s)) s)
def debugClose (s : State) : State := if s.sec.level == 0 then s else wake (sessionEnd s)
def execDbgClose (s : State) : Res := .next (hostWrite debugClose s)
def execDebugSessionExpire (s : State) : Res := if s.sec.level != 0 && s.expired then wakeRes (sessionEnd s) else .next s
def execD0 (s : State) : Res := wakeRes (wakeD0 s)

end Sys2Proof.Machine
end

