-- ==== Sys2Proof/Machine/Trans.lean ====
section
/-! DEFINITION. The mode registers (R36 to R40), the table walks, invalidations and loaded translations (R223 to R228), the
cache operations, fills, reductions and stalls (R213 to R221), the partition (R210, R268) and refresh (R203). -/
namespace Sys2Proof.Machine

/-! ### Pages that waited -/

def State.modXl (s : State) (f : Xlate → Xlate) : State := { s with xl := f s.xl }

/-- Threads whose fetch waits for a page. -/
def fetchWaiters (s : State) (page : Nat) : List TRef :=
  s.tiles.flatMap (fun T => (T.2.threads.filter (fun t => t.2.fetchPage == some page)).map (fun t => TRef.mk T.1 t.1))

/-- A page waits no more: its fetches and accesses are made again. -/
def pageGo (page : Nat) (s : State) : State :=
  let s1 := s.modXl (fun x => { x with walks := x.walks.filter (fun w => pageOf w.va != page) })
  wake ((fetchWaiters s1 page).foldl (fun s r => fetchT r s) s1)

/-- What waits for a page completes with a status. -/
def pageFail (page : Nat) (st : Status) (s : State) : State :=
  (pageGo page (s.modXl (fun x => { x with bad := some (page, st) }))).modXl (fun x => { x with bad := none })

/-- A hardware walk ends: its leaf enters the base die's cache, or its accesses complete with its status; a walk that met an
invalidation is made again once that has completed (R223, R227). -/
def walkDone (va : Nat) (s : State) : State :=
  match s.xl.walks.find? (fun w => pageOf w.va == pageOf va && !w.aMode) with
  | none => s
  | some w =>
    if s.invalidating w.va then s
    else if w.again then s.modXl (fun x => { x with walks := mapIf (fun y => y == w) (fun y => { y with again := false, root := x.root }) x.walks })
    else match walk (s.modXl (fun x => { x with root := w.root })) w.va with
      | .ok e => pageGo (pageOf w.va) (installBase e s)
      | .error st => pageFail (pageOf w.va) st s

def execTableWalkComplete (va : Nat) (s : State) : Res := .next (walkDone va s)

/-- AMISS_TMO has passed: the accesses to the page complete with XLATE_FAULT (R228). -/
def execAmissTimeout (va : Nat) (s : State) : Res :=
  .next (if s.xl.walks.any (fun w => pageOf w.va == pageOf va && w.aMode) then pageFail (pageOf va) stXlateFault s else s)

/-! ### MEM_XOP_CTL (Table 7.10) -/

/-- A write of an operation with GO, which is ignored while BUSY. -/
def xopGo (op : Nat) (k : State → State) (s : State) : State :=
  let s := s.modXl (fun x => { x with op })
  if s.xl.busy then s else k s

def xopEnd (st : Status) (s : State) : State := s.modXl (fun x => { x with busy := false, status := st })

/-- Entries that meet a range leave every translation cache. -/
def dropEntries (lo hi : Nat) (s : State) : State :=
  let out := fun (l : List XEntry) => l.filter (fun e => e.va + e.size ≤ lo || hi ≤ e.va)
  { s.modXl (fun x => { x with base := out x.base }) with tiles := s.tiles.map (fun T => (T.1, { T.2 with xc := out T.2.xc })) }

/-- An invalidation begins: entries of its range go, and the walks that it meets are to be made again (R227). -/
def invStart (lo hi : Nat) (s : State) : State :=
  (dropEntries lo hi s).modXl (fun x => { x with
    busy := true, status := stOk, invLo := lo, invHi := hi
    walks := mapIf (fun w => !w.aMode && lo ≤ w.va && w.va < hi) (fun w => { w with again := true }) x.walks })

def invRange (s : State) : State :=
  let n := s.xl.arg.toNat
  let a := bitsOf s.xl.addr 51 16 * 0x10000
  if n == 0 || n % 0x10000 != 0 then xopEnd stFormMismatch s else invStart a (a + n) s

def execInvAll (s : State) : Res := .next (hostWrite (fun s => xopGo 0 (invStart 0 (2 ^ 52)) s) s)
def execInvRange (s : State) : Res := .next (hostWrite (fun s => xopGo 1 invRange s) s)

/-- LOAD installs a leaf and lets the accesses that it covers go on. -/
def xopLoad (size : Nat) (s : State) : State :=
  let bytes := match size with
    | 0 => 0x10000
    | 1 => 0x200000
    | _ => 0x40000000
  let leaf := s.xl.arg
  let va := bitsOf s.xl.addr 51 0 / bytes * bytes
  if size == 3 || !bitOf leaf 0 || !bitOf leaf 1 || frameOf leaf % bytes != 0 then xopEnd stFormMismatch s
  else
    let s1 := installBase ⟨va, bytes, leaf⟩ (xopEnd stOk s)
    (s1.xl.walks.filter (fun w => w.aMode && va ≤ w.va && w.va < va + bytes)).foldl (fun s w => pageGo (pageOf w.va) s) s1

def execLoad (size : BitVec 2) (s : State) : Res := .next (hostWrite (fun s => xopGo 2 (xopLoad size.toNat) (s.modXl (fun x => { x with size := size.toNat }))) s)

/-- NACK: what waits for the page completes with XLATE_FAULT. -/
def xopNack (s : State) : State :=
  let p := bitsOf s.xl.addr 51 16
  let s1 := xopEnd stOk s
  if s1.xl.walks.any (fun w => w.aMode && pageOf w.va == p) then pageFail p stXlateFault s1 else s1

def execNack (s : State) : Res := .next (hostWrite (fun s => xopGo 3 xopNack s) s)

/-- A request outstanding at a peer or the host is for an address of the range: a fetch, a stretch of a descriptor, or a watch that has
not reported. -/
def ownerUses (s : State) (inR : Nat → Bool) (o : RemOwner) : Bool :=
  match o with
  | .fetch _ va => inR va
  | .desc _ va => inR va
  | .watch r => (s.thread r).wait.any (fun w => !w.evaluated && inR w.va)
  | _ => false

/-- An access that used an entry of the range has yet to be performed: what tiles and bank operations have in progress, fetches and
descriptor reads that are on their way, and watches that have yet to report. -/
def usesRange (s : State) (lo hi : Nat) : Bool :=
  let inR := fun (va : Nat) => lo ≤ va && va < hi
  let pg := fun (m : PageMap) => m.any (fun p => inR (p.1 * 0x10000))
  s.tiles.any (fun T => T.2.ops.any (fun o => o.parts.any (fun p => !p.done && inR p.va)) || T.2.mmas.any (fun o => pg o.pages) ||
    T.2.rscs.any (fun o => pg o.pages) || T.2.cpyl.any (fun o => pg o.spages || pg o.dpages) ||
    T.2.cpylWait.any (fun o => pg o.spages || pg o.dpages)) ||
  s.bank.ops.any (fun o => pg o.pages) ||
  s.links.reqs.any (fun q => ownerUses s inR q.owner) ||
  s.host.reqs.any (fun q => ownerUses s inR q.owner) ||
  s.tiles.any (fun T => T.2.threads.any (fun t => t.2.fetchFill.isSome && inR t.2.fetchVa))

/-- The invalidation completes once no access of its range is left (R226). -/
def execXopInvalidateComplete (s : State) : Res :=
  .next (if !s.xl.busy || usesRange s s.xl.invLo s.xl.invHi then s
    else wake (xopEnd stOk (dropEntries s.xl.invLo s.xl.invHi s)))

/-- An entry is displaced from a tile's cache, or from the base die's (R226). -/
def execTranslationDisplacement (cache : Option Nat) (va : Nat) (s : State) : Res :=
  .next (match cache with
    | some t => s.modTile t (fun T => { T with xc := T.xc.filter (fun e => !e.covers va) })
    | none => s.modXl (fun x => { x with base := x.base.filter (fun e => !e.covers va) }))

/-! ### Modes (R36 to R43, Table 14.13) -/

/-- A write of SPL_FN_f: REFUSED cleared by 1, and REQ. The address-translation field starts the flush (R38); that of the start
alternates goes to the start journal, and so through the writing window (R43); a later write of it replaces one that waits there
(R37). -/
def splitWrite (fn : Nat) (v : W64) (s : State) : State :=
  let req := bitOf v 0
  let s1 := if bitOf v 3 then s.modSplit fn (fun p => { p with refused := false }) else s
  let p := s1.split fn
  if fn > 10 then s
  else if fn == 8 then
    let waits := s1.pow.winQ.any (fun w => match w with
      | .altmode _ => true
      | _ => false)
    let s2 : State := { s1 with pow := { s1.pow with winQ := s1.pow.winQ.filter (fun w => match w with
      | .altmode _ => false
      | _ => true) } }
    let s3 := if waits then s2.modSplit 8 (fun p => { p with status := stOk }) else s2
    if req == s3.start.altmode then splitRequest 8 req s3 else winRequest (.altmode req) s3
  else if req == p.act && !p.pend then s1.modSplit fn (fun p => { p with req })
  else
    let s2 := splitRequest fn req s1
    if fn == 1 then s2.modXl (fun x => { x with flush := true }) else s2

def execSplitModeWrite (fn : Nat) (v : W64) (s : State) : Res := .next (splitWrite fn v s)

/-- The full flush completes once every translation in progress has finished: no cache holds an entry, and the mode switches (R38). -/
def flushDone (s : State) : State := (splitPoint 1 (dropEntries 0 (2 ^ 52) s)).modXl (fun x => { x with flush := false })

/-! ### MEM_COP_CTL (Table 7.5) -/

def State.modCache (s : State) (f : Cache → Cache) : State := { s with cache := f s.cache }

/-- The lines of the request in progress. -/
def copLines (s : State) : List Nat := (List.range s.cache.runN).map (fun k => bitsOf s.cache.runAddr 55 12 + k)

/-- What a line's address is to the request (R218): an address outside every window counts as an unpopulated part, and an unpopulated
part of near memory or of the tile stores gives NO_TARGET, as R209 has it of a cache quarter (DESIGN CHOICE, log 95). -/
def copLineStatus (s : State) (l : Nat) : Status :=
  let pa := l * 4096
  if !s.isLocal pa then stOk
  else if !s.populated (paLocal pa) then stNoTarget
  else match winOf (paLocal pa) with
    | .hbm => stOk
    | .host => stOk
    | _ => stFormMismatch

/-- The request is over: its status, and its event record under EVT. -/
def copEnd (st : Status) (s : State) : State :=
  let s1 := s.modCache (fun c => { c with copBusy := false, copStatus := st })
  if s1.cache.runEvt then event st 0x0C 0 0 0 0 s1.cache.runAddr 0 s1 else s1

/-- Every set would hold at most 12 pinned lines (R217). -/
def pinFits (s : State) (ls : List Nat) : Bool :=
  ls.all (fun l =>
    let k := setKey (s.lineHome l)
    ((ls.filter (fun x => setKey (s.lineHome x) == k && !(s.line x).any (fun y => y.pinned))).length +
      (s.cache.lines.filter (fun y => y.pinned && setKey (s.lineHome y.line) == k)).length) ≤ 12)

/-- A line of a pin request: its way, its pin, and under PINF the fetch of every sector. A pin has no translation: it allocates, as the
most recently used way (DESIGN CHOICE, log 95). -/
def pinLine (fetch : Bool) (l : Nat) (s : State) : State :=
  let s1 := if (s.line l).isSome then s else (s.allocLine l 1).getD s
  let s2 := s1.modLine l (fun x => { x with pinned := true })
  if !fetch || (s2.line l).isNone then s2
  else (List.range 16).foldl (fun s k =>
    let pa := l * 4096 + k * 256
    if !s.mustFetch pa || s.fetchStatus pa != stOk then s else startFill none l k 1 s) s2

/-- What one line of an UNPIN, INVAL or FLUSH does; dirty bytes stand in memory already, so a write-back only counts them. -/
def copLine (op l : Nat) (s : State) : State :=
  match s.line l with
  | none => s
  | some x =>
    let s1 := if op == 2 then s else cntBase 132 x.dirty.length s
    match op with
    | 2 => s1.modLine l (fun x => { x with pinned := false })
    | 3 => if x.pinned then s1.modLine l (fun x => { x with valid := 0, dirty := [], data := [] }) else s1.setLines (s1.cache.lines.filter (fun y => y.line != l))
    | _ => s1.modLine l (fun x => { x with dirty := [] })

/-- A write with GO: the fields take their values; while BUSY the GO is ignored. The checks are made before any change; a request that
passes them is BUSY until it completes (R217, R218). -/
def copGo (op nlines : Nat) (evt : Bool) (s : State) : State :=
  let s := s.modCache (fun c => { c with copOp := op, copN := nlines, copEvt := evt })
  if s.cache.copBusy then s
  else
    let s := s.modCache (fun c => { c with runOp := op, runN := nlines, runEvt := evt, runAddr := c.copAddr })
    let ls := copLines s
    if nlines == 0 || op > 4 then copEnd stFormMismatch s
    else match (ls.map (copLineStatus s)).find? (fun st => st != stOk) with
      | some st => copEnd st s
      | none =>
        let s1 := s.modCache (fun c => { c with copBusy := true, copStatus := stOk })
        if op > 1 then s1
        else if s.cacheCols == 0 || !pinFits s ls then copEnd stPinRefused (cntBase 134 1 s)
        else ls.foldl (fun s l => pinLine (op == 1) l s) s1

def execPin (nlines : BitVec 16) (evt : Bool) (s : State) : Res := .next (hostWrite (fun s => copGo 0 nlines.toNat evt s) s)
def execPinf (nlines : BitVec 16) (evt : Bool) (s : State) : Res := .next (hostWrite (fun s => copGo 1 nlines.toNat evt s) s)
def execUnpin (nlines : BitVec 16) (evt : Bool) (s : State) : Res := .next (hostWrite (fun s => copGo 2 nlines.toNat evt s) s)
def execInval (nlines : BitVec 16) (evt : Bool) (s : State) : Res := .next (hostWrite (fun s => copGo 3 nlines.toNat evt s) s)
def execFlush (nlines : BitVec 16) (evt : Bool) (s : State) : Res := .next (hostWrite (fun s => copGo 4 nlines.toNat evt s) s)

/-- The request completes: a pin once every line has its way, and under PINF its sectors, or once one of them cannot be fetched; the
others do their work. -/
def copDone (s : State) : State :=
  if !s.cache.copBusy then s
  else
    let op := s.cache.runOp
    let ls := copLines s
    if op > 1 then wake (copEnd stOk (ls.foldl (fun s l => copLine op l s) s))
    else
      let s1 := ls.foldl (fun s l => pinLine (op == 1) l s) s
      let ok := fun (l : Nat) => (s1.line l).any (fun x => x.pinned && (op == 0 || x.valid == BitVec.allOnes 16))
      let lost := ls.flatMap (fun l => (List.range 16).filterMap (fun k =>
        let pa := l * 4096 + k * 256
        if op == 1 && (s1.line l).isSome && s1.mustFetch pa && s1.fetchStatus pa != stOk then some (s1.fetchStatus pa) else none))
      if ls.all ok then copEnd stOk s1
      else match lost with
        | [] => s1
        | st :: _ => copEnd st s1

def execCopComplete (s : State) : Res := .next (copDone s)

/-! ### Fills, reductions and stalls -/

/-- The threads whose fetch waits for one of some sectors of a line. -/
def fetchFillers (l : Nat) (sectors : BitVec 16) (s : State) : List TRef :=
  s.tiles.flatMap (fun T => (T.2.threads.filter (fun t => t.2.fetchFill.any (fun pa => lineOf pa == l && bitOf sectors (sectorOf pa)))).map
    (fun t => TRef.mk T.1 t.1))

/-- Requests of tiles that wait for some sectors of a line: tile, operation, part. -/
def fillWaiters (l : Nat) (sectors : BitVec 16) (s : State) : List (Nat × Nat × Nat) :=
  let hit := fun (p : Part) =>
    let pa := (p.segs.head?.map (fun g => g.1)).getD p.pa
    p.issued && !p.done && !p.sent && lineOf pa == l && bitOf sectors (sectorOf pa) && s.cached pa p.ca
  s.tiles.flatMap (fun T => (T.2.ops.filter (fun o => o.kind == .load || o.kind == .runahead)).flatMap (fun o =>
    (o.parts.zipIdx.filter (fun x => hit x.1)).map (fun x => (T.1, o.id, x.2))))

/-- What one waiting request does when its sector has come or could not be fetched. -/
def fillServe (w : Nat × Nat × Nat) (st : Status) (data : List Byte) (s : State) : State :=
  match s.op w.1 w.2.1 with
  | none => s
  | some o => if o.kind == .runahead then raArrive w.1 w.2.1 st false data s else if st != stOk then partDone w.1 w.2.1 w.2.2 st s
      else farPart w.1 w.2.1 w.2.2 data false s

/-- A descriptor read that waits for a sector learns that it could not be fetched. -/
def descFail (l sec : Nat) (st : Status) (s : State) : State :=
  s.tiles.foldl (fun s T => T.2.threads.foldl (fun s t =>
    let r : TRef := ⟨T.1, t.1⟩
    if !t.2.held.any (fun h => h.why == .desc) then s
    else t.2.descRead.foldl (fun s va => match xlate s (some T.1) .r va with
      | .ok pa _ => if lineOf pa == l && sectorOf pa == sec then s.modThread r (fun t => { t with desc := t.desc ++ [(va, st, [])] }) else s
      | _ => s) s) s) s

/-- A sector of a fill could not be fetched from its peer or the host: the accesses that wait for it end with that status, and so does
a PINF of its line. -/
def fillFail (l sec : Nat) (st : Status) (s : State) : State :=
  let bit : BitVec 16 := BitVec.ofNat 16 (2 ^ sec)
  if !s.cache.fills.any (fun f => f.line == l && bitOf f.sectors sec) then s
  else
    let s1 := s.modCache (fun c => { c with fills := (mapIf (fun f => f.line == l) (fun f => { f with sectors := f.sectors &&& ~~~bit }) c.fills).filter (fun f => f.sectors != 0) })
    let s2 := (fillWaiters l bit s1).foldl (fun s w => fillServe w st [] s) s1
    let s3 := (fetchFillers l bit s2).foldl (fun s r => fetchFault r st (s.modThread r (fun t => { t with fetchFill := none }))) (descFail l sec st s2)
    if s3.cache.copBusy && s3.cache.runOp == 1 && (copLines s3).contains l then copEnd st s3 else s3

/-- Requests for sectors that have arrived are outstanding no more. -/
def fillSettle (l : Nat) (got : BitVec 16) (s : State) : State :=
  let mine := fun (o : RemOwner) => match o with
    | .fill m k => m == l && bitOf got k
    | _ => false
  let s1 : State := { s with host := { s.host with reqs := s.host.reqs.filter (fun q => !mine q.owner) } }
  ((s1.links.reqs.filter (fun q => mine q.owner)).map (fun q => q.tag)).foldl (fun s t => dropReq t s) s1

/-- Sectors of a fill arrive; dirty bytes keep the values stored (R213, R214). When the line has left the cache meanwhile, the sectors go
to those that wait for them. -/
def fillReturn (l : Nat) (sectors : BitVec 16) (data : List Byte) (s : State) : State :=
  match s.cache.fills.find? (fun f => f.line == l && !f.stalled) with
  | none => s
  | some f =>
    let got := f.sectors &&& sectors
    let left := f.sectors &&& ~~~sectors
    let pa := l * 4096
    let mine := s.isLocal pa && winOf (paLocal pa) == .hbm
    let put := fun (d : List Host.Cell) (k : Nat) =>
      if bitOf got k then (List.range 256).foldl (fun d j => memPut false d (256 * k + j) (data.getD (256 * k + j) 0)) d else d
    let s0 := if mine then s else fillSettle l got s
    let s1 := s0.modLine l (fun x => { x with valid := x.valid ||| got, data := if mine then x.data else (List.range 16).foldl put x.data })
    let rest := fun (fs : List Fill) =>
      if left == 0 then fs.filter (fun g => g.line != l) else mapIf (fun g => g.line == l) (fun g => { g with sectors := left }) fs
    let s2 := s1.modCache (fun c => { c with fills := rest c.fills })
    let s3 := if mine then cntBase (96 + 4 * s.stackOf (paLocal pa)) (256 * popcount 16 got.toNat) s2 else s2
    let s4 := if mine || (s3.line l).isSome then s3
      else (List.range 16).foldl (fun s k => if bitOf got k then
          (fillWaiters l (BitVec.ofNat 16 (2 ^ k)) s).foldl (fun s w => fillServe w stOk ((data.drop (256 * k)).take 256) s) s
        else s) s3
    (fetchFillers l got s4).foldl (fun s r => fetchT r s) s4

def execCacheFillReturn (line : Nat) (sectors : BitVec 16) (data : List Byte) (s : State) : Res := wakeRes (fillReturn line sectors data s)

/-- The line of an RDW's or a collective's next destination element. -/
def BOp.dstLine (o : BOp) (s : State) : Nat := lineOf (s.fabric (o.at_ (if o.kind == .rdw then o.rdwDst + 4 * o.idx else o.cdst)))

/-- Cache attribute of that element's translation. -/
def BOp.dstCa (o : BOp) : Nat := (paOf o.pages (if o.kind == .rdw then o.rdwDst + 4 * o.idx else o.cdst)).2

/-- A bank engine's read-modify-write on a cached HBM line, or the release of the line. -/
def reduction (l : Nat) (what : Reduction) (s : State) : State :=
  let pa := l * 4096
  if s.cacheCols == 0 || !s.isLocal pa || winOf (paLocal pa) != .hbm then s
  else match what with
    | .release => if (s.line l).any (fun x => x.held) then releaseLine l s else s
    | .sem tile op =>
      (match (s.op tile op).bind (fun o => o.parts.head?) with
        | none => s
        | some p => if lineOf p.pa != l then s else match holdLine l p.ca s with
          | some s1 => semPerform tile op s1
          | none => holdStall (some (tile, ((s.op tile op).map (fun o => o.reel)).getD 0)) l p.ca s)
    | .rdw op =>
      (match s.bop op with
        | none => s
        | some o =>
          if !(o.kind == .rdw || o.kind == .coll) || (o.kind == .rdw && (o.phase != 2 || o.dstLine s != l)) then s
          else match holdLine l (o.dstCa) s with
            | none => holdStall (some (o.tile, o.reel)) l o.dstCa s
            | some s1 => if o.kind == .rdw && hbmServes s1 (paLocal pa) then rdwAdd o s1 else s1)

def execCacheReduction (line : Nat) (what : Reduction) (s : State) : Res := wakeRes (reduction line what s)

/-- A stalled eviction takes the way that a reduction has released, and the line's fill goes on (R220). -/
def stallEnd (l : Nat) (s : State) : State :=
  match s.cache.fills.find? (fun f => f.line == l && f.stalled) with
  | none => s
  | some f =>
    let s0 := match (s.setLinesOf l).find? (fun x => x.victim) with
      | some x => s.evict x.line
      | none => s
    match s0.allocLine l f.alloc with
    | none => s
    | some s1 =>
      let s2 := s1.modCache (fun c => { c with fills := (mapIf (fun g => g.line == l) (fun g => { g with stalled := false }) c.fills).filter (fun g => g.sectors != 0) })
      (List.range 16).foldl (fun s k =>
        let st := s.fetchStatus (l * 4096 + k * 256)
        if !bitOf f.sectors k then s else if st != stOk then fillFail l k st s else requestSector l k s) s2

def execEvictionStallEnd (line : Nat) (s : State) : Res := wakeRes (stallEnd line s)

/-! ### The partition (R209, R210, R268) -/

/-- Bits of MEM_QCFG.CACHE that the build has. -/
def quarterMask : Build → Nat
  | .t => 0xFFFFF
  | .s => 0xFF

def quartersWrite (v : W64) (s : State) : State :=
  s.modCache (fun c => { c with qpend := some (BitVec.ofNat 20 (v.toNat &&& quarterMask s.build)) })

def execQcfgWrite (v : W64) (s : State) : Res := .next (hostWrite (quartersWrite v) s)

/-- ROLLED slots are completed, STAGED ones freed with SRC of their groups, and the commit words copied, with V = 1 (R268). -/
def rollEmpty (s : State) : State :=
  let s1 := s.bank.roll.foldl (fun s x => if x.mark == 2 then commitSlot x s else if x.mark == 1 && !x.query then noteSrc x.group (setMark x 0 s) else s) s
  (List.range 16).foldl (fun s g => s.modCommit g (fun c => { c with v := true })) s1

/-- Quarters that were cache and are scratch from now on lose their contents. -/
def quartersTurn (new : BitVec 20) (s : State) : State :=
  (List.range 20).foldl (fun s k =>
    if bitOf s.cache.quarters k && !bitOf new k then s.undefine (colBase (k / 4) (16 * (k % 4))) (16 * 0xC000000) else s) s

/-- The quiet device takes the pending partition: the roll is emptied, every line is written back and every pin released; a pin request in
progress ends with PIN_REFUSED, since none of its lines stays pinned (DESIGN CHOICE, log 95). -/
def execQcfgSwitch (s : State) : Res :=
  .next (match s.cache.qpend with
    | none => s
    | some new =>
      if !s.quiet || s.bank.roll.any (fun x => x.query) then s
      else
        let s1 := rollEmpty s
        let s1 := if s1.cache.copBusy && s1.cache.runOp ≤ 1 then copEnd stPinRefused s1 else s1
        let s2 := s1.cache.lines.foldl (fun s x => s.evict x.line) s1
        let s3 := quartersTurn new (s2.modCache (fun c => { c with lines := [], plru := [], fills := [] }))
        wake ({ s3.modRoll (fun l => l.filter (fun x => !bitOf new (4 * x.layer + x.col / 16))) with
          cache := { s3.cache with quarters := new, qpend := none } }))

/-- A bank refreshes its rows (R203): the tick of its last refresh. -/
def execBankRefresh (layer col bank : Nat) (s : State) : Res :=
  .next (if layer < Config.mlayers s.build && col < 64 && bank < 32 && (s.dom (64 + layer)).st == 2 then
      { s with pow := { s.pow with refreshed := mput s.pow.refreshed (layer * 2048 + col * 32 + bank) s.time.ref } }
    else s)

end Sys2Proof.Machine
end

