-- ==== Sys2Proof/Machine/Links.lean ====
section
/-! DEFINITION. The Neotte links (R288, R295 to R309, R402): discovery, IDs, routes, loss, and the remote memory requests with their
answers. -/
namespace Sys2Proof.Machine

/-! ### What a finished remote request does -/

/-- An access of a core ends: a load's data reaches its register, a failure raises an exception (R191). -/
def coreDone (p c rd n len : Nat) (st : Status) (bs : List Byte) (s : State) : State :=
  let s1 := s.modCore p c (fun k => { k with busy := false })
  if st != stOk then exception p c st s1
  else s1.modCore p c (fun k => { k.setS rd (BitVec.ofNat 64 (leNat (bs.take n))) with pc := k.pc + BitVec.ofNat 64 (8 * len) })

/-- What its owner does when a remote or host request has ended with a status, and data where it returned any. -/
def ownerDone (o : RemOwner) (st : Status) (bs : List Byte) (s : State) : State :=
  match o with
  | .part tile op k =>
    if (s.op tile op).any (fun o => o.kind == .runahead) then raArrive tile op st false bs s
    else if st != stOk then partDone tile op k st s
    else
      let put := fun (x : MemOp) => match x.parts[k]? with
        | none => x
        | some p =>
          if x.kind == .sem then { x with old := some (BitVec.ofNat 64 (leNat (bs.take 8))) }
          else if bs.isEmpty then x
          else { x with data := (p.segs.foldl (fun (a : List Byte × List Byte) g => (patch a.1 g.2.1 (a.2.take g.2.2), a.2.drop g.2.2)) (x.data, bs)).1 }
      partDone tile op k stOk (s.modOp tile op put)
  | .watch r => if st == stOk then s else waitEnd r (.fail st) s
  | .scrub op page => scrubPage op page st s
  | .dma k off => dmaRemote k off st bs s
  | .fetch r va =>
    if !nextFetch s r va then s else if st == stOk then fetchWord r (BitVec.ofNat 64 (leNat (bs.take 8))) s else fetchFault r st s
  | .desc r va => descArrive r va st bs s
  | .core p c rd n len => coreDone p c rd n len st bs s
  | .peer dev tag =>
    sendMsg (if st == stOk then { mtype := mtRDATA, dst := dev, src := s.ownId, tag, data := bs } else ackMsg s dev tag st) s
  | .msg op => if st == stOk then s else collFinish op stMemberLost s
  | .fill l k => if st == stOk then fillReturn l (BitVec.ofNat 16 (2 ^ k)) (List.replicate (256 * k) 0 ++ bs) s else fillFail l k st s
  | .nobody => s

/-- A remote request ends: it is outstanding no more, and its owner goes on. -/
def reqEnd (q : RemReq) (st : Status) (bs : List Byte) (s : State) : State := ownerDone q.owner st bs (dropReq q.tag s)

/-- A remote request ends, and what it lets go on goes on. -/
def reqDone (q : RemReq) (st : Status) (bs : List Byte) (s : State) : State := wake (reqEnd q st bs s)

/-! ### Loss (R259, R303 to R306, R309, R327, R328) -/

/-- The members of an operation that has lost some of them are told by LOST: each other member of one that is lost, and that one, over the
route that it may still have, of this device (R304, R305). -/
def opLost (members : List Nat) (hit : Nat → Bool) (s : State) : State :=
  match members.find? (fun d => d != s.ownId && hit d) with
  | none => s
  | some b => (members.filter (fun d => (routePort s d).isSome)).foldl (fun s d =>
      sendMsg { mtype := mtLOST, dst := d, src := s.ownId, param := if d == b then s.ownId else b } s) s

/-- Operations that a lost device or port ends, with LOST to their members. -/
def collLost (hit : Nat → Bool) (s : State) : State :=
  s.bank.ops.foldl (fun s o =>
    if (o.kind == .coll || o.kind == .perm) && o.members.any (fun d => d != s.ownId && hit d) then
      opLost o.members hit (collFinish o.id stMemberLost s)
    else s) s

/-- Bound groups in resolution lose a member (R259). -/
def tollLost (hit : Nat → Bool) (s : State) : State :=
  s.bank.groups.foldl (fun s g =>
    if g.2.valid && g.2.busy && g.2.members.any (fun d => d != s.ownId && hit d) then opLost g.2.members hit (tollMember g.1 s)
    else s) s

/-- A primary whose partner is lost stops mirroring (R328). -/
def mirrorLost (hit : Nat → Bool) (s : State) : State :=
  s.pairs.mir.foldl (fun s m =>
    if (m.2.st == 1 || m.2.st == 2) && hit m.2.peer then
      event 0 0x08 0 0 0 0 (BitVec.ofNat 64 (m.2.peer + m.1 * 2 ^ 12)) 0 (s.modMir m.1 (fun x => { x with st := 3, sealed_ := none, sacked := false, unacked := false }))
    else s) s

/-- A takeover of a slot begins. This device's own record decides a sealed frame at once; otherwise the members of the slot's Toll group are
asked (R256, R321, R327), and PARTNER_TAKEOVER settles it. -/
def takeBegin (k : Nat) (s : State) : State :=
  match mfind s.pairs.pmir k with
  | none => s
  | some p =>
    if p.st != 2 || p.taking then s
    else
      let own := p.sealed_.bind (fun x => (s.group p.tgrp).recorded x.1)
      let s1 : State := { s with pairs := { s.pairs with pmir := mput s.pairs.pmir k { p with taking := true, ans := own } } }
      match p.sealed_ with
      | some x => if own.isNone && (s.group p.tgrp).valid then askMembers p.tgrp x.1 s1 else s1
      | none => s1

/-- Waits on words at a home that no route reaches end with LINK_LOST (R309). -/
def watchLost (dev : Nat) (s : State) : State :=
  (s.links.reqs.filter (fun q => q.dst == dev && (match q.owner with
    | .watch _ => true
    | _ => false))).foldl (fun s q => reqEnd q stLinkLost [] s) s

/-- A device is declared lost (R304): what it shares with this device ends, cues that name it are affected (Table 12.8), and its mirrors are
taken over. It counts as lost while no route leads to it. -/
def declareLost (dev : Nat) (s : State) : State :=
  if dev == s.ownId then s
  else
    let hit := fun (d : Nat) => d == dev
    let s0 := splitPoint 4 s
    let gone := (routePort s0 dev).isNone
    let s1 : State := if gone && !s0.links.lost.contains dev then { s0 with links := { s0.links with lost := s0.links.lost ++ [dev] } } else s0
    let s2 := mirrorLost hit (tollLost hit (collLost hit (if gone then watchLost dev s1 else s1)))
    let s3 := affectCues 7 (fun _ _ q => q.cue.any (fun c => c.members.contains dev)) s2
    (s3.pairs.pmir.filter (fun p => p.2.auto && p.2.from_ == dev)).foldl (fun s p => takeBegin p.1 s) s3

def execLost (dev : Nat) (s : State) : Res := .next (if s.links.claimed then wake (declareLost dev s) else s)

/-! ### Routes (R300, R301) -/

/-- One hop more than the shorter of two routes. -/
def oneMore (a b : Option Nat) : Option Nat :=
  match a, b with
  | some x, some y => some (Nat.min x y + 1)
  | some x, none => some (x + 1)
  | none, some y => some (y + 1)
  | none, none => none

/-- The legal routes to a device over ports that a condition names, as (hops, port, first hop down), shortest first. -/
def routesBy (s : State) (d : Nat) (ok : Nat → Bool) : List (Nat × Nat × Bool) :=
  let l := ((neighbours s).filter ok).filterMap (fun n =>
    let r := farRoutes s n d
    let up := hopUp s n
    (if up then oneMore r.1 r.2 else oneMore none r.2).map (fun h => (h, n, !up)))
  (List.range 16).flatMap (fun h => l.filter (fun x => x.1 == h))

/-- The entry that H mode keeps: the shortest legal route, and the next-shortest as ALT. -/
def bestRoute (s : State) (d : Nat) : Rt :=
  match routesBy s d (fun _ => true) with
  | [] => {}
  | [a] => { v := true, port := a.2.1, hops := a.1, dn := a.2.2 }
  | a :: b :: _ => { v := true, port := a.2.1, alt := b.2.1, av := true, hops := a.1, dn := a.2.2 }

/-- What this device announces of a device over a port: the shortest route that starts up and the shortest that is all down, over its other
neighbours; and to its parent in the tree the root at 15 hops, which no route uses (DESIGN CHOICE, log 99). -/
def announceOf (s : State) (n d : Nat) : Option Nat × Option Nat :=
  let far := (s.port n).peer
  if rootId s == d && parentPort s == some n then (some 15, none)
  else if far == d then (none, none)
  else
    let l := routesBy s d (fun k => (s.port k).peer != far)
    ((l.find? (fun x => !x.2.2)).map (fun x => x.1), (l.find? (fun x => x.2.2)).map (fun x => x.1))

/-- The messages by which an announcement follows another: WITHDRAW when a route goes, and ROUTE for each that stands and is new. -/
def routeMsgs (s : State) (n d : Nat) (old new : Option Nat × Option Nat) : List Msg :=
  let base : Msg := { mtype := mtROUTE, dst := (s.port n).peer, src := s.ownId, addr := d }
  let drop := (old.1.isSome && new.1.isNone) || (old.2.isSome && new.2.isNone)
  let say := fun (dn : Bool) (o w : Option Nat) => match w with
    | none => []
    | some h => if drop || o != w then [{ base with param := h + 16 * b2n dn }] else []
  (if drop then [{ base with mtype := mtWITHDRAW }] else []) ++ say false old.1 new.1 ++ say true old.2 new.2

/-- A neighbour is told what has changed since it was last told. -/
def tellPort (n : Nat) (s : State) : State :=
  (nub (reachIds s ++ (s.port n).said.map (fun e => e.1))).foldl (fun s d =>
    let old := (mfind (s.port n).said d).getD (none, none)
    let new := announceOf s n d
    if old == new then s
    else
      let s1 := s.modPort n (fun p => { p with said := if new == (none, none) then mdel p.said d else mput p.said d new })
      (routeMsgs s n d old new).foldl (fun s m => sendOn n m s) s1) s

/-- The parent in the spanning tree (R370). -/
def setParent (s : State) : State :=
  let par := parentPort s
  let isRoot := !s.links.claimed || par.isNone
  let dev := (par.map (fun n => (s.port n).peer)).getD 0
  if s.time.root == isRoot && s.time.parent == dev then s
  else { s with time := { s.time with root := isRoot, parent := dev, hadAlign := s.time.hadAlign && isRoot, aligned := s.time.aligned && isRoot, goodSince := 0 } }

/-- The entry of a device: H mode keeps the best route, A mode learns only direct neighbours. -/
def entryOf (s : State) (d : Nat) : Rt :=
  let old := s.route d
  if !s.aMode 4 then bestRoute s d
  else if old.v then old
  else match (neighbours s).find? (fun n => (s.port n).peer == d) with
    | some n => { v := true, port := n, hops := 1, dn := !hopUp s n }
    | none => old

/-- The table follows what the neighbours announce (R301), and in H mode the neighbours are told. A device that is reachable again is lost no
more; one whose entry has become invalid is declared lost (R304). -/
def recompute (s : State) : State :=
  if !s.links.claimed then setParent s
  else
    let ids := (nub (reachIds s ++ s.links.rt.map (fun e => e.1))).filter (fun d => d != s.ownId)
    let s1 := ids.foldl (fun s d => if entryOf s d == s.route d then s else s.setRoute d (entryOf s d)) s
    let s2 : State := { s1 with links := { s1.links with lost := s1.links.lost.filter (fun d => !(s1.route d).v) } }
    let s3 := setParent (if s2.aMode 4 then s2 else (neighbours s2).foldl (fun s n => tellPort n s) s2)
    (ids.filter (fun d => (s.route d).v && !(s1.route d).v)).foldl (fun s d => declareLost d s) (reqsGo s3)

/-- A ROUTE message: the far end of the port reaches a device, by a route that starts up or is all down. -/
def execRoute (port dst hops : Nat) (dn : Bool) (s : State) : Res :=
  .next (if !portIsUp s port || !s.links.claimed then s
    else wake (recompute (s.modPort port (fun p =>
      let r := (mfind p.adv dst).getD (none, none)
      { p with adv := mput p.adv dst (if dn then (r.1, some hops) else (some hops, r.2)) }))))

/-- WITHDRAW: the far end of the port reaches a device no more by what it had announced. -/
def execWithdraw (port dst : Nat) (s : State) : Res :=
  .next (if !portIsUp s port || !s.links.claimed then s
    else wake (recompute (s.modPort port (fun p => { p with adv := mdel p.adv dst }))))

/-! ### Ports: training, HELLO, loss -/

def helloMsg (s : State) (n : Nat) : Msg :=
  { mtype := mtHELLO, dst := 0xFFF, src := s.ownId,
    data := leBytes 2 (if s.links.claimed then s.links.devid else 0xFFF) ++
      [BitVec.ofNat 8 n, BitVec.ofNat 8 s.pins.bpos, BitVec.ofNat 8 s.pins.pair, BitVec.ofNat 8 (if s.build == .t then 0 else 1), BitVec.ofNat 8 (b2n s.pins.legacy)] ++
      leBytes 8 s.tag.toNat }

/-- A port completes training and sends HELLO; each end holds full credit (R292, R295). -/
def portUp (n half : Nat) (s : State) : State :=
  if n ≥ Config.ports s.build || (s.port n).st == 2 || (s.port n).retraining || s.rep.failedPorts.contains n || (s.dom (69 + n)).st != 2 then s
  else
    let s1 := s.modPort n (fun p => { p with
      st := 2, halfRtt := half, txSeq := 0, rxSeq := 4095, nakWait := false, queue := [], cur := [], rx := [], replay := [], replays := 0, naks := 0, seen := none,
      credits := fullCredits, owed := [0, 0, 0, 0], adv := [], said := [] })
    setParent (sendOn n (helloMsg s1 n) s1)

def execPortUp (port halfRtt : Nat) (s : State) : Res := .next (portUp port halfRtt s)
def execHelloRepeat (port : Nat) (s : State) : Res := .next (if portIsUp s port then sendOn port (helloMsg s port) s else s)

/-- A HELLO is recorded; a new far end is told this device's routes. -/
def execHello (port dev farPort bpos pair : Nat) (_build : Build) (legacy : Bool) (tag : W64) (s : State) : Res :=
  .next (if !portIsUp s port then s
    else
      let fresh := !((s.port port).peerV && (s.port port).peer == dev)
      wake (recompute (s.modPort port (fun p => { p with
        peer := dev, peerPort := farPort, peerV := true, peerBpos := bpos, peerPair := pair, peerLegacy := legacy, peerTag := tag
        adv := if fresh then [] else p.adv, said := if fresh then [] else p.said }))))

/-- Devices to or from which messages went by a port (R305). -/
def usesPort (s : State) (n d : Nat) : Bool := ((s.route d).v && (s.route d).port == n) || mfind s.links.from_ d == some n

/-- What the loss of a port does here: its requests complete with LINK_LOST, the routes move, and the operations and mirrors that used it end
as if the device at the other end were lost; cross-device cues that use it are affected (R301, R305, R306, Table 12.8). -/
def portGone (n : Nat) (s : State) : State :=
  let far := (s.port n).peer
  let hit := usesPort s n
  let s1 := ((splitPoint 4 s).links.reqs.filter (fun q => q.port == n && !q.waiting)).foldl (fun s q => reqEnd q stLinkLost [] s) (splitPoint 4 s)
  let s2 := s1.modPort n (fun p => { p with queue := [], cur := [], rx := [], replay := [], peerV := false, adv := [], said := [] })
  let move := fun (e : Nat × Rt) => if !e.2.v || e.2.port != n then e
    else if e.2.av && e.2.alt != n then (e.1, { e.2 with port := e.2.alt, av := false })
    else (e.1, { e.2 with v := false })
  let s3 : State := { s2 with links := { s2.links with
    from_ := s2.links.from_.filter (fun e => e.2 != n)
    rt := if s2.aMode 4 then s2.links.rt.map move else s2.links.rt } }
  let s4 := mirrorLost hit (tollLost hit (collLost hit (recompute s3)))
  event 0 0x09 0 0 0 0 (BitVec.ofNat 64 (n + far * 16)) 0
    (affectCues 7 (fun _ _ q => q.cue.any (fun c => !c.members.isEmpty && (c.members.any (fun d => d != s.ownId && hit d) || c.send n != 0 || c.recv n != 0))) s4)

/-- 8 us without a valid frame (R303). -/
def execPortLost (port : Nat) (s : State) : Res :=
  .next (if !portIsUp s port then s else wake (portGone port (s.modPort port (fun p => { p with st := 3, loss := true }))))

/-- A retrain begins: the port keeps its unacknowledged flits (R291, R402). -/
def retrain (n : Nat) (s : State) : State := s.modPort n (fun p => { p with st := 1, retraining := true, replays := 0, naks := 0, nakWait := false, seen := none })

/-- The unacknowledged flits go again, in order, each with the acknowledgement of now (R291). -/
def replayAll (n : Nat) (s : State) : State := let p := s.port n; emitFlits n (p.replay.map (fun f => { f with ack := p.rxSeq })) s

/-- A retrain completes, and the flits not acknowledged are sent again. -/
def execPortRetrainComplete (port : Nat) (s : State) : Res :=
  .next (if !(s.port port).retraining then s
    else
      let s1 := s.modPort port (fun p => { p with st := 2, retraining := false })
      pump port (replayAll port s1))

/-- A failing physical lane is repaired (R402): lane 8 takes its logical lane; with the spare gone, or no room in the log for the
record, the port goes DOWN. The repair waits while staging has no room for its record (R397). -/
def laneRepair (n lane cws : Nat) (s : State) : State :=
  if s.rep.failedPorts.contains n || s.rep.deadLanes.contains (n, lane) then s
  else if s.permWait then { s with rep := { s.rep with laneWait := s.rep.laneWait ++ [(n, lane, cws)] } }
  else
    let s1 : State := { s with rep := { s.rep with deadLanes := s.rep.deadLanes ++ [(n, lane)] } }
    let down := s.rep.deadLanes.any (fun x => x.1 == n) || s.rep.pfull
    if down then
      let s2 := hlog 0x04 true 0 (BitVec.ofNat 64 n) 0 { s1 with rep := { s1.rep with failedPorts := s1.rep.failedPorts ++ [n] } }
      let was := portIsUp s n || (s.port n).retraining
      let s3 := s2.modPort n (fun p => { p with st := 0, retraining := false })
      if was then wake (portGone n s3) else s3
    else if lane == 8 then s1
    else
      let s2 := hlog 0x03 true 0 (BitVec.ofNat 64 (n + lane * 16 + lane * 256)) (BitVec.ofNat 64 cws) (s1.modPort n (fun p => { p with spare := lane }))
      if portIsUp s2 n then retrain n s2 else s2

/-- A physical lane fails, with the uncorrectable codewords of the last 1 ms. -/
def laneFail (n lane cws : Nat) (s : State) : State :=
  if n ≥ Config.ports s.build || lane > 8 || s.rep.failedPorts.contains n || s.rep.deadLanes.contains (n, lane) ||
    s.rep.laneWait.any (fun x => x.1 == n && x.2.1 == lane) then s
  else laneRepair n lane cws (cntBase (8 * n + 4) cws s)

def execLaneFailure (port lane cws : Nat) (s : State) : Res := .next (laneFail port lane cws s)

/-! ### The health log reaches MRAM (R396, R397) -/

/-- The place of the oldest record with PERM = 0, with its SEQ. -/
def oldestPlain : List HlogRec → Nat → Option (Nat × Nat)
  | [], _ => none
  | r :: rs, k =>
    match oldestPlain rs (k + 1) with
    | some (j, q) => if !r.perm && r.seq < q then some (k, r.seq) else some (j, q)
    | none => if r.perm then none else some (k, r.seq)

/-- One staged record reaches the MRAM area, in the place of the oldest record with PERM = 0 when the area is full; without one it stays
staged. -/
def hlogWrite (a : List HlogRec × List HlogRec) (r : HlogRec) : List HlogRec × List HlogRec :=
  if a.1.length < 4096 then (a.1 ++ [r], a.2)
  else match oldestPlain a.1 0 with
    | some (k, _) => (a.1.set k r, a.2)
    | none => (a.1, a.2 ++ [r])

/-- Staged records persist, inside the writing window and at most once per second; PFULL is set when no room remains for a PERM record.
Records and lane repairs that waited for staging go on. -/
def execHlogPersist (s : State) : Res :=
  .next (if !s.windowOpen || s.rep.persistAt.any (fun t => s.time.ref < t + 1000000000) then s
    else
      let a := s.rep.staged.foldl hlogWrite (s.rep.hlog, [])
      let full := (a.1.filter (fun r => r.perm)).length ≥ 4096
      let s1 : State := { s with rep := { s.rep with hlog := a.1, staged := a.2, pfull := full, persistAt := some s.time.ref, stageWait := [], laneWait := [] } }
      let s2 := if full && !s.rep.pfull then event 0 0x05 0 0 0 0 0 4 s1 else s1
      s.rep.laneWait.foldl (fun s x => laneRepair x.1 x.2.1 x.2.2 s) (s.rep.stageWait.foldl (fun s r => hlogStage r s) s2))

/-! ### Device IDs (R296, R297) -/

def claimMsg (id hops : Nat) (tag : W64) : Msg := { mtype := mtCLAIM, dst := 0xFFF, src := id, hops, data := leBytes 8 tag.toNat }

/-- The provisional ID. -/
def State.provisional (s : State) : Nat := 8 * s.links.board + s.pins.bpos

/-- The claim is lost to a device with a lower identity tag. -/
def claimLost (port id : Nat) (s : State) : State :=
  event stIdConflict 0x09 0 0 0 0 (BitVec.ofNat 64 (port + id * 16)) 0 { s with links := { s.links with conflict := true, claimed := false, devid := 0xFFF } }

/-- A write of GRP_ID_CFG: VALID going to 1 starts the claim, which a claim of that ID heard before may win at once; the record then names port
15, for the model keeps no port with a claim (DESIGN CHOICE, log 99). -/
def idCfgWrite (v : W64) (s : State) : State :=
  let start := bitOf v 9 && !s.links.idValid && !s.links.claimed
  let s1 : State := { s with links := { s.links with
    board := bitsOf v 8 0, idValid := bitOf v 9
    conflict := s.links.conflict && !bitOf v 23 } }
  if !start then s1
  else
    let id := s1.provisional
    let s2 := flood (claimMsg id 0 s.tag) none { s1 with links := { s1.links with claims := s1.links.claims ++ [(id, s.tag.toNat)] } }
    if s1.links.claims.any (fun c => c.1 == id && c.2 < s.tag.toNat) then claimLost 15 id s2 else s2

def execIdCfgWrite (v : W64) (s : State) : Res := .next (hostWrite (fun s => idCfgWrite v s) s)

/-- 100 us after VALID with no conflict. -/
def execClaimed (s : State) : Res :=
  .next (if s.links.idValid && !s.links.claimed && !s.links.conflict then
      wake (recompute { s with links := { s.links with claimed := true, devid := s.provisional } })
    else s)

/-- A CLAIM is relayed once; one of this device's ID by a lower identity tag takes the ID. -/
def execClaim (port id hops : Nat) (tag : W64) (s : State) : Res :=
  .next (if !portIsUp s port then s
    else
      let mine := if s.links.claimed then id == s.links.devid else s.links.idValid && !s.links.conflict && id == s.provisional
      let s1 := if mine && tag.toNat < s.tag.toNat then claimLost port id s else s
      if s1.links.claims.contains (id, tag.toNat) then s1
      else
        let s2 : State := { s1 with links := { s1.links with claims := s1.links.claims ++ [(id, tag.toNat)] } }
        if hops + 1 ≥ 15 then s2 else flood (claimMsg id (hops + 1) tag) (some port) s2)

/-! ### Requests of other devices (R307 to R309) -/

/-- A request of one type reaches this device. -/
def homeReq (port want : Nat) (m : Msg) (s : State) : Res :=
  .next (if m.mtype != want then s else onMsg port m (fun s => wake (homeTake port m s)) s)

def execRd (port : Nat) (m : Msg) (s : State) : Res := homeReq port mtRD m s
def execWr (port : Nat) (m : Msg) (s : State) : Res := homeReq port mtWR m s
def execSem (port : Nat) (m : Msg) (s : State) : Res := homeReq port mtSEM m s
def execWatch (port : Nat) (m : Msg) (s : State) : Res := homeReq port mtWATCH m s
def execZero (port : Nat) (m : Msg) (s : State) : Res := homeReq port mtZERO m s

/-! ### Answers (R306, R309) -/

/-- The outstanding request that an answer belongs to. -/
def answered (s : State) (m : Msg) : Option RemReq := s.links.reqs.find? (fun q => q.tag == m.tag && q.dst == m.src)

/-- Bytes received for a part's cue (R533). -/
def recvCue (port : Nat) (q : RemReq) (n : Nat) (s : State) : State :=
  match q.owner with
  | .part tile op _ => match s.op tile op with
    | some o => serveCue o.reel o.slot (fun c => { c with servRecv := mput c.servRecv port (mget 0 c.servRecv port + n) }) s
    | none => s
  | _ => s

def onData (port : Nat) (m : Msg) (s : State) : State :=
  match answered s m with
  | some q => reqEnd q stOk m.data (recvCue port q m.data.length s)
  | none => discardMsg port s

def onAck (port : Nat) (m : Msg) (s : State) : State :=
  match answered s m with
  | some q => reqEnd q (BitVec.ofNat 16 (natBits m.param 15 0)) [] s
  | none => discardMsg port s

/-- A watch report: the word's value or its poison reaches the WAIT (R161). -/
def onNotify (port : Nat) (m : Msg) (s : State) : State :=
  match answered s m with
  | some q =>
    (match q.owner with
      | .watch r =>
        let s1 := s.modThread r (fun t => { t with wait := t.wait.map (WaitSt.report (BitVec.ofNat 64 (leNat (m.data.take 8))) (natBits m.param 15 0 != 0)) })
        { s1 with links := { s1.links with reqs := mapIf (fun x => x.tag == q.tag) (fun x => { x with mtype := 0 }) s1.links.reqs } }
      | _ => discardMsg port s)
  | none => discardMsg port s

/-- A message of one type reaches this device. -/
def homeMsg (port : Nat) (want : Nat) (k : Msg → State → State) (m : Msg) (s : State) : Res :=
  .next (if m.mtype != want then s else onMsg port m (fun s => wake (k m s)) s)

def execRdata (port : Nat) (m : Msg) (s : State) : Res := homeMsg port mtRDATA (onData port) m s
def execAck (port : Nat) (m : Msg) (s : State) : Res := homeMsg port mtACK (onAck port) m s
def execNotify (port : Nat) (m : Msg) (s : State) : Res := homeMsg port mtNOTIFY (onNotify port) m s

/-- REQ_TMO passes; a watch that has reported has completed. -/
def execRemoteRequestTimeout (tag : Nat) (s : State) : Res :=
  .next (match s.links.reqs.find? (fun q => q.tag == tag && q.mtype != 0) with
    | some q => reqDone q stLinkLost [] s
    | none => s)

/-- A CLAP message goes on along the tree and its tick joins the pending ones (R322, R498); a tick already pending has been relayed. -/
def clapIn (port hops : Nat) (tick : W64) (s : State) : State :=
  if !portIsUp s port || !s.links.claimed || s.obs.pending.contains tick.toNat then s
  else freezeAt tick.toNat (clapFlood tick (hops + 1) (some port) s)

def execClapMsg (port : Nat) (tick : W64) (s : State) : Res := .next (clapIn port 0 tick s)

end Sys2Proof.Machine
end

