-- ==== Sys2Proof/Machine/Pairs.lean ====
section
/-! DEFINITION. Pairs and mirroring (R323 to R330), checkpoint export (R331), and the live switch of the Director's, the Grip's
and Continuity's images (R411, R412). -/
namespace Sys2Proof.Machine

/-! ### The primary -/

/-- A PAIR event record of a reel's relationship (Table 14.11). -/
def pairEvent (st : Status) (reel : Nat) (s : State) : State :=
  event st 0x08 0 0 0 0 (BitVec.ofNat 64 ((s.mir reel).peer + reel * 2 ^ 12)) 0 s

/-- The relationship is refused (R324). -/
def mirrorRefused (reel : Nat) (s : State) : State := pairEvent stPairRefused reel (s.modMir reel (fun m => { m with st := 0, refused := true }))

/-- The relationship opens with the PARTNER and TGRP of now, which it keeps: OPEN carries the image size in units of 64 KiB. A partner that is
this device itself refuses (R324); regions that do not translate open nothing (DESIGN CHOICE, log 43). During a translation flush the region
list waits to be read (R38). -/
def mirrorOpen (reel : Nat) (s : State) : State :=
  let s := s.modMir reel (fun m => { m with peer := m.partner, grp := m.tgrp, toOpen := s.xl.flush })
  let m := s.mir reel
  if m.toOpen then s.modMir reel (fun m => { m with st := 1 })
  else match (regionEntries s m.list.toNat m.count).bind (regionBlocks s none) with
  | none => mirrorRefused reel s
  | some bs =>
    if m.peer == s.ownId then mirrorRefused reel s
    else mctl m.peer mcOPEN reel [m.grp, bs.length, b2n s.pins.legacy, s.pins.pair]
      (s.modMir reel (fun m => { m with st := 1, regions := bs, stale := [], records := 0, sealed_ := none, sacked := false, unacked := false }))

/-- The relationship of a reel ends on the primary, which sends CLOSE (R329). -/
def mirrorDown (reel : Nat) (s : State) : State :=
  let m := s.mir reel
  let s1 := if m.st == 0 then s else mctl m.peer mcCLOSE reel [0] s
  s1.modMir reel (fun m => { m with st := 0, toOpen := false, sealed_ := none, sacked := false, unacked := false, stale := [], records := 0 })

/-- EN is cleared, or the reel released (R329). -/
def mirrorClose (reel : Nat) (s : State) : State := (mirrorDown reel s).modMir reel (fun m => { m with en := false })

/-- A write of CON_MIR_CTL_n (Table 10.16). PARTNER and TGRP take every write; a relationship in progress goes on with those it opened with
(DESIGN CHOICE, log 99). -/
def mirWrite (reel : Nat) (v : W64) (s : State) : State :=
  let m := s.mir reel
  let en := bitOf v 0
  let s1 := s.modMir reel (fun m => { m with refused := m.refused && !bitOf v 19, partner := bitsOf v 12 1, tgrp := bitsOf v 16 13 })
  if en && !m.en then mirrorOpen reel (s1.modMir reel (fun m => { m with en := true }))
  else if !en && m.en then mirrorClose reel s1
  else s1

def execMirrorEnWrite (reel : Nat) (v : W64) (s : State) : Res := .next (hostWrite (fun s => if reel < 16 then mirWrite reel v s else s) s)

/-- The partner accepted: the first frame carries every region (R324). -/
def execMctlAccept (reel : Nat) (s : State) : Res :=
  .next (if (s.mir reel).st != 1 || !s.links.claimed then s
    else s.modMir reel (fun m => { m with st := 2, stale := List.range m.regions.length, host := s.aMode 9 }))

/-- The partner refused. -/
def execMctlRefused (reel : Nat) (s : State) : Res :=
  .next (if (s.mir reel).st != 1 || !s.links.claimed then s else mirrorRefused reel s)

def execMctlSack (reel tag : Nat) (s : State) : Res :=
  .next (if (s.mir reel).sealed_ == some tag && s.links.claimed then s.modMir reel (fun m => { m with sacked := true }) else s)

/-- The partner has applied or discarded the step's frame: chunks of the next step may stage, into a frame that is encoded by the mode of
now, and STEP follows a commit. -/
def execMctlCack (reel tag : Nat) (s : State) : Res :=
  .next (if (s.mir reel).st != 2 || !(s.mir reel).unacked || !s.links.claimed then s
    else s.modMir reel (fun m => { m with
      unacked := false, step := if (s.group m.grp).recorded tag == some true then m.step else tag, host := s.aMode 9 }))

/-! ### The partner -/

def State.pmir (s : State) (k : Nat) : PMirror := mget {} s.pairs.pmir k
def State.modPmir (s : State) (k : Nat) (f : PMirror → PMirror) : State :=
  { s with pairs := { s.pairs with pmir := mput s.pairs.pmir k (f (s.pmir k)) } }

/-- A write of word 0 of CON_PMIR_k: ARM, PRIMARY and AUTO. Clearing ARM ends a relationship, and the primary is told by CLOSE; a new PRIMARY
counts from the next OPEN on (R329; DESIGN CHOICE, log 99). -/
def pmirWrite (k : Nat) (v : W64) (s : State) : State :=
  let p := s.pmir k
  let arm := bitOf v 0
  let s0 := if p.st == 2 && !arm then mctl p.from_ mcCLOSE p.reel [1] s else s
  let s1 := s0.modPmir k (fun p => { p with arm, auto := bitOf v 13, primary := bitsOf v 12 1 })
  match p.st with
  | 0 => if arm then s1.modPmir k (fun p => { p with st := 1 }) else s1
  | 1 => if arm then s1 else s1.modPmir k (fun p => { p with st := 0 })
  | 4 => s1
  | _ => if arm then s1 else s1.modPmir k (fun p => { p with st := 4, taking := false, sealed_ := none, due := none, frame := [] })

def execPmirArmWrite (k : Nat) (v : W64) (s : State) : Res := .next (hostWrite (fun s => if k < 16 then pmirWrite k v s else s) s)

/-- The slot of a primary's reel in MIRRORING. -/
def slotOfReel (s : State) (primary reel : Nat) : Option Nat :=
  ((List.range 16).find? (fun k => let p := s.pmir k; p.st == 2 && p.from_ == primary && p.reel == reel))

/-- The reserve that an image of I units of 64 KiB needs, in the same units (R323). -/
def reserveNeed (i : Nat) : Nat := ceilDiv (13 * i) 4 + 1

/-- OPEN at the partner (R324). -/
def pmirOpen (primary reel tgrp size : Nat) (legacy : Bool) (pair : Nat) (s : State) : State :=
  match (List.range 16).find? (fun k => let p := s.pmir k; p.st == 1 && p.arm && p.primary == primary) with
  | none => mctl primary mcREFUSED reel [] s
  | some k =>
    if (s.pmir k).size < reserveNeed size || primary == s.ownId || ((legacy || s.pins.legacy) && pair == s.pins.pair) then mctl primary mcREFUSED reel [] s
    else mctl primary mcACCEPT reel [] (s.modPmir k (fun p => { p with
      st := 2, from_ := primary, reel, tgrp, image := size, step := 0, frame := [], sealed_ := none, sacked := false, taking := false, ans := none, due := none, stopping := false }))

def execMctlOpen (primary reel tgrp size : Nat) (legacy : Bool) (pair : Nat) (s : State) : Res :=
  .next (if s.links.claimed then pmirOpen primary reel tgrp size legacy pair s else s)

/-- One record applied to the image (R325). -/
def applyRec (base : Nat) (m : MRec) (s : State) : State :=
  let a := base * 0x10000 + m.addr
  let bs := if m.kind == 1 then m.data else
    let x := diffBytes m.data.length m.data
    xorBytes x (s.bytes a x.length)
  if s.populated a then homeWrite a 0 bs s else s

/-- The frame is applied, FULL records before DIFF records, and acknowledged (step 6 of Table 10.18). -/
def applyFrame (k t : Nat) (s : State) : State :=
  let p := s.pmir k
  let l := p.frame.filter (fun m => m.kind == 1) ++ p.frame.filter (fun m => m.kind != 1)
  (l.foldl (fun s m => applyRec p.base m s) s).modPmir k (fun p => { p with frame := [], step := t, sealed_ := none, sacked := false, due := none })

/-- The seal is answered once its records are all stored, and a COMMIT applied once its are. -/
def frameCheck (k : Nat) (s : State) : State :=
  let p := s.pmir k
  let s1 := match p.sealed_ with
    | some (t, n, _) => if !p.sacked && p.frame.length ≥ n then mctl p.from_ mcSACK p.reel [t] (s.modPmir k (fun p => { p with sacked := true })) else s
    | none => s
  match (s1.pmir k).due with
  | some (t, n) => if (s1.pmir k).frame.length ≥ n then mctl p.from_ mcCACK p.reel [t] (applyFrame k t s1) else s1
  | none => s1

def onSlot (primary reel : Nat) (f : Nat → State → State) (s : State) : Res :=
  .next (match slotOfReel s primary reel with
    | some k => if (s.pmir k).taking || !s.links.claimed then s else f k s
    | none => s)

def execMrec (primary reel kind tag addr : Nat) (data : List Byte) (s : State) : Res :=
  onSlot primary reel (fun k s => frameCheck k (s.modPmir k (fun p => { p with frame := p.frame ++ [⟨kind, tag, addr, data⟩] }))) s

def execMctlSeal (primary reel tag count wait : Nat) (s : State) : Res :=
  onSlot primary reel (fun k s => frameCheck k (s.modPmir k (fun p => { p with sealed_ := some (tag, count, wait), sacked := false }))) s

def execMctlCommit (primary reel tag total : Nat) (s : State) : Res :=
  onSlot primary reel (fun k s => frameCheck k (s.modPmir k (fun p => { p with due := some (tag, total) }))) s

/-- The frame is discarded; its acknowledgement lets the next step stage (R325). -/
def execMctlDrop (primary reel tag : Nat) (s : State) : Res :=
  onSlot primary reel (fun k s => mctl primary mcCACK reel [tag] (s.modPmir k (fun p => { p with frame := [], sealed_ := none, sacked := false, due := none }))) s

/-- CLOSE: the partner's slot begins to clear; from the partner, whose ARM was cleared, it ends the relationship on the primary (R329). -/
def execMctlClose (who : Closer) (reel : Nat) (s : State) : Res :=
  match who with
  | .partner dev => .next (if s.links.claimed && (s.mir reel).peer == dev && ((s.mir reel).st == 1 || (s.mir reel).st == 2) then mirrorDown reel s else s)
  | .primary dev => onSlot dev reel (fun k s => s.modPmir k (fun p => { p with st := 4, frame := [], sealed_ := none, sacked := false, due := none })) s

def execMctlStopping (primary : Nat) (s : State) : Res :=
  .next ((List.range 16).foldl (fun s k => if s.links.claimed && (s.pmir k).st == 2 && (s.pmir k).from_ == primary then s.modPmir k (fun p => { p with stopping := true }) else s) s)

def execTake (k : Nat) (s : State) : Res := .next (hostWrite (fun s => takeBegin k s) s)

/-- The takeover is settled (R327): an unsealed frame is discarded; a sealed one goes by the query's first answer, which it awaits, and
stays unapplied when the query's limit has passed without one. -/
def takeover (k : Nat) (late : Bool) (s : State) : State :=
  let p := s.pmir k
  if !p.taking || (p.sealed_.isSome && p.ans.isNone && !late) then s
  else
    let drop := fun (s : State) => s.modPmir k (fun p => { p with frame := [] })
    let r : Status × State := match p.sealed_, p.ans with
      | none, _ => (stOk, drop s)
      | some (t, _, 0), some false => (stOk, applyFrame k t s)
      | some _, some true => (stOk, drop s)
      | some _, _ => (stMirrorBehind, drop s)
    let s1 := r.2.modPmir k (fun p => { p with st := 3, taking := false, sealed_ := none, sacked := false, due := none })
    event r.1 0x07 0 0 0 0 (BitVec.ofNat 64 (p.from_ + p.reel * 2 ^ 12 + (s1.pmir k).step * 2 ^ 16)) (BitVec.ofNat 64 k) s1

def execPartnerTakeover (k : Nat) (late : Bool) (s : State) : Res := .next (takeover k late s)

/-- The image and the frame area have been zeroed (R329). -/
def execMirrorClearComplete (k : Nat) (s : State) : Res :=
  .next (let p := s.pmir k
    if p.st != 4 then s
    else
      let a := p.base * 0x10000
      let n := ceilDiv (13 * p.image) 4 * 0x10000
      let s1 := if s.populated a && n != 0 then s.zero a n else s
      s1.modPmir k (fun p => { p with st := b2n p.arm, image := 0, step := 0, frame := [] }))

/-! ### Checkpoint export (R331) -/

def expReel (w : List W64) : Nat := bitsOf (w.getD 0 0) 3 0
def expGroup (w : List W64) : Nat := bitsOf (w.getD 0 0) 7 4
def expCount (w : List W64) : Nat := bitsOf (w.getD 0 0) 14 8

/-- The blocks of an export by their entries; `need` asks for R (R331). -/
def expBlocks (s : State) (need : Option Need) (w : List W64) : Option (List (Nat × Nat)) :=
  (regionEntries s ((w.getD 1 0).toNat % 2 ^ 52) (expCount w)).bind (regionBlocks s need)

def expEnd (st : Status) (s : State) : State := { s with pairs := { s.pairs with expBusy := false, expRun := false, expPlaces := [], expStatus := st } }

/-- The export's descriptor is read, once no flush stops walks (R38): one that cannot be read, or a region that cannot, ends the export at
once (DEDUCED, log 44). -/
def exportRead (s : State) : State :=
  if s.xl.flush then s
  else match fwBytes s (s.pairs.expDesc.toNat % 2 ^ 52) 24 with
    | none => expEnd stXlateFault s
    | some bs =>
      let w := wordsOf 3 bs
      if expCount w == 0 || expCount w > 64 then expEnd stFormMismatch s
      else if (expBlocks s none w).isNone then expEnd stXlateFault s
      else if (expBlocks s (some .r) w).isNone then expEnd stPermFault s
      else
        let c := s.commitWord (expGroup w)
        { s with pairs := { s.pairs with expWords := w, expTag := if c.v then c.done else 0x10000 } }

/-- GO starts an export. -/
def exportGo (s : State) : State :=
  if s.pairs.expBusy then s
  else exportRead { s with pairs := { s.pairs with expBusy := true, expRun := false, expStatus := stOk, expWords := [] } }

def execExportGo (s : State) : Res := .next (hostWrite (fun s => exportGo s) s)

/-- The next commit of the group has completed: its places are written (step 5 of Table 8.7). -/
def execExportStart (s : State) : Res :=
  .next (let g := expGroup s.pairs.expWords
    let c := s.commitWord g
    if s.pairs.expBusy && s.pairs.expWords.isEmpty then exportRead s
    else if !s.pairs.expBusy || s.pairs.expRun || s.xl.flush || !c.v || c.res || c.done == s.pairs.expTag ||
        s.bank.roll.any (fun x => x.mark == 2 && x.group == g && x.step == c.done) then s
    else { s with pairs := { s.pairs with expRun := true, expTag := c.done, expPlaces := (expBlocks s none s.pairs.expWords).getD [] } })

/-- What the export writes: header, region entries, data and digest. -/
def exportBytes (s : State) (w : List W64) (bs : List (Nat × Nat)) : List Byte :=
  let entries := ((fwBytes s ((w.getD 1 0).toNat % 2 ^ 52) (16 * expCount w))).getD []
  let data := bs.flatMap (fun g => if s.isLocal g.1 then s.bytes (paLocal g.1) g.2 else s.lineBytes g.1 g.2)
  let w0 := s.ownId + (if s.build == .t then 0 else 2 ^ 12) + expReel w * 2 ^ 13 + expGroup w * 2 ^ 17 + s.pairs.expTag * 2 ^ 21 + expCount w * 2 ^ 37
  let head := leBytes 8 w0 ++ leBytes 8 data.length ++ List.replicate 48 (0 : Byte)
  let all := head ++ entries ++ data
  all ++ Config.shake256 all 32

/-- Everything is written to the host, or the host failed. -/
def execExportComplete (e : HostEnd) (s : State) : Res :=
  .next (if !s.pairs.expRun || s.xl.flush then s
    else if e != .ok || !s.host.bme || s.host.degraded then expEnd stHostAbort s
    else match expBlocks s (some .r) s.pairs.expWords with
      | none => expEnd (if (expBlocks s none s.pairs.expWords).isNone then stXlateFault else stPermFault) s
      | some bs => expEnd stOk (s.send (.write (s.pairs.expWords.getD 2 0).toNat (exportBytes s s.pairs.expWords bs))))

/-- The flush is over: what waited for it reads its lists, and accesses go on in the new mode (R38). -/
def execXlateFlushComplete (s : State) : Res :=
  .next (if !s.xl.flush || !s.xl.walks.isEmpty || usesRange s 0 (2 ^ 52) then s
    else
      let s1 := (flushDone s).pairs.mir.foldl (fun s m => if m.2.toOpen then mirrorOpen m.1 s else s) (flushDone s)
      wake (if s1.pairs.expBusy && s1.pairs.expWords.isEmpty then exportRead s1 else s1))

/-! ### The live switch (Table 13.9) -/

def State.modRep (s : State) (f : Repair → Repair) : State := { s with rep := f s.rep }

def fwEnd (st : Status) (s : State) : State := s.modRep (fun r => { r with fwBusy := false, fwSwitching := false, fwStatus := st })

/-- A write of CON_FW_CTL (Table 13.10). -/
def fwWrite (v : W64) (s : State) : State :=
  let s1 := s.modRep (fun r => { r with fwLimit := bitsOf v 47 32 })
    if !bitOf v 0 || s.rep.fwBusy then s1
    else if !s.rep.fwVerified then s1.modRep (fun r => { r with fwStatus := stFwNotVerified })
    else s1.modRep (fun r => { r with fwBusy := true, fwSwitching := false, fwStatus := stOk })

def execFwSwitchGo (v : W64) (s : State) : Res := .next (hostWrite (fwWrite v) s)

/-- A switch point (R411). -/
def switchPoint (s : State) : Bool :=
  s.admitted.isEmpty && s.cues.all (fun c => c.2.2.st != .awaiting) && s.bank.groups.all (fun g => !g.2.busy) &&
  s.bank.roll.all (fun x => x.mark != 1 && x.mark != 2) && s.bank.ops.all (fun o => o.kind != .coll && o.kind != .perm) &&
  !s.pairs.expBusy && s.pairs.mir.all (fun m => m.2.sealed_.isNone) && s.pairs.pmir.all (fun p => p.2.sealed_.isNone)

def execFwSwitchPoint (s : State) : Res :=
  .next (if s.rep.fwBusy && !s.rep.fwSwitching && switchPoint s then s.modRep (fun r => { r with fwSwitching := true }) else s)

/-- LIMIT passes without a switch point: nothing changes (R412). -/
def execFwSwitchTimeout (s : State) : Res :=
  .next (if s.rep.fwBusy && !s.rep.fwSwitching && s.rep.fwLimit != 0 then fwEnd stFwSwitchTimeout s else s)

/-- The self-checks finish: the new images run, with the standby Director cores in the active roles, or every processor returns to the old slot; issue resumes. -/
def execFwSelfCheckComplete (failed : Option Nat) (s : State) : Res :=
  .next (if !s.rep.fwSwitching then s
    else match failed with
      | some p => wake (fwEnd stFwReverted (hlog 0x0D true stFwReverted (BitVec.ofNat 64 s.rep.fwActive) (BitVec.ofNat 64 p) s))
      | none =>
        let new := 1 - s.rep.fwActive
        let s1 := hlog 0x0C true 0 (BitVec.ofNat 64 new) (imgWord (imgSlot s new) 1) (s.modRep (fun r => { r with
          fwActive := new
          fwJpend := true
          dirActive := if r.dirStandby.isEmpty then r.dirActive else r.dirStandby
          dirStandby := if r.dirStandby.isEmpty then [] else r.dirActive }))
        wake (winRequest (.fwslot new) (fwEnd stOk (runStack (imgSlot s new) s1))))

end Sys2Proof.Machine
end

