-- ==== Sys2Proof/Machine/Reels.lean ====
section
/-! DEFINITION. Reels and sequences (R133 to R142), launch records (R431), update helpers (R262), and the rings of host memory
with their doorbells and signals (R429, R430, R432, R436). -/
namespace Sys2Proof.Machine

/-! ### Rings -/

def Reel.sq (R : Reel) (q : Nat) : Ring := if q == 0 then R.sq0 else R.sq1
def Reel.setSq (R : Reel) (q : Nat) (r : Ring) : Reel := if q == 0 then { R with sq0 := r } else { R with sq1 := r }

/-- The ring that a name gives; a name that gives none reads as a ring at reset. -/
def State.ring (s : State) : RingId → Ring
  | .sq n q => (s.reel n).sq q
  | .cq n => (s.reel n).cq
  | .eq => s.host.eq
  | .dma k => (s.dma k).ring

def State.setRing (s : State) (i : RingId) (r : Ring) : State :=
  match i with
  | .sq n q => s.modReel n (fun R => R.setSq q r)
  | .cq n => s.modReel n (fun R => { R with cq := r })
  | .eq => { s with host := { s.host with eq := r } }
  | .dma k => s.modDma k (fun d => { d with ring := r })

/-- The device has the ring. -/
def ringThere : RingId → Bool
  | .sq n q => n < 16 && q < 2
  | .cq n => n < 16
  | .eq => true
  | .dma k => k < 4

/-- The QUEUE event record of a ring (Table 14.11). -/
def ringInvalid (i : RingId) (s : State) : State :=
  match i with
  | .sq n q => queueEvent stQueueInvalid n q 0 s
  | .cq n => queueEvent stQueueInvalid n 2 0 s
  | .eq => queueEvent stQueueInvalid 0 3 0 s
  | .dma k => queueEvent stQueueInvalid 0 4 k s

/-- A write of word 0 of a ring register (R429): LOGN and BASE only while EN is 0; an enable with LOGN out of range leaves EN at 0. -/
def ringEnable (i : RingId) (v : W64) (s : State) : State :=
  if !ringThere i then s
  else
    let r := s.ring i
    let en := bitOf v 0
    let r1 : Ring := if r.en then r else { r with logn := bitsOf v 4 1, base := bitsOf v 63 12 }
    if !en then s.setRing i { r1 with en := false }
    else if r.en then s
    else if r1.logn < 4 || r1.logn > 12 then ringInvalid i (s.setRing i r1)
    else s.setRing i { r1 with en := true, head := 0, tail := 0, phase := true }

def execRingEnable (ring : RingId) (v : W64) (s : State) : Res := .next (hostWrite (fun s => ringEnable ring v s) s)

/-- A write of the fields of word 1 that a completion queue, the event queue or a DMA engine has (Table 14.6). -/
def ringSignal (i : RingId) (v : W64) (s : State) : State :=
  match i with
  | .sq _ _ => s
  | _ =>
    if !ringThere i then s
    else
      let s1 := s.setRing i { s.ring i with vec := bitsOf v 7 0, ien := bitOf v 8, cnt := bitsOf v 23 16, delay := bitsOf v 31 24 }
      if i == .eq && bitsOf v 63 57 != 0 then { s1 with host := { s1.host with eqDrops := 0 } } else s1

/-- A doorbell (R430): an index in range of a ring in use is taken, any other ignored and reported. -/
def doorbell (i : RingId) (v : W64) (set : Ring → Nat → Ring) (k : State → State) (s : State) : State :=
  if !ringThere i then s
  else
    let r := s.ring i
    let x := bitsOf v 11 0
    if !r.en || x ≥ r.size then ringInvalid i s else k (s.setRing i (set r x))

def setTail (r : Ring) (x : Nat) : Ring := { r with tail := x }
def setHead (r : Ring) (x : Nat) : Ring := { r with head := x }

/-- The records that host software encoded for a part of a mirror list go to the partner. How it submits them the manual does not say: they
are free, and go as the host reads past the part's event record (DESIGN CHOICE, log 99). -/
def hostRecords (reel tag : Nat) (s : State) : State :=
  let v := Config.freeIn s.freeCtr
  if (s.mir reel).st != 2 then s
  else (List.range (v 0)).foldl (fun t j =>
    sendRec reel (v (3 * j + 1) % 2) tag (v (3 * j + 2)) ((List.range (v (3 * j + 3) % 257)).map (fun b => Config.freeByte s.freeCtr (512 * j + b))) t)
    { s with freeCtr := s.freeCtr + 1 }

/-- Once the host has read past a part of a mirror list, the next part follows, the next list, or the end of the frame (R330, R434). -/
def mlistGo (s : State) : State :=
  let r := s.host.eq
  let p := s.pairs
  if !p.mlistOn || (p.mlistAt + r.size - r.head) % r.size < (r.tail + r.size - r.head) % r.size then s
  else
    let s1 := hostRecords p.mlistReel p.mlistTag s
    if !p.mlistNext.isEmpty then mirlistPart p.mlistReel p.mlistGroup p.mlistTag p.mlistNext s1
    else
      let s2 := mirrorCommit p.mlistGroup p.mlistTag { s1 with pairs := { s1.pairs with mlistOn := false } }
      match s2.pairs.mlists with
      | [] => s2
      | l :: rest => mirlistPart l.reel l.group l.tag l.slots { s2 with pairs := { s2.pairs with mlists := rest } }

def execSqTailDoorbell (reel q : Nat) (v : W64) (s : State) : Res := .next (hostWrite (fun s => doorbell (.sq reel q) v setTail id s) s)
def execCqHeadDoorbell (reel : Nat) (v : W64) (s : State) : Res := .next (hostWrite (fun s => doorbell (.cq reel) v setHead id s) s)
/-- Room in the event queue lets the OVERFLOW record that is owed go first (R435). -/
def execEqHeadDoorbell (v : W64) (s : State) : Res := .next (hostWrite (fun s => doorbell .eq v setHead (fun s => mlistGo (eqOverflow s)) s) s)
def execDmaTailDoorbell (k : Nat) (v : W64) (s : State) : Res := .next (hostWrite (fun s => doorbell (.dma k) v setTail id s) s)

/-- DELAY has passed since the oldest record that the ring counts: it signals (R436). -/
def msixDelay (i : RingId) (s : State) : State :=
  let r := s.ring i
  if !ringThere i || !r.ien || r.unsig == 0 || r.delay == 0 then s else msixFire r.vec (s.setRing i { r with unsig := 0 })

def execMsixDelayExpire (ring : RingId) (s : State) : Res := .next (msixDelay ring s)

/-! ### Reels (R135, R136, Tables 5.2 and 5.3) -/

/-- A write of DIR_REEL_CTL_n. -/
def reelCtlWrite (n : Nat) (v : W64) (s : State) : State :=
  if n ≥ 16 then s
  else
    let s1 := s.modReel n (fun R => { R with allot := bitsOf v 9 5 })
    match bitOf v 2, bitOf v 3 with
    | true, false => s1.modReel n (fun R => match R.state with
        | 0 => { R with state := 1, phase := 0 }
        | 2 => { R with openPend := true }
        | _ => R)
    | false, true => s1.modReel n (fun R => match R.state with
        | 1 => { R with state := 2 }
        | 2 => { R with openPend := false }
        | _ => R)
    | _, _ => s1

def execOpenReq (reel : Nat) (v : W64) (s : State) : Res := .next (hostWrite (fun s => reelCtlWrite reel v s) s)
def execCloseReq (reel : Nat) (v : W64) (s : State) : Res := .next (hostWrite (fun s => reelCtlWrite reel v s) s)

/-- A reel whose last sequence has ended, and whose records are all written, is released (R136, R271). An open request that
waits takes effect. -/
def reelRelease (n : Nat) (s : State) : State :=
  let R := s.reel n
  if R.state != 2 || !R.seqs.isEmpty || !R.waiting.isEmpty then s
  else
    (mirrorClose n s).modReel n (fun R => { R with
      state := if R.openPend then 1 else 0
      openPend := false, allot := 0, seed := 0, draws := [], aqUsed := 0, qrej := false, phase := 0
      sq0 := {}, sq1 := {}, cq := {}, cnt := [] })

def execReelRelease (reel : Nat) (s : State) : Res := .next (reelRelease reel s)

/-- A write of DIR_REEL_SEED_n clears the reel's draw counter at every site (R69). -/
def seedWrite (n : Nat) (v : W64) (s : State) : State :=
  if n ≥ 16 then s else s.modReel n (fun R => { R with seed := v, draws := [] })

def execSeedWrite (reel : Nat) (v : W64) (s : State) : Res := .next (hostWrite (fun s => seedWrite reel v s) s)

/-! ### Threads (R140, R141) -/

/-- Hardware threads of a tile that a launch can take: none while its domain is not ON, or it is being swapped or reset. -/
def freeThreads (s : State) (t : Nat) : List Nat :=
  if !s.tileThere t || !s.domOn (servingDom s t) || (s.rep.tspRetiring && s.rep.tspQueue.head? == some t) || s.start.tileWait == some t then []
  else (List.range 24).filter (fun n => !(s.thread ⟨t, n⟩).live)

/-- n distinct elements of a list, chosen by numbers that are taken modulo what is left. -/
def choose : Nat → List Nat → List Nat → List Nat
  | 0, _, _ => []
  | n + 1, l, picks =>
    let k := (picks.headD 0) % (Nat.max 1 l.length)
    match l[k]? with
    | none => []
    | some x => x :: choose n (l.eraseIdx k) (picks.drop 1)

/-- A thread at its start (Table 5.4). -/
def startThread (pc : W64) (reel slot s3 : Nat) (helper : Bool) (tile i : Nat) (args : List W64) : Thread :=
  let t : Thread := { live := true, reel, slot, helper, pc }
  let t1 := ((t.setS 1 (BitVec.ofNat 64 tile)).setS 2 (BitVec.ofNat 64 i)).setS 3 (BitVec.ofNat 64 s3)
  args.zipIdx.foldl (fun t a => t.setS (4 + a.2) a.1) t1

/-- Threads of a tile start: what they are, and where. -/
def startOn (pc : W64) (reel slot s3 : Nat) (helper : Bool) (tile : Nat) (ths : List Nat) (args : List W64) (s : State) : State :=
  ths.zipIdx.foldl (fun s x => s.setThread ⟨tile, x.1⟩ (startThread pc reel slot s3 helper tile x.2 args)) s

/-! ### Helpers (R262) -/

/-- The helper that waits for threads, with its UPD. -/
def helperWaiting (s : State) (reel : Nat) : Option (Helper × BOp) :=
  match (s.reel reel).helper with
  | none => none
  | some h => if h.running.isEmpty then (s.bop h.op).map (fun o => (h, o)) else none

def helperStart (reel : Nat) (picks : List Nat) (s : State) : State :=
  match helperWaiting s reel with
  | none => s
  | some (h, o) =>
    let free := freeThreads s o.tile
    if !s.directorUp || free.length < h.threads then s
    else
      let ths := choose h.threads free picks
      let s1 := startOn h.pc reel 0 (reel + 128) true o.tile ths [BitVec.ofNat 64 o.addr, BitVec.ofNat 64 o.chunks, 0, 0] s
      s1.modReel reel (fun R => { R with helper := some { h with running := ths.map (fun n => TRef.mk o.tile n) } })

def execHelperStart (reel : Nat) (picks : List Nat) (s : State) : Res := .next (helperStart reel picks s)

/-- The threads have not become free: the UPD stages nothing and sets SRC. -/
def helperRefused (reel : Nat) (s : State) : State :=
  match helperWaiting s reel with
  | none => s
  | some (h, o) => wake (bopFinish h.op stHelperRefused (noteSrc o.group (helperNext reel s)))

def execHelperRefused (reel : Nat) (s : State) : Res := .next (helperRefused reel s)

/-! ### Launch records (R138 to R140, R431) -/

/-- Tiles that a launch record names. -/
def recTiles (w : List W64) : List Nat := (List.range 256).filter (fun t => bitOf (w.getD (2 + t / 64) 0) (t % 64))
def recThreads (w : List W64) : Nat := bitsOf (w.getD 0 0) 12 8
def recCid (w : List W64) : Nat := bitsOf (w.getD 0 0) 31 16
def recPc (w : List W64) : Nat := bitsOf (w.getD 1 0) 51 0
/-- ALLOT as the Director takes it: 25 to 31 act as 24. -/
def Reel.allotted (R : Reel) : Nat := Nat.min R.allot 24

/-- The status of a record that starts nothing: REEL_CLOSED before every other check (DEDUCED, log 52), then a NOP's success. -/
def recStatus (s : State) (reel : Nat) (w : List W64) : Option Status :=
  let R := s.reel reel
  let kind := bitsOf (w.getD 0 0) 7 0
  let t := recThreads w
  let tiles := recTiles w
  if R.state != 1 then some stReelClosed
  else if kind == 0 then some stOk
  else if kind != 1 || recPc w % 8 != 0 || t == 0 || t > 24 || t > R.allotted || tiles.isEmpty || tiles.any (fun x => !s.tileThere x) then some stLaunchInvalid
  else none

/-- Threads of a reel's live sequences on a tile. -/
def reelThreadsOn (s : State) (reel t : Nat) : Nat :=
  ((s.tile t).threads.filter (fun x => x.2.live && !x.2.helper && x.2.reel == reel)).length

/-- A helper waits for threads of the tile: it goes before a launch (R262). -/
def helperBefore (s : State) (t : Nat) : Bool :=
  s.reels.any (fun R => (helperWaiting s R.1).any (fun h => h.2.tile == t))

/-- The conditions of R140 on the tiles. -/
def launchFits (s : State) (reel : Nat) (w : List W64) : Bool :=
  let t := recThreads w
  (recTiles w).all (fun x => (freeThreads s x).length ≥ t && reelThreadsOn s reel x + t ≤ (s.reel reel).allotted && !helperBefore s x)

/-- Sequence slots of a reel that hold no sequence; a slot is free once its record is written (R432). -/
def freeSeqSlots (R : Reel) : List Nat := (List.range 8).filter (fun k => (mfind R.seqs k).isNone)

/-- Nothing holds launch records back: a live switch of the Director's image, a takeover, or D3hot (R410, R411, R465). -/
def launchOpen (s : State) : Bool := s.directorUp && !s.rep.fwSwitching && !s.sec.d3hot && !s.sec.retention

/-- The sequence starts on all its tiles together. -/
def seqStart (reel q slot : Nat) (w : List W64) (picks : List Nat) (s : State) : State :=
  let t := recThreads w
  let tiles := recTiles w
  let pc := BitVec.ofNat 64 (recPc w)
  let ths := tiles.zipIdx.map (fun x => (x.1, choose t (freeThreads s x.1) (picks.drop (t * x.2))))
  let live := ths.flatMap (fun x => x.2.map (fun n => TRef.mk x.1 n))
  let s1 := ths.foldl (fun s x => startOn pc reel slot (reel + 16 * slot) false x.1 x.2 ((List.range 4).map (fun k => w.getD (6 + k) 0)) s) s
  let s2 := s1.modReel reel (fun R => { R with seqs := mput R.seqs slot { cid := recCid w, q, t, tiles, live, pc } })
  trace 0x04 none 31 reel slot (cntReel reel 0 1 s2)

/-- The next submission queue in rotating order by reel and then queue, from the one after that considered last, that holds a record
(R140), as 2 x reel + queue. Which is first after reset is DESIGN CHOICE (log 96): queue 0 of reel 0. -/
def nextQueue (s : State) : Option Nat :=
  ((List.range 32).map (fun k => (s.rep.dirQueue + 1 + k) % 32)).find? (fun n =>
    let r := s.ring (.sq (n / 2) (n % 2))
    r.en && r.head != r.tail)

/-- The Director considers the head of a submission queue whose turn it is: the record completes without starting, starts, or waits,
and the next queue's turn comes. The first pick chooses the sequence slot, the others hardware threads. -/
def launch (reel q : Nat) (w : List W64) (picks : List Nat) (s : State) : State :=
  let i : RingId := .sq reel q
  let r := s.ring i
  if !ringThere i || !r.en || r.head == r.tail || !s.directorUp || s.rep.fwSwitching || nextQueue s != some (2 * reel + q) then s
  else
    let s : State := { s with rep := { s.rep with dirQueue := 2 * reel + q } }
    let s1 := s.setRing i { r with head := (r.head + 1) % r.size }
    match recStatus s reel w with
    | some st => s1.modReel reel (fun R => { R with waiting := R.waiting ++ [{ cid := recCid w, status := st, slot := none, q, tick := s.time.tmb }] })
    | none =>
      match choose 1 (freeSeqSlots (s.reel reel)) picks with
      | slot :: _ => if launchOpen s && launchFits s reel w then seqStart reel q slot w (picks.drop 1) s1 else s
      | [] => s

def execLaunchStart (reel q : Nat) (rec : List W64) (picks : List Nat) (s : State) : Res := .next (launch reel q rec picks s)

/-! ### Completion records (R432, Table 14.9) -/

def complWord (c : ComplRec) (p : Bool) : W64 :=
  BitVec.ofNat 64 (c.cid + c.status.toNat * 2 ^ 16 + b2n p * 2 ^ 32 + (c.slot.getD 0) * 2 ^ 33 + c.q * 2 ^ 36 + b2n c.slot.isSome * 2 ^ 37)

/-- The oldest waiting record is written once the ring has room, and its sequence's slot is freed. -/
def complWrite (reel : Nat) (s : State) : State :=
  let R := s.reel reel
  match R.waiting with
  | [] => s
  | c :: rest =>
    if !R.cq.en || R.cq.full then s
    else
      let n := R.cq.advance.count
      let s1 := s.send (.write (R.cq.base * 4096 + R.cq.tail * 16) (bytesOfWords [complWord c R.cq.phase, c.tick]))
      let s2 := s1.modReel reel (fun R => { R with
        waiting := rest
        cq := n.1
        seqs := match c.slot with
          | some k => mdel R.seqs k
          | none => R.seqs })
      if n.2 then msixFire R.cq.vec s2 else s2

def execCompletionRecordWrite (reel : Nat) (s : State) : Res := .next (complWrite reel s)

/-- A completion has waited 1 ms: one QUEUE record says so. -/
def complTold (reel : Nat) (s : State) : State :=
  match takeFirst (fun c => !c.told) (s.reel reel).waiting with
  | none => s
  | some (c, _) => queueEvent stQueueInvalid reel 2 1
      (s.modReel reel (fun R => { R with waiting := mapIf (fun x => x == c) (fun x => { x with told := true }) R.waiting }))

def execCompletionWaitTimeout (reel : Nat) (s : State) : Res := .next (complTold reel s)

end Sys2Proof.Machine
end

