-- ==== Sys2Proof/Machine/Power.lean ====
section
/-! DEFINITION. Gaffer (chapter 11): the period, caps and the choice of the point, VARR, sensors, Foley, and the beginning of the
orderly stop. -/
namespace Sys2Proof.Machine

def State.modPow (s : State) (f : Power → Power) : State := { s with pow := f s.pow }

/-- An event record of type POWER (Table 14.11). -/
def powEvent (st : Status) (kind idx : Nat) (s : State) : State := event st 0x0A 0 0 0 0 (BitVec.ofNat 64 kind) (BitVec.ofNat 64 idx) s

/-- Gaffer runs: the always-on island is up (R471). -/
def State.islandUp (s : State) : Bool := s.start.phase != .off && s.start.phase != .clockHold

/-! ### Points (Table 11.1) -/

/-- VARR of a point, in mV. -/
def pointMv : Nat → Nat
  | 0 => 600
  | 1 => 660
  | 2 => 720
  | _ => 800
/-- Typical rate of a point, in hundredths of a beat per ns. -/
def typical : Nat → Nat
  | 0 => 120
  | 1 => 175
  | 2 => 200
  | _ => 230
/-- The point whose voltage, or its compensated voltage, a request names. -/
def mvPoint (mv : Nat) : Nat := if mv < 640 then 0 else if mv < 700 then 1 else if mv < 760 then 2 else 3

/-- The estimate scaled to a point exceeds a cap in W (R340, R345); dyn and stat are in uW. -/
def estOver (s : State) (p cap : Nat) : Bool :=
  let w := fun (q : Nat) => pointMv q * pointMv q * typical q
  s.pow.kNum * (s.pow.dyn * w p + s.pow.stat * w s.pow.op) > cap * 1000000 * s.pow.kDen * w s.pow.op

/-- A request for a VARR, on the AVSBus (R336, R337). -/
def requestMv (mv : Nat) (s : State) : State := (s.modPow (fun p => { p with req := some mv, varrMv := mv })).send (.avs mv)

/-- AVSBus transactions may start: once stage S4 has begun (R524). -/
def State.avsOk (s : State) : Bool :=
  s.start.railsOk && s.start.stage ≥ 4 && (s.start.phase == .take || s.start.phase == .failed || s.start.phase == .run || s.start.phase == .safe)

/-! ### Phases and caps (R343, R344, R347) -/

/-- Reels with a live sequence. -/
def liveReels (s : State) : List (Nat × Reel) := s.reels.filter (fun R => R.2.seqs.any (fun q => !q.2.ended))

/-- Preferred point of a phase (Table 11.4). -/
def phasePoint (s : State) (n : Nat) : Nat := bitsOf s.pow.map (2 * n + 1) (2 * n)

/-- The device phase (R347). -/
def devicePhase (s : State) : Nat :=
  match (liveReels s).map (fun R => R.2.phase) with
  | [] => 0
  | l =>
    let best := maxN (l.map (phasePoint s))
    (((List.range 8).find? (fun n => l.contains n && phasePoint s n == best))).getD 0

/-- Some cue is open on the device. -/
def State.cueOpen (s : State) : Bool := s.cues.any (fun c => c.2.2.st != .awaiting)

/-- Written caps take effect at the first period after a cue boundary, or at the next one while no cue is open (R344). -/
def capsDue (s : State) : State :=
  (if s.cueOpen then s else s.modPow Power.boundary).modPow (fun p => { p with
    effCap := p.capNext.getD p.effCap
    effBoard := p.boardNext.getD p.effBoard
    effPhase := p.phaseNext.getD p.effPhase
    capNext := none
    boardNext := none
    phaseNext := none })

/-- The cap in force in W: the smallest that applies; a per-phase table that is not due yet leaves the caps before it in force. -/
def capNow (s : State) : Nat :=
  let base := if s.aMode 10 && !s.pow.effPhase.isEmpty then s.pow.effPhase.getD (devicePhase s) s.pow.effCap
    else if s.pow.effBoard != 0 then Nat.min s.pow.effCap s.pow.effBoard else s.pow.effCap
  if s.pow.urgent then Nat.min base s.pow.urgentCap else base

/-- A write of GAF_CAP (Table 11.2): the host cap waits for the next cue boundary. -/
def hostCap (v : W64) (s : State) : State := s.modPow (fun p => { p with cap := bitsOf v 15 0, urgentCap := bitsOf v 31 16, capDue := true })

def execHostCapWrite (v : W64) (s : State) : Res := .next (hostWrite (fun s => hostCap v s) s)

/-- PWR_LIMIT_N: each recognised assertion applies the urgent cap for at least one period (R344, R522). -/
def execPwrLimitAssert (s : State) : Res :=
  .next ({ s with pins := { s.pins with plim := true, plimSeen := true } }.modPow (fun p => { p with urgentLatch := true }))
def execPwrLimitRelease (s : State) : Res := .next { s with pins := { s.pins with plim := false } }

/-! ### The orderly stop begins (R362) -/

/-- Length of the stop budget in ticks. -/
def stopBudget : Nat := 2000000

/-- A cue ends under an exception: an ENDCUE that waits for it returns the status (R393). -/
def cueAbort (reel slot : Nat) (s : State) : State :=
  match (s.seq reel slot).bind (fun q => q.cue) with
  | none => s
  | some c =>
    if c.st == .awaiting then s
    else
      let s1 := cueClose reel slot stAborted s
      match c.ending with
      | some r => if (s1.thread r).held.any (fun h => h.why == .endcue) then finish r none stAborted s1 else s1
      | none => s1

/-- The cues of a list that meet a condition end with ABORTED. -/
def abortAmong (l : List (Nat × Nat × Cue)) (p : Nat → Nat → Cue → Bool) (s : State) : State :=
  (l.filter (fun c => p c.1 c.2.1 c.2.2)).foldl (fun s c => cueAbort c.1 c.2.1 s) s

/-- Every admitted cue that meets a condition ends with ABORTED. -/
def abortCues (p : Nat → Nat → Cue → Bool) (s : State) : State := abortAmong s.admitted p s

/-- The remaining declared work of a cue fits the budget: its own bound alone ends within it. -/
def fitsBudget (s : State) (reel slot : Nat) (c : Cue) : Bool :=
  let x := cueInOf s reel slot c
  boundOf s c.aMode [x] x ≤ s.time.tmb.toNat + stopBudget

/-- Steps 1 and 2 of Table 11.13. -/
def stopBegin (s : State) : State :=
  if s.pow.shut then s
  else
    let s1 := affectCues 1 (fun reel slot _ => (s.cueIn reel slot).isSome) (s.modPow (fun p => { p with shut := true }))
    abortCues (fun reel slot c => !fitsBudget s1 reel slot c) s1

/-! ### Equivalent hours (R415) -/

/-- Terms of the exponential series of x / 2^40, from term k on, in units of 2^-40. -/
def expTerms : Nat → Nat → Nat → Nat → Nat
  | 0, _, _, _ => 0
  | n + 1, k, x, t => t + expTerms n (k + 1) x (t * x / (k + 1) / 2 ^ 40)

/-- e^(x / 2^40) for x at least 0, in units of 2^-40, truncated. -/
def expFix (x : Nat) : Nat := expTerms 60 0 x (2 ^ 40)

/-- AF at a Tg, in units of 2^-32, truncated (DESIGN CHOICE, log 54). -/
def arrhenius (tg : Int) : Nat :=
  let t := (25 * tg + 27315).toNat
  if t == 0 then 0
  else if t ≥ 36815 then expFix ((t - 36815) * 7000000000 * 2 ^ 40 / (8617 * 36815 * t)) / 2 ^ 8
  else 2 ^ 72 / expFix ((36815 - t) * 7000000000 * 2 ^ 40 / (8617 * 36815 * t))

/-- 2 us periods of an hour. -/
def hourPeriods : Nat := 1800000000

/-- A period's length counts toward the equivalent and the powered hours, which are persisted once a day. -/
def wear (s : State) : State :=
  let e := s.pow.eqhFrac + arrhenius s.pow.tg
  let h := hourPeriods * 2 ^ 32
  let o := s.pow.pohFrac + 1
  let s1 := s.modPow (fun p => { p with
    eqh := Nat.min (p.eqh + e / h) (2 ^ 32 - 1), eqhFrac := e % h, poh := Nat.min (p.poh + o / hourPeriods) (2 ^ 32 - 1), pohFrac := o % hourPeriods })
  if s.time.ref < s1.pow.lifeAt + day then s1 else winRequest .life (s1.modPow (fun p => { p with lifeAt := s.time.ref }))

/-! ### Coefficients (R356) -/

def coefCount : Build → Nat
  | .t => 576
  | .s => 240

/-- A finite F32 word above zero. -/
def coefOk (w : W32) : Bool := !bitOf w 31 && w.toNat != 0 && bitsOf w 30 23 != 255

def tcoefWrite (v : Bool) (s : State) : State :=
  s.modPow (fun p => { p with tcoefValid := v && (List.range (coefCount s.build)).all (fun k => coefOk (mget 0 p.tcoef k)) })

def execTcoefValid (v : Bool) (s : State) : Res := .next (hostWrite (fun s => tcoefWrite v s) s)

/-! ### The period (R339) -/

def maxI : List Int → Option Int
  | [] => none
  | x :: xs => some (match maxI xs with
      | some y => if x < y then y else x
      | none => x)

/-- Stack position of a memory layer (Table 1.2). -/
def stackPos (b : Build) (m : Nat) : Nat :=
  match b with
  | .t => 2 * m + 1
  | .s => m + 2

/-- Layers of the stack, base die included. -/
def stackLayers : Build → Nat
  | .t => 10
  | .s => 4

/-- Temperature of a node in units of 2^-32 degrees C; 40 degrees until the model first advances (DESIGN CHOICE, log 100). -/
def nodeTemp (s : State) (i : Nat) : Int := s.pow.temps.getD i (40 * 2 ^ 32)

/-- The magnitude of an F32 word in units of 2^-149. -/
def f32Mag (w : W32) : Nat :=
  let e := bitsOf w 30 23
  (bitsOf w 22 0 + if e == 0 then 0 else 2 ^ 23) * 2 ^ (Nat.max e 1 - 1)

/-- A coefficient in force: of the fuses in H mode, of the host's set in A mode (R356). -/
def coefNow (s : State) (k : Nat) : Nat := f32Mag (if s.aMode 5 then mget 0 s.pow.tcoefUse k else Config.fusedCoef k)

/-- Power in uW of the counted events that one node receives, before the correction (R340, R355). -/
def dynOf (counts : List Nat) (node : Nat) : Nat :=
  sumN ((counts.zipIdx.filter (fun c => Config.counterNode c.2 == node)).map (fun c => Config.weight c.2 * c.1))

/-- VARR at the point in force, in mV. -/
def ownMv (s : State) : Nat := pointMv s.pow.op + if s.pow.comp then 20 else 0

/-- Static power of one node in uW, before the correction. -/
def statOf (s : State) (node : Nat) : Nat := Config.staticPower node (ownMv s) (nodeTemp s node)

/-- What a node exchanges heat with: the number of the conductance in the order of R356, and the temperature at its far end. Of
a layer's 24 lateral conductances 12 join columns and then 12 join rows of its regions (DESIGN CHOICE, log 100). -/
def neighboursOf (s : State) (i : Nat) : List (Nat × Int) :=
  let n := stackLayers s.build
  let l := i / 16
  let r := i % 16
  let x := r % 4
  let y := r / 4
  let lat := 16 * n + 24 * l
  let vert := 40 * n + r
  (if x < 3 then [(lat + 3 * y + x, nodeTemp s (i + 1))] else []) ++
  (if x > 0 then [(lat + 3 * y + x - 1, nodeTemp s (i - 1))] else []) ++
  (if y < 3 then [(lat + 12 + r, nodeTemp s (i + 4))] else []) ++
  (if y > 0 then [(lat + 8 + r, nodeTemp s (i - 4))] else []) ++
  (if l + 1 < n then [(vert + 16 * l, nodeTemp s (i + 16))] else [(56 * n - 16 + r, s.pow.inlet * 2 ^ 30)]) ++
  (if l > 0 then [(vert + 16 * (l - 1), nodeTemp s (i - 16))] else [(56 * n + r, Config.packageTemp s.time.ref)])

/-- One step of a node over 2 us: its power and what it exchanges, over its capacitance. The step is explicit and truncates to
2^-32 degrees (DESIGN CHOICE, log 100). -/
def nodeStep (counts : List Nat) (s : State) (i : Nat) : Int :=
  let own := (s.pow.kNum * (dynOf counts i + statOf s i) * 2 ^ 181 : Nat) / (s.pow.kDen * 1000000)
  let flow := (neighboursOf s i).foldl (fun (t : Int) c => t + (coefNow s c.1 : Int) * (c.2 - nodeTemp s i)) (own : Int)
  nodeTemp s i + 2 * flow / (1000000 * coefNow s i : Nat)

/-- The nodes of the thermal model. -/
def nodesOf (s : State) : List Nat := List.range (16 * stackLayers s.build)

/-- Step 1: the estimate, whose mean over 100 us the correction takes (R340, R341). -/
def gafEstimate (counts : List Nat) (s : State) : State :=
  let d := sumN ((nodesOf s).map (dynOf counts))
  let w := sumN ((nodesOf s).map (statOf s))
  s.modPow (fun p => { p with dyn := d, stat := w, kSum := p.kSum + d + w, kCount := p.kCount + 1 })

/-- Step 2: the model's temperatures (R355). -/
def gafModel (counts : List Nat) (s : State) : State := s.modPow (fun p => { p with temps := (nodesOf s).map (nodeStep counts s) })

/-- A node's temperature in units of 0.25 degrees. -/
def nodeQuarters (s : State) (i : Nat) : Int := nodeTemp s i / 2 ^ 30

/-- The node of the region that a sensor is placed in (R357). -/
def sensorNode (i : Nat) : Nat := 16 * (i / 8) + Config.sensorRegion i % 16

/-- Periods in a row for which a sensor's reading has met a condition on its distance from its node. -/
def runOf (s : State) (was : List Nat) (p : Nat → Bool) (readings : List Int) : List Nat :=
  readings.zipIdx.map (fun x => if p (x.1 - nodeQuarters s (sensorNode x.2)).natAbs then was.getD x.2 0 + 1 else 0)

/-- The readings of the sensors, each with how long it has differed by more than 6 degrees and agreed within 3 (R357). -/
def gafSensors (readings : List Int) (s : State) : State :=
  s.modPow (fun p => { p with
    sensors := readings, senseOff := runOf s p.senseOff (fun d => d > 24) readings, senseOn := runOf s p.senseOn (fun d => d ≤ 12) readings })

/-- Readings of the sensors that are not suspect, with their numbers. -/
def trustedNow (s : State) : List (Int × Nat) := s.pow.sensors.zipIdx.filter (fun x => !s.pow.suspect.contains x.2)

/-- The higher of two temperatures, of which one may be absent. -/
def hotter (a b : Option Int) : Option Int := maxI (a.toList ++ b.toList)

/-- Tg (R358), and the refresh of each memory layer by its own governing temperature (R203, R367). Nodes and sensors are
numbered by stack position (DESIGN CHOICE, log 55). -/
def gafGovern (s : State) : State :=
  let tm := (maxI ((nodesOf s).map (nodeQuarters s))).getD s.pow.tmodel
  let ts := maxI ((trustedNow s).map (fun x => x.1))
  let hot := fun (m : Nat) =>
    let l := stackPos s.build m
    hotter (maxI ((List.range 16).map (fun r => nodeQuarters s (16 * l + r)))) (maxI (((trustedNow s).filter (fun x => x.2 / 8 == l)).map (fun x => x.1)))
  let fast := (List.range (Config.mlayers s.build)).filter (fun m => match hot m with
    | some t => t > 340 || (s.pow.refreshFast.contains m && t ≥ 320)
    | none => s.pow.refreshFast.contains m)
  s.modPow (fun p => { p with tmodel := tm, tsens := ts.getD p.tsens, tg := (hotter (some tm) ts).getD tm, refreshFast := fast })

/-- Steps 1 and 2 of a period. -/
def gafSense (o : GafferIn) (s : State) : State := gafGovern (gafSensors o.sensors (gafModel o.counts (gafEstimate o.counts s)))

/-- The lowest throttle point permitted (R360). -/
def throttleFloor (s : State) : Nat := if s.admitted.isEmpty then 0 else s.heldFloor

/-- Step 3: the thresholds of Table 11.11. -/
def gafThresholds (s : State) : State :=
  let tg := s.pow.tg
  let s1 := if tg ≥ 380 then (if s.pow.warn then s else powEvent 0 5 0 (s.modPow (fun p => { p with warn := true })))
    else if tg < 360 then s.modPow (fun p => { p with warn := false }) else s
  let s2 := if tg ≥ 420 then (if s1.pow.thr then s1
      else s1.modPow (fun p => { p with thr := true, thrPoint := Nat.max (p.op - 1) (throttleFloor s) }))
    else if tg < 400 then s1.modPow (fun p => { p with thr := false }) else s1
  if tg ≥ 460 then stopBegin (s2.modPow (fun p => { p with shutThr := true }))
  else if tg < 440 then s2.modPow (fun p => { p with shutThr := false })
  else s2

/-- Tiles in Foley leave it. -/
def foleyOff (s : State) : State := s.tiles.foldl (fun s T => if T.2.foley then foleyLeave T.1 s else s) s

/-- In A mode the model takes the host's set as it now stands; a word that VALID would refuse leaves the one before it in use
(R356; DESIGN CHOICE, log 100). -/
def takeCoefs (s : State) : State :=
  if !s.aMode 5 then s
  else s.modPow (fun p => { p with
    tcoefUse := (List.range (coefCount s.build)).foldl (fun m k => let w := mget 0 p.tcoef k; if coefOk w then mput m k w else m) p.tcoefUse })

/-- Step 4: caps, coefficient sets and modes that are due (R36, R344, R354, R356), and writes that now wait for the window. -/
def gafApply (s : State) : State :=
  let s1 := winClosed (takeCoefs (splitPoint 10 (splitPoint 5 (capsDue s))))
  let s2 := s1.modPow (fun p => { p with urgent := s.pins.plim || p.urgentLatch, urgentLatch := false })
  let s3 := s2.modPow (fun p => { p with inforce := capNow s2 })
  match s3.pow.foleyEnDue with
  | none => s3
  | some en =>
    let s4 := s3.modPow (fun p => { p with foleyEn := en, foleyEnDue := none })
    if en then s4 else foleyOff s4

/-- The highest point at or below p whose estimate meets the cap. -/
def capPoint (s : State) (cap : Nat) : Nat → Nat
  | 0 => 0
  | p + 1 => if estOver s (p + 1) cap then capPoint s cap p else p + 1

/-- The choice of R345. -/
def choosePoint (s : State) : Nat :=
  let pref := maxN ((liveReels s).map (fun R => phasePoint s R.2.phase))
  let pref := if s.floor.pend then Nat.max pref s.floor.req else pref
  let p := Nat.min pref (s.pow.op + 1)
  let p := if s.pow.thr then Nat.min p s.pow.thrPoint else p
  let p := capPoint s s.pow.inforce p
  let p := if s.pow.urgent then Nat.max p (((List.range 4).find? (fun q => !estOver s q s.pow.urgentCap)).getD 0) else p
  if s.admitted.isEmpty then p else Nat.max p s.heldFloor

/-- CAPX and the duty (R346). -/
def gafDuty (p : Nat) (s : State) : State :=
  let above := estOver s p s.pow.inforce
  let low := p == 0 || (!s.admitted.isEmpty && p == s.heldFloor)
  let s1 := if above && low then (if s.pow.capxRun then s else powEvent 0 1 0 (s.modPow (fun q => { q with capx := true, capxRun := true })))
    else s.modPow (fun q => { q with capxRun := false })
  if !s.admitted.isEmpty then s1
  else if above && low then s1.modPow (fun q => { q with duty := q.duty - 1 })
  else s1.modPow (fun q => { q with duty := Nat.min 16 (q.duty + 1) })

/-- Compensation is needed: the point in force is the floor of admitted cues at a Tg of 105 degrees or more, and stays until Tg
falls below 100 (R361). -/
def compWanted (s : State) : Bool :=
  !s.admitted.isEmpty && s.pow.op == s.heldFloor && (s.pow.tg ≥ 420 || (s.pow.comp && s.pow.tg ≥ 400))

/-- While AVSF is set, the point in force lies below the floor that admitted cues hold, or a compensation that is needed is not
applied (R338). -/
def avsPrevents (s : State) : Bool :=
  s.pow.avsf && !s.admitted.isEmpty && (s.pow.op < s.heldFloor || (compWanted s && !s.pow.comp))

/-- The VARR regulator fault affects the admitted cues when it begins to prevent what they need, and cues admitted since
(Table 12.8). -/
def avsAffect (s : State) : State :=
  let now := avsPrevents s
  let s1 := if now then affectCues 9 (fun reel slot _ => (s.cueIn reel slot).any (fun c => !s.pow.avsHit || !c.affected)) s else s
  s1.modPow (fun p => { p with avsHit := now })

/-- Step 5: a raise of the floor that has been reached, the choice, and the request. -/
def gafChoose (s : State) : State :=
  let s0 : State := if s.floor.pend && s.pow.op ≥ s.floor.req then { s with floor := { s.floor with adm := s.floor.req, pend := false } } else s
  let p := choosePoint s0
  let s1 := gafDuty p (s0.modPow (fun q => { q with target := p }))
  let idle := s1.pow.req.isNone && !s1.pow.avsf && s1.avsOk
  let now := s1.pow.op
  if !idle then s1
  else if p != now then
    requestMv (pointMv (if s1.pow.urgent && p < now then p else if p < now then now - 1 else now + 1)) s1
  else if compWanted s1 != s1.pow.comp then requestMv (pointMv now + (if compWanted s1 then 20 else 0)) s1
  else s1

/-- The energy of Foley beats, of which the manual gives no figure: a free amount while some tile is in Foley (R354). -/
def foleyEnergy (s : State) : State :=
  if s.tiles.any (fun T => T.2.foley) then
    let f := s.fresh
    f.2.modPow (fun p => { p with foleyJ := Nat.min (p.foleyJ + f.1) (2 ^ 32 - 1) })
  else s

def gafferPeriod (o : GafferIn) (s : State) : State :=
  if !s.islandUp then s else wear (foleyEnergy (avsAffect (gafChoose (gafApply (gafThresholds (gafSense o s))))))

def execGafferPeriod (o : GafferIn) (s : State) : Res := .next (gafferPeriod o s)

/-- 1 ms has passed at or above 105 degrees: the throttle point falls by one, but not below its floor (R360). -/
def execThrottleStep (s : State) : Res :=
  .next (if s.pow.thr && s.pow.tg ≥ 420 then s.modPow (fun p => { p with thrPoint := Nat.min p.thrPoint (Nat.max (p.thrPoint - 1) (throttleFloor s)) }) else s)

/-- A transaction on the AVSBus has been acknowledged (R338). -/
def avsAcked (s : State) : State := s.modPow (fun p => { p with avsf := false, avsNak := 0 })

/-- k from the measured power of all rails, VARR's in uW and the others' in mW, over the mean uncorrected estimate of the interval,
kSum / kCount in uW, clamped to 0.8 to 1.2; it stays while a rail's telemetry is absent (R341), or no estimate has been formed. -/
def kNow (varrUw : Nat) (p : Power) : Nat × Nat :=
  match p.railMw with
  | none => (p.kNum, p.kDen)
  | some r =>
    let pm := (varrUw + r * 1000) * p.kCount
    if p.kSum == 0 then (p.kNum, p.kDen) else if 5 * pm < 4 * p.kSum then (4, 5) else if 5 * pm > 6 * p.kSum then (6, 5) else (pm, p.kSum)

/-- VARR's current in mA and voltage in mV have been read over AVSBus, which is an acknowledged transaction, and the next interval begins. -/
def kCorrection (ma mv : Nat) (s : State) : State :=
  (avsAcked s).modPow (fun p => { p with kNum := (kNow (ma * mv) p).1, kDen := (kNow (ma * mv) p).2, railMw := none, kSum := 0, kCount := 0 })

def execKCorrection (varrMa varrMv : Nat) (s : State) : Res := .next (kCorrection varrMa varrMv s)

/-! ### VARR (R335 to R338) -/

/-- The regulator reports the transition complete: the point in force follows, and members of cross-device cues learn it (R392). -/
def varrComplete (s : State) : State :=
  match s.pow.req with
  | none => s
  | some mv =>
    let p := mvPoint mv
    let s1 := s.modPow (fun q => { q with req := none, avsNak := 0, op := p, comp := mv == pointMv p + 20 })
    if p == s.pow.op then s1 else rateAll (trace 0x0F none 31 0 p s1)

def execVarrRequestComplete (s : State) : Res := .next (varrComplete s)

/-- The regulator has failed to acknowledge: the third time in a row is a fault, which may affect cues (R338). -/
def avsNak (s : State) : State :=
  let s1 := s.modPow (fun p => { p with avsNak := p.avsNak + 1 })
  if s1.pow.avsNak < 3 || s1.pow.avsf then s1
  else avsAffect (powEvent stAvsFault 2 0 (s1.modPow (fun p => { p with avsf := true, req := none, avsHit := false })))

def execAvsNoAcknowledge (s : State) : Res := .next (avsNak s)

/-- A retry while AVSF is set: an acknowledged transaction clears it. -/
def execAvsRetry (ack : Bool) (s : State) : Res :=
  .next (if !s.pow.avsf then s else if ack then avsAcked s else avsNak s)

/-- Both Gaffer cores restart: at their section of the active image once they run it (R471), and before that in their ROM, at 0
(DESIGN CHOICE, log 92). -/
def gafRestart (s : State) : State :=
  if (mfind s.sec.secDig 4).isSome then coresStart (imgSlot s s.rep.fwActive) 4 s else s.setCore 4 0 {}

/-- The two retired results differ: both Gaffer cores restart from reset, what Gaffer has set holds, the mismatch is recorded, and
the second within 1 s starts the orderly stop (R29). -/
def gafMismatch (r0 r1 : W32) (s : State) : State :=
  let n := s.pow.mismatches + 1
  let again := s.pow.lastMismatch.any (fun t => s.time.ref ≤ t + 1000000000)
  let s1 := hlog 0x0B false 0 (BitVec.ofNat 64 n) (BitVec.ofNat 64 (r0.toNat + r1.toNat * 2 ^ 32))
    (gafRestart (s.modPow (fun p => { p with mismatches := n, lastMismatch := some s.time.ref })))
  if again then stopBegin s1 else s1

def execGafMismatch (r0 r1 : W32) (s : State) : Res := .next (if s.islandUp then gafMismatch r0 r1 s else s)

/-! ### Sensors (R357) -/

def sensorCount : Build → Nat
  | .t => 80
  | .s => 32

/-- Gaffer periods of 1 ms and of 1 s. -/
def suspectRun : Nat := 500
def trustRun : Nat := 500000

/-- The sensor has differed from its node by more than 6 degrees for 1 ms. -/
def execSensorSuspect (i : Nat) (s : State) : Res :=
  .next (if i ≥ sensorCount s.build || s.pow.suspect.contains i || s.pow.senseOff.getD i 0 < suspectRun then s
    else powEvent 0 4 i (s.modPow (fun p => { p with suspect := p.suspect ++ [i] })))

/-- The suspect sensor has agreed with its node within 3 degrees for 1 s. -/
def execSensorTrusted (i : Nat) (s : State) : Res :=
  .next (if s.pow.senseOn.getD i 0 < trustRun then s else s.modPow (fun p => { p with suspect := p.suspect.filter (fun j => j != i) }))

/-! ### Foley (R351) -/

/-- A thread of the tile waits in WAIT or BAR. -/
def waitsForFoley (T : Tile) : Bool := T.threads.any (fun t => t.2.live && t.2.waitsBar)

def execFoleyEnter (tile : Nat) (s : State) : Res :=
  .next (let T := s.tile tile
    if !s.pow.foleyEn || T.foley || !waitsForFoley T then s
    else trace 0x0C (some tile) 31 0 0 (s.modTile tile (fun T => { T with foley := true })))

end Sys2Proof.Machine
end

