-- ==== Sys2Proof/Machine/Obs.lean ====
section
/-! DEFINITION. Enables, clears, Dailies, the drain of the trace (chapter 17), and what a tick does. -/
namespace Sys2Proof.Machine

def State.modObs (s : State) (f : Obs → Obs) : State := { s with obs := f s.obs }

/-- Every live counter becomes 0 (R493). -/
def clrCounters (s : State) : State :=
  { s with
    tiles := s.tiles.map (fun T => (T.1, { T.2 with fix := [], pmc := [] }))
    reels := s.reels.map (fun R => (R.1, { R.2 with cnt := [] }))
    obs := { s.obs with base := [] } }

def execClr (s : State) : Res := .next (hostWrite (fun s => clrCounters s) s)

/-! ### DBG_OBS_CTL (R492, Tables 17.1 and 17.2) -/

/-- The level that a facility sees: a suspended session permits none above D1 (R466). -/
def State.obsLevel (s : State) : Nat := if s.sec.susp then Nat.min s.sec.level 1 else s.sec.level

/-- A local range lies wholly in scratch near memory. -/
def scratchRange (s : State) (o n : Nat) : Bool := (blocksOf o n).all (fun a => s.scratch a)

/-- One enable: a written 1 is taken under the session's level, and stays refused otherwise. -/
def enableBit (s : State) (v : W64) (bit level : Nat) (ok : Bool) : Bool := bitOf v bit && s.obsLevel ≥ level && ok

/-- The Dailies ring may be enabled. -/
def dlyRing (s : State) : Bool := s.obs.dlySize != 0 && scratchRange s s.obs.dlyBase (s.obs.dlySize * 4096)

/-- The status of a write of the enables: a refused level first, then what each facility lacks. -/
def obsStatus (s : State) (v : W64) : Status :=
  let l := s.obsLevel
  let low := (bitOf v 0 && l < 1) || (bitOf v 2 && l < 2) || (bitOf v 3 && l < 3) || ((bitOf v 4 || bitOf v 5) && l < 1)
  if low then stDebugDenied
  else if bitOf v 2 && !s.domOn 94 then stDomainBusy
  else if bitOf v 4 && s.obs.dlySize != 0 && !dlyRing s then stNoTarget
  else stOk

/-- A write of DBG_OBS_CTL. -/
def obsWrite (v : W64) (s : State) : State :=
  let s0 := if bitOf v 1 then clrCounters s else s
  let trc := enableBit s v 2 2 (s.domOn 94 && s.obs.trcSize != 0)
  let dly := enableBit s v 4 1 (dlyRing s)
  s0.modObs (fun o => { o with
    cntEn := enableBit s v 0 1 true
    trcEn := trc
    trcAddr := enableBit s v 3 3 true
    dlyEn := dly
    armWarm := enableBit s v 5 1 true
    status := obsStatus s v
    fifos := if trc && !o.trcEn then o.fifos.map (fun f => (f.1, { f.2 with last := none })) else o.fifos
    dlyT0 := if dly && !o.dlyEn then none else o.dlyT0 })

def execObsEnableWrite (v : W64) (s : State) : Res := .next (hostWrite (fun s => obsWrite v s) s)

/-! ### Dailies (R501, R502) -/

/-- A recovery is in progress. -/
def recovering (s : State) : Bool :=
  s.rep.tspRetiring || s.rep.retiring.isSome || s.rep.rows.any (fun r => !r.switched) || s.rep.fwBusy || (s.start.rstBusy && s.start.runKind == 3)

/-- A warm take is between the end of S6 and that of S11. -/
def warmLate (s : State) : Bool := s.start.phase == .take && s.start.warm && s.start.stage ≥ 7

/-- Sampling is possible; what ARM_WARM arms runs during a warm take alone. -/
def dlyMay (s : State) : Bool :=
  !s.sec.retention && s.obs.dlySize != 0 &&
  (if s.start.phase == .take then warmLate s && (s.obs.dlyEn || s.obs.armWarm) else s.obs.dlyEn && (!s.anyReelOpen || recovering s))

/-- The values of a record, in the order of Table 17.9. -/
def dlyValues (s : State) : List W64 :=
  let g := fun (k : Nat) (l : List W64) => if bitOf (BitVec.ofNat 6 s.obs.dlyGroups) k then l else []
  let tiles := (List.range (Config.tiles s.build)).filter (fun t => s.tileThere t)
  let base := fun (a n : Nat) => ((List.range n).filter (fun k => baseThere s.build (a + k))).map (fun k => mget 0 s.obs.base (a + k))
  g 0 (tiles.flatMap (fun t => (List.range 4).map (fun k => mget 0 (s.tile t).fix k))) ++
  g 1 (tiles.flatMap (fun t => (List.range 8).map (fun k => mget 0 (s.tile t).pmc k))) ++
  g 2 (base 0 96) ++ g 3 (base 96 32) ++ g 4 (base 128 12) ++
  g 5 ((List.range 16).flatMap (fun n => (List.range 5).map (fun k => mget 0 (s.reel n).cnt k)))

/-- A record's bytes. -/
def dlyRecord (s : State) (j : Nat) (gap : Bool) : List Byte :=
  let stage := if s.start.phase == .take then s.start.stage else 0xF
  bytesOfWords ([s.time.tmb, BitVec.ofNat 64 j, BitVec.ofNat 64 (s.obs.dlyGroups + b2n gap * 2 ^ 8 + stage * 2 ^ 12), BitVec.ofNat 64 s.start.takeNo] ++ dlyValues s)

/-- Bytes written into a ring of local memory, wrapping modulo its size. -/
def ringWrite (base size at_ : Nat) (bs : List Byte) (s : State) : State :=
  let first := bs.take (size - at_)
  let put := fun (o : Nat) (bs : List Byte) (s : State) =>
    (pieces o 0 bs.length).foldl (fun s p => if s.scratch p.va then homeWrite p.va 0 ((bs.drop p.off).take p.n) (commitFirst p.va p.n s) else s) s
  put base (bs.drop first.length) (put (base + at_) first s)

/-- The sampling interval: values out of range act as the nearer limit. -/
def dlyStep (s : State) : Nat := Nat.max 1000 (Nat.min s.obs.dlyInterval 1000000)

/-- Sample j is written; samples whose time has passed are skipped, and a ring without WRAP stops when full. -/
def dlyTake (t0 : Nat) (s : State) : State :=
  let now := s.time.tmb.toNat
  let k := (now - t0) / dlyStep s
  let j := if s.obs.dlyGap then k else s.obs.dlyJ
  if now < t0 + j * dlyStep s then s
  else
    let bs := dlyRecord s j s.obs.dlyGap
    let size := s.obs.dlySize * 4096
    let s1 := s.modObs (fun o => { o with dlyJ := k + 1, dlySkip := Nat.min (o.dlySkip + (k - j)) 0xFFFF })
    if bs.length > size || (!s.obs.dlyWrap && s.obs.dlyNext + bs.length > size) then s1.modObs (fun o => { o with dlyFull := true })
    else (ringWrite s.obs.dlyBase size s.obs.dlyNext bs s1).modObs (fun o => { o with dlyNext := (o.dlyNext + bs.length) % size, dlyGap := false })

/-- A sample is due: taken while sampling is possible; otherwise the next record carries GAP. -/
def dlySample (s : State) : State :=
  if !s.obs.dlyEn && !s.obs.armWarm then s
  else if !dlyMay s then (if s.obs.dlyT0.isSome then s.modObs (fun o => { o with dlyGap := true }) else s)
  else match s.obs.dlyT0 with
    | some t => dlyTake t.toNat s
    | none => dlyTake s.time.tmb.toNat (s.modObs (fun o => { o with dlyT0 := some s.time.tmb, dlyJ := 0 }))

def execDailiesSample (s : State) : Res := .next (dlySample s)

/-! ### The drain (R503, R506, R507) -/

/-- No FIFO holds a record. -/
def State.drained (s : State) : Bool := s.obs.fifos.all (fun f => f.2.recs.isEmpty)

/-- A change of the trace's mode takes effect when every FIFO has drained (R504). -/
def drainPoint (s : State) : State := if s.drained then splitPoint 7 s else s

/-- One record of a FIFO goes to the ring. STOP never lets WR reach RD. A failed write to a host ring stops the drain; the type of
its event record is not given, and free. -/
def traceDrain (src : Nat) (e : HostEnd) (s : State) : State :=
  let f : Fifo := mget {} s.obs.fifos src
  let size := s.obs.trcSize * 4096
  match f.recs with
  | [] => drainPoint s
  | r :: rest =>
    let n := 8 * r.length
    let used := (s.obs.trcWr + size - s.obs.trcRd % Nat.max 1 size) % Nat.max 1 size
    if !s.domOn 94 || size == 0 || (!s.obs.trcWrap && used + n ≥ size) then s
    else if s.obs.trcDest && (e == .abort || !s.host.bme || s.host.degraded) then
      let q := (s.modObs (fun o => { o with trcEn := false })).fresh
      event stHostAbort (q.1 % 256) 0 0 0 0 0 0 q.2
    else
      let bs := bytesOfWords r
      let base := s.obs.trcBase * 4096
      let s1 := if s.obs.trcDest then
          (let first := bs.take (size - s.obs.trcWr)
           let s1 := s.send (.write (base + s.obs.trcWr) first)
           if first.length == n then s1 else s1.send (.write base (bs.drop first.length)))
        else ringWrite base size s.obs.trcWr bs s
      drainPoint (s1.modObs (fun o => { o with fifos := mput o.fifos src { f with recs := rest }, trcWr := (o.trcWr + n) % size }))

def execTraceDrain (src : Nat) (e : HostEnd) (s : State) : Res := .next (traceDrain src e s)

/-! ### What is counted as time passes (R494, R496; log 91) -/

/-- What a programmable counter of a tile counts in each beat of time: Foley beats, the slots held (of the filter's reel), and
beats in which every live thread waits (events 0x05, 0x0C and 0x19 of Table 17.6). -/
def beatEvent (T : Tile) (sel : W64) : Nat :=
  match bitsOf sel 5 0 with
  | 0x05 => b2n T.foley
  | 0x0C => ((heldSlots T).filter (fun x => !bitOf sel 6 || x.1.reel == bitsOf sel 10 7)).length
  | 0x19 => b2n (T.threads.all (fun t => !t.2.live || t.2.wait.isSome || t.2.held.isSome))
  | _ => 0

/-- The programmable counters of tile t after a time whose length in beats is free; c names the event of free values. -/
def beatTile (c t : Nat) (T : Tile) : Tile :=
  { T with pmc := (List.range 8).foldl (fun m k =>
      let n := beatEvent T (mget 0 T.pmcSel k)
      if n == 0 then m else bump m k (n * Config.freeIn c (8 * t + k))) T.pmc }

/-- A message waits on a channel of the port that has no credit. -/
def creditWaits (p : Port) : Bool := (List.range 4).any (fun vc => portHas p vc && p.credits.getD vc 0 == 0)

/-- Flit boundaries at which data waited for credit (counter 6 of a port, Table 17.7): a free amount. -/
def beatPort (s : State) (c n : Nat) (m : SMap W64) : SMap W64 :=
  if portIsUp s n && creditWaits (s.port n) then bump m (8 * n + 6) (Config.freeIn c (100000 + 8 * n + 6)) else m

/-- Time passes for the counters of things that last (R493). -/
def beatCounts (s : State) : State :=
  if !s.counting then s
  else { s with
    tiles := s.tiles.map (fun T => (T.1, beatTile s.freeCtr T.1 T.2))
    obs := { s.obs with base := (List.range (Config.ports s.build)).foldl (fun m n => beatPort s s.freeCtr n m) s.obs.base }
    freeCtr := s.freeCtr + 1 }

/-! ### A tick -/

/-- A nanosecond of REFCLK passes. The Slate count goes on by 1 tick; while it is slewed, by none or by 2 once in 10,000, which is the 100
ppm of R370. -/
def Time.pass (t : Time) : Time :=
  if t.slew == 0 || t.ref < t.slewAt + 10000 then { t with tmb := t.tmb + 1, ref := t.ref + 1 }
  else if t.slew > 0 then { t with tmb := t.tmb + 2, ref := t.ref + 1, slew := t.slew - 1, slewAt := t.ref }
  else { t with ref := t.ref + 1, slew := t.slew + 1, slewAt := t.ref }

/-- What an empty queue's step does (DESIGN CHOICE, log 2): the Slate count and the REFCLK-timed count go on, the tick
counts for the most urgent admitted cue (R385), and what lasts is counted (R494, R496; log 91). -/
def State.tick (s : State) : State :=
  let s1 := beatCounts (creditTick s)
  { s1 with time := s1.time.pass }

end Sys2Proof.Machine
end

