-- ==== Sys2Proof/Machine/Host.lean ====
section
/-! DEFINITION. The PCIe function (chapter 14): configuration space, BAR2, and the ends of requests to the host. -/
namespace Sys2Proof.Machine

/-! ### MSI-X -/

/-- Vectors whose message waits and that are masked no longer (R436). -/
def msixFlush (s : State) : State :=
  let w := s.host.pba
  w.foldl (fun s v => msixFire v s) { s with host := { s.host with pba := [] } }

/-! ### Configuration space (R418 to R421) -/

/-- What the capabilities of Table 14.1 read as where nothing sets it: their headers and the options they state. The layout is that of
PCIe (PRESUMED), the places are the model's (DESIGN CHOICE, log 53). -/
def capWord (i : Nat) : Nat :=
  match i with
  | 0x18 => 0x00020010
  | 0x19 => 0x00008022
  | 0x1A => 0x00002810
  | 0x1B => 0x00400907
  | 0x21 => 0x0003001F
  | 0x23 => 0x000000FE
  | 0x24 => 7
  | 0x40 => 0x20020001
  | 0x43 => 0x00462030
  | 0x46 => 0xA0
  | 0xC8 => 0x3402002E
  | 0xD0 => 0x3C010030
  | 0xD1 => 0x00030043
  | 0xF0 => 0x3D010025
  | 0xF4 => 0x40010026
  | 0x100 => 0x4301002A
  | 0x10C => 0x45010031
  | 0x114 => 0x4A010032
  | 0x128 => 0x00010027
  | _ => 0

/-- The words of capabilities that software writes, and the bits it writes: device control, link control, device control 2 and link
control 2 of PCI Express, and the masks, the severity and the ECRC enables of error reporting. -/
def capRw (i : Nat) : Nat :=
  match i with
  | 0x1A => 0x7FFF
  | 0x1C => 0x0FFF
  | 0x22 => 0xFFFF
  | 0x24 => 0xFFFF
  | 0x42 => 0xFFFFFFFF
  | 0x43 => 0xFFFFFFFF
  | 0x45 => 0xFFFFFFFF
  | 0x46 => 0x140
  | _ => 0

/-- The header of Type 0 and the capabilities of Table 14.1: power management at 0x40, MSI-X at 0x50, PCI Express at 0x60, error
reporting at 0x100, Resizable BAR at 0x200, the serial number at 0x300, and what capWord gives. Other places read as 0. -/
def cfgRead (s : State) (i : Nat) : Nat :=
  let cfg := fun (k : Nat) => (mget (0 : W32) s.host.cfg k).toNat
  let dev := Config.deviceId s.build * 0x10000 + 0x1F47
  match i with
  | 0x00 => dev
  | 0x01 => 0x100000 + b2n s.host.mse * 2 + b2n s.host.bme * 4
  | 0x02 => 0x12000000 + Config.revisionId
  | 0x04 => cfg 4 + 4
  | 0x05 => cfg 5
  | 0x06 => cfg 6 + 12
  | 0x07 => cfg 7
  | 0x0B => dev
  | 0x0D => 0x40
  | 0x0F => cfg 15 % 256
  | 0x10 => 0x00035001
  | 0x11 => 8 + (if s.sec.d3hot then 3 else 0)
  | 0x14 => 0x00FF6011 + cfg 0x14
  | 0x15 => 0x200000
  | 0x16 => 0x201000
  | 0x80 => 0x30010015
  | 0x81 => 0xF00000
  | 0x82 => 0x22 + (16 + (match s.host.bar2Size with
      | 64 => 0
      | 128 => 1
      | 256 => 2
      | _ => 3)) * 256
  | 0x1C => cfg 0x1C + s.host.rate * 2 ^ 16 + s.host.width * 2 ^ 20
  | 0x24 => (mget (BitVec.ofNat 32 7 : W32) s.host.cfg 0x24).toNat + b2n s.host.flit * 2 ^ 26
  | 0x41 => cfg 0x41
  | 0xC0 => 0x32010003
  | 0xC1 => s.tag.toNat % 2 ^ 32
  | 0xC2 => s.tag.toNat / 2 ^ 32
  | i => (mget (BitVec.ofNat 32 (capWord i)) s.host.cfg i).toNat

/-- The mask of the address bits that a BAR of a size keeps. -/
def barMask (bytes v : Nat) : Nat := v / bytes * bytes % 2 ^ 64

def cfgPut (i v : Nat) (s : State) : State := { s with host := { s.host with cfg := mput s.host.cfg i (BitVec.ofNat 32 v) } }

/-- A write of PMCSR's power state: D3hot holds cues and launches, D0 lets them go on (R464, R465). -/
def powerState (n : Nat) (s : State) : State :=
  if n == 3 then { s with sec := { s.sec with d3hot := true } }
  else if n == 0 && s.sec.d3hot then wake (wakeD0 s)
  else s

def cfgWrite (i : Nat) (v : W32) (s : State) : State :=
  let n := v.toNat
  match i with
  | 0x01 => { s with host := { s.host with mse := bitOf v 1, bme := bitOf v 2 } }
  | 0x04 => cfgPut 4 (barMask 0x10000000 n) s
  | 0x05 => cfgPut 5 n s
  | 0x06 => cfgPut 6 0 s
  | 0x07 => cfgPut 7 (barMask (s.host.bar2Size * 2 ^ 30) (n * 2 ^ 32) / 2 ^ 32) s
  | 0x0F => cfgPut 15 (n % 256) s
  | 0x11 => powerState (n % 4) s
  | 0x14 => msixFlush (cfgPut 0x14 (n / 2 ^ 30 * 2 ^ 30) s)
  | 0x82 => match natBits n 13 8 with
      | 16 => { s with host := { s.host with bar2Size := 64 } }
      | 17 => { s with host := { s.host with bar2Size := 128 } }
      | 18 => { s with host := { s.host with bar2Size := 256 } }
      | 19 => { s with host := { s.host with bar2Size := 512 } }
      | _ => s
  | 0x41 => cfgPut 0x41 (mget (0 : W32) s.host.cfg 0x41 &&& ~~~v).toNat s
  | i => if capRw i == 0 then s else cfgPut i (capWord i &&& (0xFFFFFFFF - capRw i) ||| (n &&& capRw i)) s

/-- Error reporting logs an error in its uncorrectable error status (R419): bit 20 an unsupported request, bit 14 a completion timeout
(PRESUMED, log 53). -/
def aerLog (bit : Nat) (s : State) : State := cfgPut 0x41 (mget (0 : W32) s.host.cfg 0x41 ||| BitVec.ofNat 32 (2 ^ bit)).toNat s

/-- A request ends with Unsupported Request, and error reporting logs it (R426). -/
def unsupported (s : State) : State := (aerLog 20 s).send .ur

/-- A configuration request: Request Retry Status until S11 completes (R470). -/
def configRequest (off : Nat) (wr : Option W32) (s : State) : State :=
  if s.start.phase != .run && s.start.phase != .safe then s.send .retry
  else match wr with
    | none => s.send (.data (leBytes 4 (cfgRead s (off % 4096 / 4))) false)
    | some v => (cfgWrite (off % 4096 / 4) v s).send (.data [] false)

def execConfigRequest (off : Nat) (wr : Option W32) (s : State) : Res := .next (configRequest off wr s)

/-! ### BAR2 (R425, R426) -/

/-- The local address of a BAR2 offset: BASE without the bits below the BAR's size. -/
def bar2Addr (s : State) (off : Nat) : Nat :=
  let n := Nat.max 1 (s.host.bar2Size / 64)
  s.host.bar2Base / n * n * 2 ^ 36 + off

/-- A local address that a BAR2 request may reach; a read reaches roll regions under debug level D3 (R458). -/
def bar2Ok (s : State) (read : Bool) (o : Nat) : Bool :=
  match winOf o with
  | .reg => false
  | .host => false
  | .none => false
  | _ => s.populated o && (!s.inRoll o || (read && s.dbgThreads))

/-- A request that completes with Unsupported Request (R417, R426, R478). -/
def bar2Ur (s : State) (read : Bool) (off n : Nat) : Bool :=
  s.host.degraded || s.start.phase == .safe || n == 0 || off + n > s.host.bar2Size * 2 ^ 30 ||
  !(blocksOf (bar2Addr s off) n).all (bar2Ok s read)

/-- A window of a tile that is being swapped (R399). -/
def swapHolds (s : State) (o : Nat) : Bool :=
  s.rep.tspRetiring &&
  (match winOf o with
    | .store => s.rep.tspQueue.head? == some ((o - storeBase) / 0x200000)
    | .table => s.rep.tspQueue.head? == some ((o - tableBase) / 0x10000)
    | _ => false)

/-- The request waits at its home. -/
def bar2Waits (s : State) (o n : Nat) : Bool :=
  !rangeServes s o n || (blocksOf o n).any (swapHolds s)

/-- The lowest-numbered scratch column, which holds the commit words (R249). -/
def anchorCol (s : State) : Option (Nat × Nat) := (scratchCols s).head?

/-- The bytes of a slot of the roll region: the commit words of the anchor column's slot 0, or a header and its payload (R248). -/
def rollSlotBytes (s : State) (layer col slot : Nat) : List Byte :=
  if slot == 0 then
    if anchorCol s == some (layer, col) then
      (List.range 16).flatMap (fun g => let c := mget {} s.bank.commit g
        leBytes 8 (c.sent + c.done * 2 ^ 16 + b2n c.res * 2 ^ 32 + b2n c.v * 2 ^ 33))
    else []
  else match s.bank.roll.find? (fun x => x.layer == layer && x.col == col && x.slot == slot) with
    | none => []
    | some x => leBytes 8 (x.mark + x.group * 4 + x.step * 2 ^ 6 + b2n x.wf * 2 ^ 22) ++ x.places.flatMap (leBytes 8) ++ x.payload

/-- A byte as a BAR2 read sees it. -/
def bar2Byte (s : State) (o : Nat) : Byte :=
  if s.inRoll o then
    let k := colOffset o - 0xBD00000
    ((rollSlotBytes s (nearLayer o) (nearCol o) (k / 8192))[k % 8192]?).getD (s.byte o)
  else s.byte o

/-- A read of BAR2: its data with EP where a word is poisoned. -/
def bar2Read (off n : Nat) (s : State) : State :=
  let o := bar2Addr s off
  if bar2Ur s true off n then unsupported s
  else if bar2Waits s o n then s
  else
    let s1 := (pieces o 0 n).foldl (fun s p => (homeRead p.va p.n s).2) s
    s1.send (.data ((List.range n).map (fun k => bar2Byte s1 (o + k))) (s1.poisoned o n))

def execBar2Read (off len : Nat) (s : State) : Res := .next (bar2Read off len s)

/-- A write of BAR2; one that carries EP or fails ECRC writes nothing. -/
def bar2Write (off : Nat) (data : List Byte) (ep : Bool) (s : State) : State :=
  let o := bar2Addr s off
  if ep then s
  else if bar2Ur s false off data.length then unsupported s
  else if bar2Waits s o data.length then s
  else (pieces o 0 data.length).foldl (fun s p => homeWrite p.va 0 ((data.drop p.off).take p.n) (commitFirst p.va p.n s)) s

def execBar2Write (off : Nat) (data : List Byte) (ep : Bool) (s : State) : Res := .next (bar2Write off data ep s)

/-! ### Host completions (R427) -/

/-- A request to the host ends with a status. -/
def hostEnd (tag : Nat) (st : Status) (data : List Byte) (s : State) : State :=
  match takeFirst (fun q => q.tag == tag) s.host.reqs with
  | none => s
  | some (q, rest) => ownerDone q.owner st (if st == stOk then data else []) { s with host := { s.host with reqs := rest } }

/-- A request to the host that is outstanding ends, and what it lets go on goes on. -/
def hostDone (tag : Nat) (st : Status) (data : List Byte) (s : State) : State :=
  if s.host.reqs.any (fun q => q.tag == tag) then wake (hostEnd tag st data s) else s

def execHostCompletion (tag : Nat) (e : HostEnd) (data : List Byte) (s : State) : Res := .next (hostDone tag (hostStatus e) data s)

/-- The Completion Timeout of a request that is outstanding expires. -/
def hostTimeout (tag : Nat) (s : State) : State := if s.host.reqs.any (fun q => q.tag == tag) then wake (hostEnd tag stHostAbort [] (aerLog 14 s)) else s

def execHostCompletionTimeout (tag : Nat) (s : State) : Res := .next (hostTimeout tag s)

end Sys2Proof.Machine
end

