-- ==== Sys2Proof/Machine/Take.lean ====
section
/-! DEFINITION. Start and takes (chapter 16): power-on, the stages and their journal, SAFE, the cold and the warm reset, the
orderly stop's last step, and the legacy trip. -/
namespace Sys2Proof.Machine

def State.modStart (s : State) (f : Start → Start) : State := { s with start := f s.start }

/-! ### The journal -/

/-- TKIND of Table 16.5. -/
def Start.tkind (st : Start) : Nat := if st.warm then 1 else if st.fromSafe then 2 else 0

/-- A record is staged, and its write requested (R477). -/
def journalAdd (stage path result : Nat) (st : Status) (detail : W64) (s : State) : State :=
  let r : JRec := { take := s.start.takeNo, stage, path, result, tkind := s.start.tkind, status := st, tick := s.time.tmb, detail }
  winRequest .journal (s.modStart (fun x => { x with staged := x.staged ++ [r] }))

/-- The path that the stage takes: its plan byte in A mode, its selection in H mode (R474, R475). -/
def stagePath (s : State) (n : Nat) : Nat := if s.aMode 8 then (mget 0 s.start.plan n).toNat % 4 else mget 0 s.start.ahead.sel n
/-- PATH of the stage's record. -/
def pathCode (s : State) (n : Nat) : Nat := if s.aMode 8 then 3 else stagePath s n

/-- A take that runs ends: its stage records INTERRUPTED (R473). -/
def interrupt (s : State) : State :=
  if s.start.phase == .take then journalAdd s.start.stage (pathCode s s.start.stage) 2 stOk 0 s else s

/-! ### What resets lose and keep (R479) -/

/-- FAULT_N and ALERT are asserted (R487). -/
def faultOn (s : State) : State := s.modStart (fun x => { x with faultN := true, alert := true })

/-- What the device has in MRAM, in fuses and at its pins, with everything else at its reset value and every byte of memory
undefined: the state that power-on, a cold reset and the loss of power leave. -/
def coldBase (s : State) : State :=
  { build := s.build
    pending := s.pending
    freeCtr := s.freeCtr + 1
    undef := [(0, 2 ^ 44, some s.freeCtr)]
    pins := { s.pins with plim := s.pins.plim, plimSeen := false, i3c := none, jtagIr := 1, jtagMode := 0 }
    host := { out := s.host.out, splits := if s.start.altmode then [(8, { req := true, pend := true })] else [] }
    links := { ports := s.links.ports.map (fun p => (p.1, { spare := p.2.spare })) }
    pow := { (if s.build == .t then ({} : Power) else { cap := 900, urgentCap := 650, inforce := 900, effCap := 900 }) with
      eqh := s.pow.eqhMram
      eqhMram := s.pow.eqhMram
      poh := s.pow.pohMram
      pohMram := s.pow.pohMram }
    rep := {
      rows := s.rep.rows.filter (fun r => r.fused)
      retired := s.rep.retired
      moved := s.rep.moved
      rsvRows := s.rep.rsvRows
      hlog := s.rep.hlog
      nextSeq := s.rep.hlog.foldl (fun n r => Nat.max n (r.seq + 1)) 0
      pfull := s.rep.pfull
      spareOf := s.rep.spareOf
      absent := s.rep.absent
      usedSpare := s.rep.usedSpare
      deadLanes := s.rep.deadLanes
      failedPorts := s.rep.failedPorts
      fwActive := s.start.slot }
    sec := {
      lc := s.sec.lc
      next := s.sec.next
      slot := s.sec.slot
      nextSlot := s.sec.nextSlot
      ownerDig := s.sec.ownerDig
      imageDig := s.sec.imageDig
      bernDig := s.sec.bernDig
      uds := s.sec.uds
      unitTag := s.sec.unitTag
      pk := s.sec.pk
      idTag := s.sec.idTag
      minSvn := s.sec.minSvn
      chain := s.sec.chain
      imgA := s.sec.imgA
      imgB := s.sec.imgB }
    start := {
      railsOk := s.start.railsOk
      perst := s.start.perst
      altmode := s.start.altmode
      slot := s.start.slot
      planv := s.start.planv
      takes := s.start.takes
      counts := s.start.counts
      sel := s.start.sel
      next := s.start.next
      plan := s.start.plan
      ring := s.start.ring
      takeNo := s.start.takes } }

/-- Groups keep what R256 needs after a reset that retains near memory: the binding, and the results of the last steps. -/
def Group.kept (x : Group) : Group := { valid := x.valid, members := x.members, digest := x.digest, history := x.history }

/-- Everything outside the always-on island at its reset value (R479): RWS fields, mode fields, MRAM and memory stay. -/
def outside (s : State) : State :=
  let s1 := dropSessions (sessionEnd s)
  { s1 with
    tiles := []
    cores := s.cores.filter (fun c => c.1 ≥ 64)
    reels := []
    bank := {
      groups := s.bank.groups.map (fun g => (g.1, g.2.kept))
      commit := s.bank.commit
      roll := s.bank.roll.map (fun x => { x with query := false }) }
    xl := { flush := s.xl.flush }
    cache := {}
    links := { ports := s.links.ports.map (fun p => (p.1, { spare := p.2.spare })), board := s.links.board, idValid := s.links.idValid }
    pairs := {}
    floor := {}
    cueOrder := 0
    time := { s.time with aligned := false, root := true, parent := 0, hadAlign := false, goodSince := 0 }
    host := { out := s.host.out, splits := s.host.splits }
    sec := { s1.sec with imgBusy := false, imgWait := false, dbgBusy := false, nonceOk := false, d3hot := false, retention := false, offPend := false }
    rep := { s.rep with
      rprBusy := false
      badRows := []
      failPcs := []
      retiring := none
      tspBusy := false
      tspRetiring := false
      tspQueue := []
      dirActive := [0, 1]
      dirStandby := [2, 3]
      dirFailed := []
      fwBusy := false
      fwSwitching := false
      fwVerified := false
      fwJpend := false }
    obs := {
      epoch := s.obs.epoch
      armWarm := s.obs.armWarm
      dlyBase := s.obs.dlyBase
      dlyGroups := s.obs.dlyGroups
      dlyWrap := s.obs.dlyWrap
      dlyInterval := s.obs.dlyInterval
      dlySize := s.obs.dlySize }
    start := { s1.start with rstBusy := false, ioAssert := false, ioPend := false, ioDown := [], tileWait := none } }

/-- Domains that are off now, with what pended; those a condition names stay as they are, and EVT and STATUS stay. -/
def domsOff (keep : Nat → Bool) (s : State) : State :=
  (s.pow.doms.map (fun d => d.1)).foldl (fun s n => if keep n then s else domOff n s) s

/-- Memory whose contents go with the power of its domain: near memory and the tile stores, or HBM as well. -/
def loseMemory (hbm : Bool) (s : State) : State :=
  let s1 := s.undefine 0 (if hbm then 2 ^ 44 else regBase)
  { s1 with
    bank := { s1.bank with commit := [], roll := [] }
    poison := if hbm then [] else s1.poison.filter (fun w => winOf (w * 32) == .hbm)
    rep := { s1.rep with rows := s1.rep.rows.filter (fun r => r.fused || (!hbm && winOf r.addr == .hbm)) } }

/-! ### Takes (R472 to R475) -/

/-- SAFE: every switched domain but PCIe is off (R478). -/
def enterSafe (s : State) : State :=
  let s1 := faultOn (outside (loseMemory true (domsOff (fun n => n == 89) s)))
  (s1.modStart (fun x => { x with phase := .safe })).modDom 89 (fun d => { d with st := 2 })

/-- A stage begins. At stage S4 the AVSBus may be used, and the reset point is requested (R471, R524); a stage that its
selection skips is recorded and passed over. -/
def stageEnter (n : Nat) (s : State) : State :=
  let go := fun (n : Nat) (s : State) => s.modStart (fun x => { x with stage := n })
  if stagePath s n == 2 && stageOptional n then go (n + 1) (journalAdd n (if s.aMode 8 then 3 else 2) 3 stOk 0 (go n s))
  else if n == 4 && (!s.start.warm || s.pow.varrMv == 0) then requestMv 660 (go n s)
  else go n s

/-- A take begins: its mode for start alternates takes effect, its number is the next, and its header names the cause. -/
def takeBeginAt (warm fromSafe : Bool) (cause : Nat) (s : State) : State :=
  let s1 := splitPoint 8 s
  let no := (s1.start.ahead.takes + 1) % 2 ^ 32
  let s2 := faultOn (s1.modStart (fun x => { x with phase := .take, warm, fromSafe, cause, takeNo := no, stage := if warm then 3 else 0 }))
  journalAdd 15 0 0 stOk (BitVec.ofNat 64 cause) s2

/-- The health log has a record of a kind and a place. -/
def hlogHas (s : State) (kind : Nat) (unit : W64) : Bool := s.rep.hlog.any (fun r => r.kind == kind && r.unit == unit)

/-- The slot that the log's last record of an image switch names; slot A before any. -/
def hlogSlot (s : State) : Nat :=
  (s.rep.hlog.foldl (fun (m : Nat × Nat) r => if (r.kind == 0x0C || r.kind == 0x0D) && r.seq ≥ m.1 then (r.seq, bitsOf r.unit 0 0) else m) (0, 0)).2

/-- A cold start finds fused rows, retired pseudo-channels and an active image whose records were lost, and records them afresh; how many
lines a retirement moved as poisoned is found no more, and is a free value (R397). -/
def recordAfresh (s : State) : State :=
  let s1 := (s.rep.rows.filter (fun r => r.fused)).foldl (fun s r =>
    if hlogHas s 0x06 (BitVec.ofNat 64 r.addr) then s else hlog 0x06 true 0 (BitVec.ofNat 64 r.addr) (BitVec.ofNat 64 r.spare) s) s
  let s2 := s.rep.retired.foldl (fun s p =>
    let u := BitVec.ofNat 64 (p / 64 + p % 64 * 8)
    if hlogHas s 0x08 u then s else let q := s.fresh; hlog 0x08 true 0 u (BitVec.ofNat 64 q.1) q.2) s1
  if hlogSlot s2 == s2.rep.fwActive then s2
  else hlog 0x0C true 0 (BitVec.ofNat 64 s2.rep.fwActive) (imgWord (imgSlot s2 s2.rep.fwActive) 1) s2

/-- A cold start from the always-on island's own reset (R469, R479). An enabled device that finds TRIP_N low holds (R522). -/
def coldStart (fromSafe : Bool) (cause : Nat) (s : State) : State :=
  let s1 := recordAfresh (coldBase s)
  if s1.pins.legacy && s1.pins.tripIn then faultOn (s1.modStart (fun x => { x with phase := .tripHold, cause }))
  else takeBeginAt false fromSafe cause s1

/-- A cold take that no cold reset started: the island and what it holds stay, memory does not (R473, R478). -/
def coldTake (fromSafe : Bool) (cause : Nat) (s : State) : State :=
  takeBeginAt false fromSafe cause (outside (loseMemory true (domsOff (fun _ => false) s)))

/-- The running stage can end: S4 needs the rails in range, and S11 needs PERST# deasserted (R469, R470). -/
def stageMay (s : State) : Bool :=
  s.start.phase == .take && (s.start.stage != 4 || s.start.railsOk) && (s.start.stage != 11 || !s.start.perst)

/-- Domains that come on. -/
def domsOn (l : List Nat) (s : State) : State := (l.filter (domThere s.build)).foldl (fun s n => s.modDom n (fun d => { d with st := 2 })) s

/-- A group of tiles has a logical tile that is there. -/
def groupThere (s : State) (n : Nat) : Bool := (List.range (Config.tiles s.build)).any (fun t => s.tileThere t && servingDom s t == n)

/-- S1: fuses are read; the lifecycle state that a transition wrote takes effect (R442). -/
def passS1 (s : State) : State :=
  if s.sec.next == 7 then s else { s with sec := { s.sec with lc := s.sec.next, slot := s.sec.nextSlot, next := 7 } }

/-- S3: the image of the slot that passed is active, and in a cold take Gaffer and the SP change to their sections (R471, R474). -/
def passS3 (s : State) : State :=
  let k := if stagePath s 3 == 1 then 1 - s.start.slot else s.start.slot
  let s1 : State := if s.aMode 8 && k != s.start.slot then winRequest (.fwslot k) s else s
  let s2 : State := { s1 with rep := { s1.rep with fwActive := k } }
  if s.start.warm then s2 else runIsland (imgSlot s2 k) s2

/-- What a stage's test found failing: addresses of words at S6, pseudo-channels at S7, and logical tiles at S9, each with whether the
spare of its slab passes. -/
abbrev Failing := List (Nat × Bool)

/-- S6: the memory layers come on; a warm take recovers every column's roll slots, RETURNED writes zero, and failing rows are
repaired (R255, R403, R444). -/
def passS6 (bad : Failing) (s : State) : State :=
  let s1 := domsOn [64, 65, 66, 67, 68] s
  let s2 := if s1.start.warm then s1.start.recover.foldl (fun s c => recoverCol c.1 c.2 s) s1 else s1
  bad.foldl (fun s x => if repairable s x.1 && winOf x.1 == .near then rowFails (rowBase x.1) s else s)
    (if s2.sec.lc == 3 then s2.zero 0 storeBase else s2)

/-- A pseudo-channel fails HBM training (R406). -/
def pcFails (p : Nat) (s : State) : State :=
  if p ≥ Config.pcs s.build || s.rep.failPcs.contains p || s.rep.retired.contains p then s
  else candidate p (hbmBase + p * 4096) { s with rep := { s.rep with failPcs := s.rep.failPcs ++ [p] } }

/-- S7: the HBM interfaces come on, RETURNED writes zero, pseudo-channels that fail become candidates, and in H mode HBM repairs are
committed (R405, R406). -/
def passS7 (bad : Failing) (s : State) : State :=
  let s1 := domsOn [81, 82, 83, 84, 85, 86, 87, 88] s
  let s2 := bad.foldl (fun s x => pcFails x.1 s) (if s1.sec.lc == 3 then s1.zero hbmBase (Config.hbmTop s1.build) else s1)
  if s2.rep.rows.any (fun r => r.switched && !r.fused && winOf r.addr == .hbm) && !s2.aMode 6 then winRequest .fuse s2 else s2

/-- S8: the ports come on, but for those excluded. -/
def passS8 (detail : W64) (s : State) : State :=
  let ex := (List.range 12).filter (fun n => bitOf detail n)
  domsOn (((List.range 12).filter (fun n => !ex.contains n)).map (fun n => 69 + n)) s

/-- The slab's spare can serve a tile that S9 finds failing: it passes, serves no tile and is not retired, and the log takes its
record (R397, R401). -/
def spareFits (s : State) (x : Nat × Bool) : Bool :=
  x.2 && !s.rep.spareOf.any (fun y => y.1 / 16 == x.1 / 16) && !s.rep.usedSpare.contains (x.1 / 16) && !s.rep.pfull

/-- Failing tiles that are spared at start, one after another (R398). -/
def spareTiles (bad : Failing) (s : State) : State :=
  bad.foldl (fun s x =>
    let t := x.1
    if !s.tileThere t || !spareFits s x then s
    else hlog 0x01 true 0 (BitVec.ofNat 64 (t + physOf s t * 2 ^ 8 + spareOfSlab t * 2 ^ 17)) 0
      { s with rep := { s.rep with spareOf := mput s.rep.spareOf t (spareOfSlab t) } }) s

/-- Tiles that still fail after sparing. -/
def stillFail (bad : Failing) (s t : State) : List Nat :=
  ((bad.map (fun x => x.1)).filter (fun x => s.tileThere x && mfind s.rep.spareOf x == mfind t.rep.spareOf x)).eraseDups

/-- They are excluded as absent on the alternate path. -/
def excludeTiles (l : List Nat) (s : State) : State :=
  l.foldl (fun s t => hlog 0x02 true stRepairExhausted (BitVec.ofNat 64 t) 0 { s with rep := { s.rep with absent := s.rep.absent ++ [t] } }) s

/-- S9: failing tiles are spared, those that still fail are excluded, and the tile groups with a tile that is there come on. -/
def passS9 (bad : Failing) (s0 : State) : State :=
  let s1 := spareTiles bad s0
  let s := excludeTiles (stillFail bad s0 s1) s1
  let gs := (List.range 64).filter (groupThere s)
  domsOn (if gs.isEmpty then [] else gs ++ [96]) s

/-- S10: the Director, Grip and Continuity start, on the alternate path with the standby Director cores (Table 16.2). -/
def passS10 (s : State) : State :=
  let s1 : State := if stagePath s 10 == 1 then { s with rep := { s.rep with dirActive := s.rep.dirStandby, dirStandby := s.rep.dirActive } } else s
  queriesGo (runStack (imgSlot s1 s1.rep.fwActive) s1)

/-- S11: the device is in service (R487); an armed warm take's Dailies end. -/
def passS11 (s : State) : State :=
  let s1 := s.modStart (fun x => { x with phase := .run, faultN := false, alert := false, rstBusy := false, rstStatus := stOk })
  if s.start.warm then { s1 with obs := { s1.obs with armWarm := false } } else s1

/-- What a stage's pass does. -/
def stageWork (n : Nat) (detail : W64) (bad : Failing) (s : State) : State :=
  match n with
  | 1 => if s.start.warm then s else passS1 s
  | 3 => passS3 s
  | 4 => domsOn [89, 90, 91, 92, 93] s
  | 6 => passS6 bad s
  | 7 => passS7 bad s
  | 8 => passS8 detail s
  | 9 => passS9 bad s
  | 10 => passS10 s
  | _ => s

/-- DETAIL of a stage's record (Table 16.5), from the states before and after its work. -/
def stageDetail (s t : State) (n : Nat) (detail : W64) : W64 :=
  let alt := stagePath s n == 1
  match n with
  | 3 => BitVec.ofNat 64 (if alt then 1 - s.start.slot else s.start.slot)
  | 7 => BitVec.ofNat 64 (b2n alt)
  | 8 => BitVec.ofNat 64 (bitsOf detail 11 0)
  | 9 => BitVec.ofNat 64 ((t.rep.spareOf.length - s.rep.spareOf.length) % 256 + (t.rep.absent.length - s.rep.absent.length) % 256 * 256)
  | _ => 0

/-- A stage has passed: it is recorded, and the next begins. -/
def stagePass (n : Nat) (detail : W64) (bad : Failing) (s : State) : State :=
  let t := stageWork n detail bad s
  let s1 := journalAdd n (pathCode s n) 0 stOk (stageDetail s t n detail) t
  if n ≥ 11 then passS11 s1 else stageEnter (n + 1) s1

/-- The failure leaves no path to try: A mode, an alternate that failed twice, or three failures of a stage without one (R474,
R475); a device in VOID ends every take at S3 (R444). -/
def noPath (s : State) (n : Nat) : Bool :=
  let c := mget (0, 0) s.start.ahead.counts n
  s.aMode 8 || (n == 3 && s.sec.lc == 4) || (stageAlt n && !stageOptional n && c.2 ≥ 2) || (!stageAlt n && c.1 ≥ 3)

/-- A stage has failed. S0 holds without a record; otherwise the failure is recorded, and a cold take follows, or SAFE. -/
def stageFail (n : Nat) (st : Status) (detail : W64) (s0 s : State) : State :=
  if n == 0 then faultOn (s.modStart (fun x => { x with phase := .down, jstatus := st, staged := [] }))
  else
    let s1 := journalAdd n (pathCode s n) 1 st (stageDetail s0 s n detail) (s.modStart (fun x => { x with jstatus := st }))
    if noPath s1 n then enterSafe s1 else s1.modStart (fun x => { x with phase := .failed })

/-- The running stage ends with a status; in VOID stage S3 never passes (R444). On its primary path S9 fails when a tile still fails
after sparing, with REPAIR_EXHAUSTED (DESIGN CHOICE, log 102). -/
def stageEnd (st : Status) (detail : W64) (bad : Failing) (s : State) : State :=
  let n := s.start.stage
  if !stageMay s then s
  else if st != stOk || (n == 3 && s.sec.lc == 4) then stageFail n st detail s s
  else if n == 9 && stagePath s 9 != 1 && !(stillFail bad s (spareTiles bad s)).isEmpty then stageFail 9 stRepairExhausted detail s (spareTiles bad s)
  else stagePass n detail bad s

def execStageEnd (status : Status) (found : StageFound) (s : State) : Res := .next (stageEnd status found.detail found.failing s)
def execStageTimeout (s : State) : Res := .next (stageEnd stStageTimeout 0 [] s)

/-- A start is refused while the shutdown threshold is set, and a tripped device starts only by the net's release (R359, R363,
R366). -/
def startAllowed (s : State) : Bool := s.islandUp && s.start.phase != .tripHold && !s.pow.tripped && !s.pow.shutThr

/-- 100 ms after the failure the next cold take begins (R473). -/
def execTakeRetry (s : State) : Res :=
  .next (if s.start.phase == .failed && startAllowed s then coldTake s.start.fromSafe s.start.cause s else s)

/-! ### Cold and warm resets (R479, R480) -/

def coldReset (s : State) : State :=
  if !startAllowed s then s else coldStart (s.start.phase == .safe) 5 (interrupt s)

/-- The partition returns to all scratch, with the roll emptied first (R210, R268, R480). -/
def allScratch (s : State) : State :=
  if s.cache.quarters == 0 then s
  else
    let s1 := rollEmpty s
    quartersTurn 0 (s1.cache.lines.foldl (fun s x => s.evict x.line) s1)

/-- A warm reset: every column's roll slots await recovery in stage S6. -/
def warmGo (s : State) : State :=
  let s1 := outside (domsOff (fun n => 64 ≤ n && n < 69) (allScratch (interrupt s)))
  let cols := (s1.bank.roll.map (fun x => (x.layer, x.col))).eraseDups
  let all := if s1.bank.commit.isEmpty then cols else if cols.contains (0, 0) then cols else (0, 0) :: cols
  stageEnter 3 (takeBeginAt true false 4 ((s1.modStart (fun x => { x with recover := all, rstKind := 4, runKind := 4, rstBusy := true, rstStatus := stOk })).modPow
    (fun p => { p with shut := false, urgentLatch := false })))

/-- A warm reset ends every reset but a cold one (R483); the device held in reset by a failed S0 does not start by it. -/
def warmReset (s : State) : State :=
  if !startAllowed s then s
  else match s.start.phase with
    | .run => warmGo s
    | .take => if s.start.warm then warmGo s else s
    | .down => if s.start.stage == 0 then s else warmGo s
    | .safe => coldTake true 5 s
    | _ => s

/-- A write of GAF_RST_CTL with GO: KIND and TARGET are stored; the GO is ignored while BUSY (Table 16.8). -/
def rstGo (kind target : Nat) (k : State → State) (s : State) : State :=
  let s := s.modStart (fun x => { x with rstKind := kind, rstTarget := target })
  if s.start.rstBusy then s else k (s.modStart (fun x => { x with runKind := kind, runTarget := target, rstStatus := stOk }))

def execResetCold (s : State) : Res := .next (hostWrite (fun s => rstGo 5 s.start.rstTarget coldReset s) s)
def execResetWarm (s : State) : Res := .next (hostWrite (fun s => rstGo 4 s.start.rstTarget warmReset s) s)

/-- PERST# is asserted: a warm reset, or from SAFE a cold take (R478, R479). -/
def execPerstAssert (s : State) : Res := .next (if s.start.perst then s else warmReset (s.modStart (fun x => { x with perst := true })))
/-- PERST# is deasserted: the boundary chain drives the lands no more (R526). -/
def execPerstDeassert (s : State) : Res :=
  .next { s.modStart (fun x => { x with perst := false }) with pins := { s.pins with jtagMode := 0 } }

/-! ### SPR_JNL and the journal window (R476, R478, Table 16.6) -/

def jnlTake (s : State) : State := if s.start.phase == .safe && startAllowed s then coldTake true 5 s else s

def execJnlTake (s : State) : Res := .next (jnlTake s)
def execClrsel (s : State) : Res := .next (winRequest .clrsel s)

/-- A write through the journal window reaches the stage plan alone; bytes 12 to 15 are reserved. -/
def journalWrite (off : Nat) (v : W64) (s : State) : State :=
  if off == 0x40 then winRequest (.plan 0 v) s
  else if off == 0x48 then winRequest (.plan 8 (BitVec.ofNat 64 (bitsOf v 31 0))) s
  else s

def execJournalPlanWrite (off : Nat) (v : W64) (s : State) : Res := .next (journalWrite off v s)

/-! ### Power-on, rails and REFCLK (R469, R517, R518, R522) -/

/-- VAO and V1P8 are in range: CLKREQ# is driven low (R521), the straps are sampled, and stage S0 begins. -/
def execAlwaysOnStart (bpos pair : Nat) (legacy trip : Bool) (s : State) : Res :=
  .next (if s.start.phase != .off then s
    else coldStart false 6 { s with pins := { s.pins with clkreq := true, bpos := bpos % 8, pair := pair % 16, legacy, tripIn := trip } })

/-- Every rail is in range. -/
def execRailsInRange (s : State) : Res := .next (if s.islandUp then s.modStart (fun x => { x with railsOk := true }) else s)

/-- Power is lost: nothing but MRAM and fuses stays (Table 12.8). -/
def powerLoss (s : State) : State := faultOn ((coldBase (interrupt s)).modStart (fun x => { x with phase := .off, railsOk := false }))

/-- A rail has left its range: rails are numbered as Table 18.5 lists them, so 6 and 8 are VAO and V1P8 (DESIGN CHOICE, log 56). -/
def execRailOutOfRange (rail : Nat) (s : State) : Res :=
  .next (if s.start.phase != .off && (s.start.railsOk || rail == 6 || rail == 8) then
      (if rail == 6 then (let s1 := powerLoss s; { s1 with pins := { s1.pins with clkreq := false } }) else powerLoss s)
    else s)

/-- REFCLK is absent: the device holds in cold reset. -/
def execRefclkLoss (s : State) : Res :=
  .next (if s.start.phase == .off || s.start.phase == .clockHold then s
    else faultOn ((coldBase (interrupt s)).modStart (fun x => { x with phase := .clockHold })))
def execRefclkReturn (s : State) : Res := .next (if s.start.phase == .clockHold then coldStart false 5 s else s)

/-- TRIP_N has been high for 10 s: the held device goes on. -/
def execTripNHigh10s (s : State) : Res :=
  .next (if s.start.phase == .tripHold then takeBeginAt false false s.start.cause { s with pins := { s.pins with tripIn := false } }
    else { s with pins := { s.pins with tripIn := false } })

/-! ### The end of the orderly stop, trips and power-off (R362 to R366, R464) -/

/-- VARR goes to 0, every switched domain stops, and the device holds in reset with the island running; HBM stacks keep their
contents in self-refresh. -/
def holdInReset (s : State) : State :=
  let s1 := outside (loseMemory false (domsOff (fun _ => false) (interrupt s)))
  faultOn (requestMv 0 (s1.modStart (fun x => { x with phase := .down, stage := 11 })))

/-- Step 3 of Table 11.13: the frame of the last committed step is completed, and the partner told. -/
def mirrorsStop (s : State) : State :=
  s.pairs.mir.foldl (fun s m =>
    if m.2.st != 2 then s
    else
      let s1 := match m.2.sealed_ with
        | some t => match (s.group m.2.grp).recorded t with
          | some set => mirrorEnd m.1 t set s
          | none => s
        | none => s
      mctl m.2.peer mcSTOPPING m.1 [] s1) s

/-- The device is powered and not yet held. -/
def State.started (s : State) : Bool :=
  s.start.phase == .take || s.start.phase == .failed || s.start.phase == .run || s.start.phase == .safe

/-- Step 4 of the orderly stop; by prediction it comes before step 3 has been done (R363). -/
def execOrderlyStopFinal (predicted : Bool) (s : State) : Res :=
  .next (if !s.pow.shut || !s.started then s else holdInReset (abortCues (fun _ _ _ => true) (if predicted then s else mirrorsStop s)))

/-- A trip, with this device's own drive of TRIP_N when it is its own; a device that another's TRIP_N holds trips on its own
sensor too (R365, R522). -/
def trip (own : Bool) (s : State) : State :=
  if !s.started && s.start.phase != .down && !(own && s.start.phase == .tripHold) then s
  else
    let s1 := affectCues 2 (fun reel slot _ => (s.cueIn reel slot).isSome) s
    let s2 := if s1.start.phase == .down then s1 else holdInReset s1
    { s2.modPow (fun p => { p with tripped := true, tripDrive := p.tripDrive || own, tripCool := false, shut := false }) with
      pins := { s2.pins with tripIn := s2.pins.tripIn || own } }

/-- A physical sensor reads 120 degrees or more, raw (R365). -/
def execLegacyTrip (_sensor : Nat) (raw : Int) (s : State) : Res := .next (if s.pins.legacy && raw ≥ 480 then trip true s else s)

/-- TRIP_N reads low: a device whose strap is low ignores it. -/
def execTripNAsserted (s : State) : Res :=
  .next (let s1 : State := { s with pins := { s.pins with tripIn := true } }
    if s.pins.legacy then trip false s1 else s1)

/-- Every raw sensor has read below 80 degrees for 10 s: the device's own drive ends (R366). -/
def execTripRelease (s : State) : Res := .next (if s.pow.tripped then s.modPow (fun p => { p with tripDrive := false, tripCool := true }) else s)

/-- TRIP_N is released on the net, and the tripped device that has cooled starts cold. -/
def execTripRestart (s : State) : Res :=
  .next (let s1 : State := { s with pins := { s.pins with tripIn := false } }
    if s.pow.tripped && s.pow.tripCool && !s.pow.tripDrive && s.islandUp then coldStart false 7 s1 else s1)

/-- A power-off request is performed once no cue is admitted (R464, R465). -/
def execOffEnter (s : State) : Res := .next (if s.sec.offPend && s.admitted.isEmpty && s.started then holdInReset s else s)

end Sys2Proof.Machine
end

