-- ==== Sys2Proof/Machine/Reset.lean ====
section
/-! DEFINITION. The resets of a domain, a tile, a reel and the base-die I/O (R479, R481 to R486), and the ends of domain stops,
domain starts and swaps that they wait for. -/
namespace Sys2Proof.Machine

/-! ### Tiles (R481) -/

/-- The requests of operations that a tile reset stops: those not issued go, and those issued only return their slots. -/
def stopJobs (T : Tile) : Tile :=
  let ids := T.rscs.filterMap (fun o => o.op) ++ (T.cpyl.bind (fun o => o.op)).toList ++ T.mmas.flatMap (fun o => o.staged.filterMap (fun x => x.op))
  let cut := mapIf (fun o => ids.contains o.id) (fun o => { o with kind := .load, dst := .job, parts := o.parts.filter (fun p => p.issued) }) T.ops
  { T with ops := cut.filter (fun o => !ids.contains o.id || o.parts.any (fun p => !p.done)) }

/-- Threads of a tile that are live. -/
def liveOn (s : State) (t : Nat) : List TRef := ((s.tile t).threads.filter (fun x => x.2.live)).map (fun x => ⟨t, x.1⟩)

/-- The tile's array, tables, handles, caches and live counters at their reset state (R481, R493). -/
def tileClear (T : Tile) : Tile :=
  { stopJobs T with
    sets := []
    mmas := []
    rscs := []
    cpyl := none
    cpylWait := []
    rt0 := []
    rt1 := []
    cb0 := []
    cb1 := []
    rtActive := 0
    cbActive := 0
    rtPend := false
    cbPend := false
    ra := []
    xc := []
    fix := []
    pmc := [] }

/-- Open cues, expired ones among them, that a reset reaches are affected and end ABORTED; the status goes to an event record of
R144's type, since their sequences' threads on the tiles that `halts` names halt (R393, Table 12.8). -/
def cutCues (p : Nat → Nat → Bool) (halts : Nat → Bool) (s : State) : State :=
  let cs := s.cues.filter (fun c => p c.1 c.2.1 && c.2.2.st != .awaiting)
  let s1 := abortAmong cs (fun _ _ _ => true) (affectCues 5 (fun reel slot _ => p reel slot) s)
  cs.foldl (fun s c => match s.seq c.1 c.2.1 with
    | some q => cueRecord c.1 c.2.1 stAborted q halts s
    | none => s) s1

/-- Cues whose sequence has a thread on a tile end with its reset. -/
def tilesCut (ts : List Nat) (s : State) : State :=
  cutCues (fun reel slot => match s.seq reel slot with
    | some q => q.tiles.any (fun t => ts.contains t)
    | none => false) ts.contains s

/-- A tile reset: every thread halts with TILE_RESET, and the tile's own operations stop where they are. -/
def tileReset (t : Nat) (s : State) : State :=
  let s1 := (liveOn s t).foldl (fun s r => haltThread r stTileReset (s.thread r).pc s) (tilesCut [t] s)
  s1.modTile t tileClear

/-- A reset is over. -/
def rstEnd (st : Status) (s : State) : State := s.modStart (fun x => { x with rstBusy := false, rstStatus := st })

/-- A swap of the tile runs (R399). -/
def swapping (s : State) (t : Nat) : Bool := s.rep.tspRetiring && s.rep.tspQueue.head? == some t

/-- RESET of a tile: it waits for the last step of a swap of the same tile (R483). -/
def resetTile (t : Nat) (s : State) : State :=
  if !s.tileThere t then rstEnd stNoTarget s
  else if swapping s t then s.modStart (fun x => { x with rstBusy := true, tileWait := some t })
  else wake (rstEnd stOk (tileReset t s))

def execResetTile (tile : Nat) (s : State) : Res := .next (hostWrite (fun s => rstGo 1 tile (resetTile tile) s) s)

/-- Steps 3 to 5 of Table 13.5: the store and the tables go with the index, and TILE_SPARE is staged; a tile reset that waited
then resets the spare. -/
def swapSwitch (s : State) : State :=
  match s.rep.tspQueue with
  | [] => s
  | t :: _ =>
    if !s.rep.tspRetiring || !tileIdle s t || s.permWait then s
    else
      let new := spareOfSlab t
      let s1 := hlog 0x01 true 0 (BitVec.ofNat 64 (t + physOf s t * 2 ^ 8 + new * 2 ^ 17)) (BitVec.ofNat 64 (s.tile t).unc.length) s
      let s2 := swapOver stOk ({ s1 with rep := { s1.rep with spareOf := mput s1.rep.spareOf t new } }.modTile t
        (fun T => { T with unc := [], ra := [], xc := [] }))
      if s2.start.tileWait == some t then rstEnd stOk (tileReset t (s2.modStart (fun x => { x with tileWait := none }))) else s2

/-! ### Reels (R482) -/

/-- Threads of a reel's live sequences. -/
def reelThreads (s : State) (n : Nat) : List TRef :=
  s.tiles.flatMap (fun T => (T.2.threads.filter (fun x => x.2.live && !x.2.helper && x.2.reel == n)).map (fun x => TRef.mk T.1 x.1))

/-- A reel reset: the reel's cues end ABORTED, and its threads halt with REEL_RESET; the reel and its queues stay. -/
def reelReset (n : Nat) (s : State) : State :=
  let s2 := cutCues (fun reel _ => reel == n) (fun _ => true) s
  (reelThreads s2 n).foldl (fun s r => haltThread r stReelReset (s.thread r).pc s) s2

def resetReel (reel : Nat) (s : State) : State :=
  rstGo 2 reel (fun s => if reel < 16 then wake (rstEnd stOk (reelReset reel s)) else rstEnd stNoTarget s) s

def execResetReel (reel : Nat) (s : State) : Res := .next (hostWrite (resetReel reel) s)

/-! ### Domains (R349, R350, R479) -/

/-- Logical tiles that a tile-group domain serves. -/
def tilesIn (s : State) (n : Nat) : List Nat := if n < 64 then (List.range (Config.tiles s.build)).filter (fun t => servingDom s t == n) else []

/-- A domain reset: a stop and a start that ignore busy and cancel what pended; the tiles of a tile group are reset with it. -/
def domReset (n : Nat) (s : State) : State :=
  let ts := tilesIn s n
  let s1 := ts.foldl (fun s t => tileReset t s) (tilesCut ts s)
  wake ((domStop n (s1.modStart (fun x => { x with rstBusy := true }))).modDom n (fun d => { d with pendOn := true }))

def domainReset (n : Nat) (s : State) : State :=
  rstGo 0 n (fun s => if domThere s.build n then domReset n s else rstEnd stNoTarget s) s

def execResetDomain (n : Nat) (s : State) : Res := .next (hostWrite (domainReset n) s)

/-- What a stopped domain loses; a link port is lost to its peer, and the layer that holds the anchor column loses the commit
words. -/
def domLoseAll (n : Nat) (s : State) : State :=
  let anchor := match anchorCol s with
    | some c => c.1 + 64 == n
    | none => false
  let s1 := domLose n s
  if 69 ≤ n && n < 81 then
    let p := n - 69
    let was := portIsUp s1 p || (s1.port p).retraining
    let s2 := s1.modPort p (fun x => { x with st := 0, retraining := false })
    if was then portGone p s2 else s2
  else if anchor then { s1 with bank := { s1.bank with commit := [] } }
  else s1

/-- A stop completes, its contents go, and PENDING-ON begins the start (R349, R350). -/
def domStopDone (n : Nat) (s : State) : State :=
  if (s.dom n).st != 3 then s
  else
    let on := (s.dom n).pendOn
    let s1 := domEvent n (domLoseAll n (domOff n s))
    if on then domStart n s1 else s1

/-- A start completes, and with it the domain's reset. -/
def domStarted (n : Nat) (s : State) : State :=
  let s1 := domStartDone n s
  if s1.start.rstBusy && s1.start.runKind == 0 && s1.start.runTarget == n && (s.dom n).st == 1 then rstEnd stOk s1 else s1

def execDomainStopComplete (n : Nat) (s : State) : Res := wakeRes (domStopDone n s)

/-! ### Base-die I/O (R484 to R486) -/

/-- A physical address is reached over PCIe, a port or an HBM interface. -/
def crosses (s : State) (pa : Nat) : Bool := s.far pa || winOf (paLocal pa) == .hbm

/-- A sequence has a transfer in progress that crosses them. -/
def seqCrosses (s : State) (reel slot : Nat) : Bool :=
  s.tiles.any (fun T => T.2.ops.any (fun o => o.reel == reel && o.slot == slot && o.parts.any (fun p => p.issued && !p.done && crosses s p.pa))) ||
  s.bank.ops.any (fun o => o.reel == reel && o.slot == slot && (o.kind == .coll || o.kind == .perm || o.kind == .scrub))

/-- The link layer of a port starts afresh: what was sent and not acknowledged goes back to the queue, but for this device's own
requests, which its list of outstanding requests reissues. -/
def linkFresh (n : Nat) (s : State) : State :=
  let own := fun (m : Msg) => m.src == s.ownId && isRequest m.mtype
  s.modPort n (fun p => { p with
    st := 1
    retraining := false
    queue := (p.replay.flatMap (fun f => f.msgs) ++ p.cur.map (fun c => c.2.1) ++ p.queue).filter (fun m => !own m)
    cur := []
    rx := []
    replay := []
    replays := 0
    txSeq := 0
    rxSeq := 4095
    nakWait := false
    naks := 0
    seen := none
    credits := fullCredits
    owed := [0, 0, 0, 0] })

/-- Requests that went out over a port that a condition names: a remote SEM is not reissued and ends with LINK_LOST; the others are
sent again once the port is back, before anything new to their homes (R485). -/
def cutRequests (hit : Nat → Bool) (s : State) : State :=
  let s1 := (s.links.reqs.filter (fun q => hit q.port && q.mtype == mtSEM)).foldl (fun s q => reqDone q stLinkLost [] s) s
  { s1 with links := { s1.links with reqs := mapIf (fun q => hit q.port) (fun q => { q with again := true }) s1.links.reqs } }

/-- The reset is asserted: ports to electrical idle, HBM stacks to self-refresh, the PCIe link down. -/
def ioAssertGo (s : State) : State :=
  let s1 := affectCues 6 (fun reel slot _ => seqCrosses s reel slot) s
  let ps := (List.range (Config.ports s.build)).filter (fun n => portIsUp s n || (s.port n).retraining)
  let s2 := cutRequests (fun n => ps.contains n) (ps.foldl (fun s n => linkFresh n s) s1)
  s2.modStart (fun x => { x with rstKind := 3, runKind := 3, rstBusy := true, rstStatus := stOk, ioAssert := true, ioDown := ps ++ [12, 13] })

def execResetIo (s : State) : Res := .next (hostWrite (fun s => rstGo 3 s.start.rstTarget ioAssertGo s) s)

/-- A PCIe hot reset or link-down reset acts as a base-die I/O reset; while another reset runs it waits (R419, R483). -/
def execPcieHotReset (s : State) : Res :=
  .next (if s.start.rstBusy then s.modStart (fun x => { x with ioPend := true }) else ioAssertGo s)

def execIoResetRelease (s : State) : Res := .next (s.modStart (fun x => { x with ioAssert := false }))

/-- The requests over a port go again, in their original order. -/
def reissuePort (n : Nat) (s : State) : State :=
  (s.links.reqs.filter (fun q => q.port == n && q.mtype != mtSEM && !q.waiting)).foldl (fun s q => sendOn n q.msg s)
    { s with links := { s.links with reqs := mapIf (fun q => q.port == n) (fun q => { q with again := true }) s.links.reqs } }

/-- The requests to the host go again, and DMA descriptors restart from their first byte. -/
def reissueHost (s : State) : State :=
  let s1 := s.host.reqs.foldl (fun s q => s.send (.readReq q.tag q.addr q.len)) s
  (List.range 4).foldl (fun s k => if (s.dma k).cur.isSome then dmaGo k (s.modDma k (fun d => { d with hostDone := false, status := stOk })) else s) s1

/-- A port of a device whose peer was reset, or of this one, is back. -/
def portBack (n : Nat) (s : State) : State :=
  let s1 := if s.start.ioDown.contains n then s else cutRequests (fun k => k == n) (linkFresh n s)
  reissuePort n (pump n (s1.modPort n (fun p => { p with st := 2 })))

/-- An interface is back: 0 to 11 the ports, 12 HBM, 13 PCIe. After the last BUSY clears with success, and a reset that waited begins. -/
def ioBack (i : Nat) (s : State) : State :=
  if s.start.ioAssert || !(s.start.ioDown.contains i || portIsUp s i) then s
  else
    let s1 := if i < 12 then portBack i s else s
    let s2 := s1.modStart (fun x => { x with ioDown := x.ioDown.filter (fun k => k != i) })
    let s3 := if i == 13 then reissueHost s2 else s2
    if s3.start.ioDown.isEmpty && s3.start.rstBusy && s3.start.runKind == 3 then rstEnd stOk s3 else s3

/-- A trigger that waited for BUSY (R483). -/
def ioPended (s : State) : State :=
  if s.start.ioPend && !s.start.rstBusy then ioAssertGo (s.modStart (fun x => { x with ioPend := false })) else s

def execTileSwapSwitch (s : State) : Res := wakeRes (ioPended (swapSwitch s))
def execDomainStartComplete (n : Nat) (s : State) : Res := wakeRes (ioPended (domStarted n s))
def execInterfaceRetrained (iface : Nat) (s : State) : Res := wakeRes (ioPended (ioBack iface s))

/-- The link settles; below 32 GT/s or narrower than x4 it is DEGRADED (R417). After an I/O reset PCIe is back. The rate is
RATE of Table 14.4. -/
def execPcieLinkUp (rate width : Nat) (flit : Bool) (s : State) : Res :=
  .next (let s1 : State := { s with host := { s.host with rate := rate % 8, width := width % 32, flit, degraded := rate % 8 < 5 || width % 32 < 4 } }
    if s1.start.ioDown.contains 13 then wake (ioPended (ioBack 13 s1)) else s1)

/-- Parts of operations that wait for HBM end with IO_RESET. -/
def hbmGiveUp (s : State) : State :=
  s.tiles.foldl (fun s T => T.2.ops.foldl (fun s o => (o.parts.zipIdx.filter (fun x => x.1.issued && !x.1.done && s.isLocal x.1.pa && winOf (paLocal x.1.pa) == .hbm)).foldl
    (fun s x => partDone T.1 o.id x.2 stIoReset s) s) s) s

/-- What still waits for an interface ends: LINK_LOST, IO_RESET or HOST_ABORT (R485). -/
def ioGiveUp (i : Nat) (s : State) : State :=
  if i < 12 then portGone i (s.modPort i (fun p => { p with st := 3, loss := true }))
  else if i == 12 then hbmGiveUp s
  else
    let s1 := (List.range 4).foldl (fun s k => dmaEnd k stHostAbort s) s
    s1.host.reqs.foldl (fun s q => hostEnd q.tag stHostAbort [] s) s1

/-- 1 s after the release: BUSY clears with IO_RESET. A port that is not back is DOWN; HBM and PCIe may still come back. -/
def ioLimit (s : State) : State :=
  if s.start.ioAssert || s.start.ioDown.isEmpty || !s.start.rstBusy || s.start.runKind != 3 then s
  else
    let s1 := s.start.ioDown.foldl (fun s i => ioGiveUp i s) s
    rstEnd stIoReset (s1.modStart (fun x => { x with ioDown := x.ioDown.filter (fun i => i ≥ 12) }))

def execIoResetLimit (s : State) : Res := wakeRes (ioPended (ioLimit s))

end Sys2Proof.Machine
end

