-- ==== Sys2Proof/Machine/Spdm.lean ====
section
/-! DEFINITION. Attestation and key establishment over the DOE mailbox (R419, R452 to R457). What the messages hold beyond the
manual stands in DSP0274 and is opaque; response and error codes are those of DSP0274 (PRESUMED, log 57). -/
namespace Sys2Proof.Machine

/-! ### Records as bytes -/

/-- A health-log record (Table 13.2). -/
def HlogRec.words (r : HlogRec) : List W64 :=
  [r.tick, BitVec.ofNat 64 (r.seq + r.kind * 2 ^ 32 + b2n r.perm * 2 ^ 40 + r.status.toNat * 2 ^ 48), r.unit, r.detail]

/-- A start-journal record (Table 16.5). -/
def JRec.words (r : JRec) : List W64 :=
  [BitVec.ofNat 64 (r.take + r.stage * 2 ^ 32 + r.path * 2 ^ 36 + r.result * 2 ^ 38 + r.tkind * 2 ^ 40 + r.status.toNat * 2 ^ 48), r.tick, r.detail, 0]

/-! ### Measurements (Table 15.7, R456) -/

/-- Records in ascending SEQ order. -/
def bySeq (l : List HlogRec) : List HlogRec := (l.foldl (fun (m : List (Nat × HlogRec)) r => minsert m r.seq r) []).map (fun p => p.2)

/-- The bytes over which the health-log digest is taken. -/
def hlogBytes (s : State) : List Byte := (bySeq s.rep.hlog ++ bySeq s.rep.staged).flatMap (fun r => bytesOfWords r.words)

/-- The fused configuration: lifecycle code, owner slot and digest, MIN, the image key digests, in that order (DESIGN CHOICE, log 57). -/
def fusedConfig (s : State) : List Byte :=
  [BitVec.ofNat 8 s.sec.lc, BitVec.ofNat 8 s.sec.slot] ++ mget [] s.sec.ownerDig s.sec.slot ++ [BitVec.ofNat 8 s.sec.minSvn] ++
  (List.range 4).flatMap (fun k => mget [] s.sec.imageDig k)

/-- The state block, 32 bytes. -/
def stateBlock (s : State) : List Byte :=
  let buildBit := match s.build with
    | .t => 0
    | .s => 4
  [BitVec.ofNat 8 s.sec.lc, BitVec.ofNat 8 s.sec.level, BitVec.ofNat 8 s.sec.maxdbg,
    BitVec.ofNat 8 (b2n s.sec.debugged + 2 * (s.rep.fwActive % 2) + buildBit), BitVec.ofNat 8 s.sec.slot, BitVec.ofNat 8 s.sec.minSvn, 0, 0] ++
  leBytes 8 s.sec.idTag.toNat ++ leBytes 8 s.time.tmb.toNat ++ leBytes 8 0

/-- The current take's records, written and staged. -/
def takeRecords (s : State) : List JRec := ((s.start.ring.map (fun p => p.2)) ++ s.start.staged).filter (fun r => r.take == s.start.takeNo)

/-- The content of a measurement block. -/
def measurement (s : State) (i : Nat) : List Byte :=
  match i with
  | 1 => Config.romDigest 0 ++ Config.romDigest 1
  | 2 => digest64 (fusedConfig s)
  | 3 => mget [] s.sec.secDig 3
  | 4 => mget [] s.sec.secDig 4
  | 5 => mget [] s.sec.secDig 5
  | 6 => stateBlock s
  | 7 => digest64 (hlogBytes s)
  | 8 => digest64 ((takeRecords s).flatMap (fun r => bytesOfWords r.words))
  | _ => []

/-- A block in DMTF measurement format: index, specification 1, size, value type and value size. -/
def measBlock (s : State) (i : Nat) : List Byte :=
  let v := measurement s i
  [BitVec.ofNat 8 i, 1] ++ leBytes 2 (v.length + 3) ++ [if i == 6 then 0x80 else 0] ++ leBytes 2 v.length ++ v

/-! ### Responses -/

/-- The SP answers DOE requests: in service and in SAFE. In VOID it answers GET_MEASUREMENTS alone (R444). -/
def spAnswers (s : State) (attest : Bool) : Bool := (s.start.phase == .run || s.start.phase == .safe) && (s.sec.lc != 4 || attest)

def doe (attest : Bool) (k : State → State) (s : State) : State := if spAnswers s attest then k s else s

/-- An SPDM ERROR. -/
def spdmError (code : Nat) (s : State) : State := s.send (.doe 0x7F [BitVec.ofNat 8 code])
def errInvalid : Nat := 0x01
def errUnexpected : Nat := 0x04
def errSessions : Nat := 0x0A

/-- A response whose content stands outside the manual. -/
def spdmReply (req resp : Nat) (q : SpdmReq) (s : State) : State := s.send (.doe resp (Config.spdmAnswer req q.data))

/-- DOE Discovery: vendor ID, protocol type and the next index; the protocols of Table 14.1 are types 0 to 3. -/
def discovery (index : Nat) (s : State) : State :=
  s.send (.doe 0 (if index < 4 then leBytes 4 (1 + index * 2 ^ 16 + (if index == 3 then 0 else index + 1) * 2 ^ 24) else leBytes 4 0xFFFF))

def execDoeDiscovery (index : Nat) (s : State) : Res := .next (doe false (discovery index) s)
/-- VERSION: one entry, version 1.2. -/
def versions : List Byte := [0, 1, 0x00, 0x12]

/-- What the device negotiates (R452, R454): DMTF measurements as a raw bit stream only, SHA3-512 only, one extended signature algorithm,
AES-256-GCM, and one extended key-exchange algorithm; each extended entry as registry, vendor ID and algorithm ID. -/
def algorithms : List Byte :=
  [1, 0] ++ leBytes 4 1 ++ leBytes 4 0 ++ leBytes 4 0x20 ++ [1, 0x03] ++ leBytes 2 0x1F47 ++ leBytes 2 0x0001 ++
  leBytes 2 2 ++ [1, 0x03] ++ leBytes 2 0x1F47 ++ leBytes 2 0x0020

def execGetVersion (_q : SpdmReq) (s : State) : Res := .next (doe false (fun s => s.send (.doe 0x04 versions)) s)
def execGetCapabilities (q : SpdmReq) (s : State) : Res := .next (doe false (spdmReply 0xE1 0x61 q) s)
def execNegotiateAlgorithms (_q : SpdmReq) (s : State) : Res := .next (doe false (fun s => s.send (.doe 0x63 algorithms)) s)
def execGetDigests (q : SpdmReq) (s : State) : Res := .next (doe false (spdmReply 0x81 0x01 q) s)

/-- GET_CERTIFICATE: the stored chain is slot 0; without one, or for another slot, InvalidRequest (R447). -/
def getCert (q : SpdmReq) (off len : Nat) (s : State) : State :=
  if q.slot != 0 || s.sec.chain.isEmpty || off ≥ s.sec.chain.length then spdmError errInvalid s
  else s.send (.doe 0x02 ((s.sec.chain.drop off).take len))

def execGetCertificate (q : SpdmReq) (off len : Nat) (s : State) : Res := .next (doe false (getCert q off len) s)
def execChallenge (q : SpdmReq) (s : State) : Res := .next (doe false (spdmReply 0x83 0x03 q) s)

/-- GET_MEASUREMENTS: index 0 the number of blocks, 0xFF all of them; signed with the identity key when that is asked (R455). -/
def getMeas (q : SpdmReq) (index : Nat) (s : State) : State :=
  let sig := if q.signed then Config.spdmAnswer 0xE0 q.data else []
  if index == 0 then s.send (.doe 0x60 (8 :: sig))
  else if index == 0xFF then s.send (.doe 0x60 ([1, 2, 3, 4, 5, 6, 7, 8].flatMap (measBlock s) ++ sig))
  else if index ≤ 8 then s.send (.doe 0x60 (measBlock s index ++ sig))
  else spdmError errInvalid s

def execGetMeasurements (q : SpdmReq) (index : Nat) (s : State) : Res := .next (doe true (getMeas q index) s)

/-! ### Sessions (R452 to R454) -/

/-- KEY_EXCHANGE: at most four sessions; the exchange data is an encapsulation key of ML-KEM-1024. -/
def keyExchange (q : SpdmReq) (s : State) : State :=
  if s.sec.sessions.length + s.sec.opening.length ≥ 4 then spdmError errSessions s
  else if q.data.length != 1568 || s.sec.sessions.contains q.session || s.sec.opening.contains q.session then spdmError errInvalid s
  else spdmReply 0xE4 0x64 q { s with sec := { s.sec with opening := s.sec.opening ++ [q.session] } }

def execKeyExchange (q : SpdmReq) (s : State) : Res := .next (doe false (keyExchange q) s)

/-- FINISH completes a session that KEY_EXCHANGE began. -/
def finishSession (q : SpdmReq) (s : State) : State :=
  if !s.sec.opening.contains q.session then spdmError errUnexpected s
  else spdmReply 0xE5 0x65 q { s with sec := { s.sec with
    opening := s.sec.opening.filter (fun k => k != q.session)
    sessions := s.sec.sessions ++ [q.session] } }

def execFinish (q : SpdmReq) (s : State) : Res := .next (doe false (finishSession q) s)

/-- END_SESSION ends a session and the streams that it keyed (R457). -/
def endSession (q : SpdmReq) (s : State) : State :=
  if !s.sec.sessions.contains q.session then spdmError errUnexpected s
  else spdmReply 0xEC 0x6C q { s with sec := { s.sec with
    sessions := s.sec.sessions.filter (fun k => k != q.session)
    ide := s.sec.ide.filter (fun x => x.session != q.session) } }

def execEndSession (q : SpdmReq) (s : State) : Res := .next (doe false (endSession q) s)

/-! ### IDE keys (R457) -/

/-- KP_ACK with a status: 0 is success, 1 a refusal. -/
def kpAck (ok : Bool) (s : State) : State := s.send (.doe 0xFE [if ok then 0 else 1])

/-- A request names an open session, a stream and a key set that the device has: stream 0 is the link stream, 1 to 4 the selective
ones (DESIGN CHOICE, log 57). -/
def ideOk (s : State) (session stream keyset : Nat) : Bool := s.sec.sessions.contains session && stream < 5 && keyset < 2

/-- KEY_PROG installs the key of a sub-stream: 0 PR, 1 NPR, 2 CPL. Another session's stream is refused. -/
def keyInstall (session stream keyset sub : Nat) (key : BitVec 256) (s : State) : State :=
  let cur := (s.sec.ide.find? (fun x => x.stream == stream)).getD { session, stream }
  if !ideOk s session stream keyset || sub > 2 || cur.session != session then kpAck false s
  else
    let keys := cur.keys.filter (fun k => !(k.1 == keyset && k.2.1 == sub)) ++ [(keyset, sub, key)]
    kpAck true { s with sec := { s.sec with ide := s.sec.ide.filter (fun x => x.stream != stream) ++ [{ cur with keys }] } }

def execKeyProg (session stream keyset sub : Nat) (key : BitVec 256) (s : State) : Res := .next (doe false (keyInstall session stream keyset sub key) s)

/-- Every sub-stream of the key set has its key. -/
def keyed (x : IdeStream) (keyset : Nat) : Bool := (List.range 3).all (fun sub => x.keys.any (fun k => k.1 == keyset && k.2.1 == sub))

/-- K_SET_GO activates a keyed stream. -/
def kSetActive (session stream keyset : Nat) (s : State) : State :=
  let mine := fun (x : IdeStream) => x.stream == stream && x.session == session && keyed x keyset
  if !ideOk s session stream keyset || !s.sec.ide.any mine then kpAck false s
  else kpAck true { s with sec := { s.sec with ide := mapIf mine (fun x => { x with active := some keyset }) s.sec.ide } }

def execKSetGo (session stream keyset : Nat) (s : State) : Res := .next (doe false (kSetActive session stream keyset) s)

/-- K_SET_STOP ends a stream. -/
def kSetEnd (session stream keyset : Nat) (s : State) : State :=
  let mine := fun (x : IdeStream) => x.stream == stream && x.session == session && x.active == some keyset
  if !ideOk s session stream keyset || !s.sec.ide.any mine then kpAck false s
  else kpAck true { s with sec := { s.sec with ide := s.sec.ide.filter (fun x => !mine x) } }

def execKSetStop (session stream keyset : Nat) (s : State) : Res := .next (doe false (kSetEnd session stream keyset) s)

end Sys2Proof.Machine
end

