-- ==== Sys2Proof/Machine/Regs.lean ====
section
/-! DEFINITION. The register window (R422 to R424, Tables 14.2, 14.3 and 17.3): what every register and window shows, and what a
write of 4 or 8 bytes to one does. Offsets are those of BAR0; an offset that nothing occupies reads as 0 and ignores writes. -/
namespace Sys2Proof.Machine

/-- A register from its fields, each a place and a value. -/
def word64 (l : List (Nat × Nat)) : W64 := BitVec.ofNat 64 (sumN (l.map (fun f => f.2 * 2 ^ f.1)))

/-- The index of a register of an array at `base` with `n` entries `step` bytes apart, and the offset in its entry. -/
def slotIn (o base step n : Nat) : Option (Nat × Nat) :=
  if base ≤ o && o < base + step * n then some ((o - base) / step, (o - base) % step) else none

/-! ### What registers show -/

/-- Word 0 and word 1 of a ring (Table 14.6). -/
def ringWord0 (r : Ring) : W64 := word64 [(0, b2n r.en), (1, r.logn), (12, r.base)]
def ringWord1 (r : Ring) (drops : Nat) : W64 :=
  word64 [(0, r.vec), (8, b2n r.ien), (16, r.cnt), (24, r.delay), (32, r.head), (44, r.tail), (56, b2n r.phase), (57, drops)]
def sqWord1 (r : Ring) : W64 := word64 [(0, r.head), (16, r.tail)]

/-- MAP bits of 64 logical tiles. -/
def tileMap (s : State) (k : Nat) : W64 := word64 ((List.range 64).map (fun i => (i, b2n (s.tileThere (64 * k + i)))))

def readPci (s : State) (o : Nat) : W64 :=
  if o == 0 then word64 [(0, Config.deviceId s.build), (16, Config.revisionId), (24, b2n (s.build == .s))]
  else if o == 8 then word64 [(0, Config.llayers s.build), (4, Config.mlayers s.build), (8, Config.hbmStacks s.build), (12, Config.ports s.build),
    (16, ((List.range 256).filter (fun t => s.tileThere t)).length)]
  else if 0x10 ≤ o && o < 0x30 then tileMap s ((o - 0x10) / 8)
  else if o == 0x30 then word64 [(0, s.host.rate), (3, s.host.width), (8, b2n s.host.flit), (9, b2n s.host.degraded)]
  else if o == 0x38 then word64 [(0, b2n s.host.hwinEn), (42, s.host.hwinBase)]
  else if o == 0x40 then word64 [(36, s.host.bar2Base)]
  else if o == 0x80 then ringWord0 s.host.eq
  else if o == 0x88 then ringWord1 s.host.eq s.host.eqDrops
  else match slotIn o 0x100 0x10 4 with
    | some (k, 0) => ringWord0 (s.dma k).ring
    | some (k, _) => ringWord1 (s.dma k).ring 0
    | none => 0

def readSpl (s : State) (o : Nat) : W64 :=
  if o == 0x1080 then word64 ((List.range 11).flatMap (fun f => [(f, b2n (s.split f).act), (16 + f, b2n (s.split f).pend)]))
  else match slotIn o 0x1000 8 11 with
    | some (f, _) => let p := s.split f; word64 [(0, b2n p.req), (1, b2n p.act), (2, b2n p.pend), (3, b2n p.refused), (16, p.status.toNat)]
    | none => 0

def readTmb (s : State) (o : Nat) : W64 :=
  if o == 0x2000 then s.time.tmb
  else if o == 0x2008 then word64 [(0, b2n s.time.aligned), (1, b2n s.time.root), (2, s.time.parent), (14, b2n s.time.stepped),
    (16, patternOf 16 (max (-32768) (min 32767 s.time.offset)))]
  else 0

/-- A 32-bit word of the MSI-X table; the mask bit of a vector resets to 1. -/
def msixWord (s : State) (k : Nat) : W32 := mget (if k % 4 == 3 then 1 else 0) s.host.msix k
def readMsix (s : State) (o : Nat) : W64 :=
  match slotIn o 0x200000 8 512, slotIn o 0x201000 8 4 with
  | some (k, _), _ => word64 [(0, (msixWord s (2 * k)).toNat), (32, (msixWord s (2 * k + 1)).toNat)]
  | _, some (k, _) => word64 ((nub (s.host.pba.filter (fun v => v / 64 == k))).map (fun v => (v % 64, 1)))
  | _, _ => 0

def readReel (s : State) (n x : Nat) : W64 :=
  let R := s.reel n
  match x with
  | 0x00 => ringWord0 R.sq0
  | 0x08 => sqWord1 R.sq0
  | 0x10 => ringWord0 R.sq1
  | 0x18 => sqWord1 R.sq1
  | 0x20 => ringWord0 R.cq
  | 0x28 => ringWord1 R.cq 0
  | _ => 0

def reelCtl (R : Reel) : W64 :=
  word64 [(0, R.state), (4, b2n R.openPend), (5, R.allot), (10, (R.seqs.filter (fun q => !q.2.ended)).length)]
def floorReg (s : State) : W64 :=
  word64 [(0, s.floor.req), (2, s.floor.adm), (4, s.heldFloor), (6, b2n s.floor.pend), (7, b2n s.floor.refused), (8, s.admitted.length)]

def readDir (s : State) (o : Nat) : W64 :=
  match slotIn o 0x300000 0x100 16, slotIn o 0x301000 8 16, slotIn o 0x301100 8 16, slotIn o 0x301200 8 16 with
  | some (n, x), _, _, _ => readReel s n x
  | _, some (n, _), _, _ => reelCtl (s.reel n)
  | _, _, some (n, _), _ => (s.reel n).seed
  | _, _, _, some (n, _) => let R := s.reel n; word64 [(0, b2n R.aqEn), (1, R.aqLimit), (25, R.aqUsed), (49, b2n R.qrej)]
  | _, _, _, _ =>
    if o == 0x302000 then floorReg s
    else if o == 0x302008 then word64 [(0, s.bank.updPc.toNat), (52, s.bank.updThreads), (63, b2n s.bank.updValid)]
    else match slotIn o 0x304000 0x40 16, slotIn o 0x304400 0x40 16 with
      | some (n, x), _ => if x < 40 then mget 0 (s.reel n).cnt (x / 8) else 0
      | _, some (n, x) => if x < 40 then mget 0 (s.reel n).cntF (x / 8) else 0
      | _, _ => 0

/-- The 32 bits of GRP_RT_d (Table 10.7). -/
def rtBits (e : Rt) : Nat := b2n e.v + e.port * 2 + e.alt * 32 + b2n e.av * 2 ^ 9 + e.hops * 2 ^ 10 + b2n e.dn * 2 ^ 14 + b2n e.hw * 2 ^ 15

def readGrp (s : State) (o : Nat) : W64 :=
  if o == 0x400000 then word64 [(0, s.links.board), (9, b2n s.links.idValid), (10, s.links.devid), (22, b2n s.links.claimed), (23, b2n s.links.conflict)]
  else if o == 0x400008 then word64 [(0, s.links.reqTmo), (10, s.links.collTmo)]
  else match slotIn o 0x400100 0x10 16, slotIn o 0x404000 8 2048 with
    | some (g, 0), _ => let x := s.group g; word64 [(0, x.mlist.toNat), (53, b2n x.valid), (54, b2n x.pend)]
    | some (g, _), _ => let x := s.group g; word64 [(0, x.mcount), (13, x.bound)]
    | _, some (d, _) => word64 [(0, rtBits (s.route (2 * d))), (32, rtBits (s.route (2 * d + 1)))]
    | _, _ => 0

def mirWord (m : Mirror) : W64 :=
  word64 [(0, b2n m.en), (1, m.partner), (13, m.tgrp), (17, m.st), (19, b2n m.refused), (20, m.step)]
def pmirWord (p : PMirror) : W64 :=
  word64 [(0, b2n p.arm), (1, p.primary), (13, b2n p.auto), (15, p.st), (18, p.reel), (22, p.step)]

def readCon (s : State) (o : Nat) : W64 :=
  match slotIn o 0x500000 8 16, slotIn o 0x500080 8 16, slotIn o 0x500100 0x10 16, slotIn o 0x5F0000 8 8192 with
  | some (n, _), _, _, _ => mirWord (s.mir n)
  | _, some (n, _), _, _ => word64 [(0, (s.mir n).list.toNat), (52, (s.mir n).count)]
  | _, _, some (k, 0), _ => pmirWord (s.pmir k)
  | _, _, some (k, _), _ => word64 [(0, (s.pmir k).size), (28, (s.pmir k).base)]
  | _, _, _, some (k, _) => mget 0 s.pairs.mlistWin k
  | _, _, _, _ =>
    match o with
    | 0x500200 => s.pairs.expDesc
    | 0x500208 => word64 [(1, b2n s.pairs.expBusy), (16, s.pairs.expStatus.toNat)]
    | 0x500210 => word64 [(0, s.rep.tspTile), (9, b2n s.rep.tspBusy), (10, b2n s.rep.tspRetiring), (16, s.rep.tspStatus.toNat)]
    | 0x500218 => word64 [(1, b2n s.rep.fwBusy), (2, s.rep.fwActive), (3, b2n s.rep.fwVerified), (4, b2n s.rep.fwJpend),
        (16, s.rep.fwStatus.toNat), (32, s.rep.fwLimit)]
    | _ => 0

/-- A temperature field of GAF_TSTAT. -/
def temp12 (t : Int) : Nat := patternOf 12 (max (-2048) (min 2047 t))

def domWord (d : Dom) : W64 := word64 [(2, d.st), (4, b2n d.pendOn), (5, b2n d.pendOff), (6, b2n d.evt), (16, d.status.toNat)]
def suspectWord (s : State) (k : Nat) : W64 := word64 ((nub (s.pow.suspect.filter (fun i => i / 64 == k))).map (fun i => (i % 64, 1)))

def readGaf (s : State) (o : Nat) : W64 :=
  let p := s.pow
  match o with
  | 0x600000 => word64 [(0, p.cap), (16, p.urgentCap), (32, p.board), (48, p.inforce)]
  | 0x600008 => word64 [(0, p.op), (2, p.target), (4, s.heldFloor), (6, b2n p.comp), (7, b2n p.thr), (8, b2n p.capx), (9, b2n p.avsf),
      (10, p.duty), (15, p.varrMv)]
  | 0x600010 => word64 ((0, p.map.toNat) :: (List.range 16).map (fun n => (16 + 3 * n, (s.reel n).phase)))
  | 0x600018 => word64 [(0, b2n p.foleyEn), (1, b2n (s.tiles.any (fun T => T.2.foley))), (32, Nat.min p.foleyJ (2 ^ 32 - 1))]
  | 0x600020 => word64 [(0, temp12 p.tg), (12, temp12 p.tmodel), (24, temp12 p.tsens), (36, b2n p.warn), (37, b2n p.thr), (38, b2n p.shut),
      (39, b2n s.pins.legacy), (40, b2n (!p.winQ.isEmpty))]
  | 0x600028 => suspectWord s 0
  | 0x600030 => suspectWord s 1
  | 0x600038 => word64 [(0, b2n p.tcoefValid)]
  | 0x600040 => word64 [(0, s.start.rstKind), (4, b2n s.start.rstBusy), (8, s.start.rstTarget), (16, s.start.rstStatus.toNat)]
  | 0x600048 => word64 [(0, p.eqh), (32, p.poh)]
  | 0x600F00 => word64 [(0, b2n s.pins.legacy), (1, s.pins.bpos), (4, s.pins.pair), (8, b2n s.pins.tripIn), (9, b2n s.pins.plim), (10, b2n s.pins.plimSeen)]
  | _ => match slotIn o 0x600100 8 97, slotIn o 0x601000 8 (coefCount s.build / 2) with
    | some (n, _), _ => if domThere s.build n then domWord (s.dom n) else 0
    | _, some (k, _) => word64 [(0, (mget 0 p.tcoef (2 * k)).toNat), (32, (mget 0 p.tcoef (2 * k + 1)).toNat)]
    | _, _ => 0

/-- The 8 bytes of a byte window at an offset. -/
def windowWord (m : SMap Byte) (x : Nat) : W64 := BitVec.ofNat 64 (leNat ((List.range 8).map (fun k => mget 0 m (x + k))))

/-- The control block of the start journal (Table 16.4), and its plan and ring (Table 16.3). -/
def journalWord (s : State) (x : Nat) : W64 :=
  let st := s.start
  if x == 0 then word64 [(0, b2n st.altmode), (1, st.slot), (2, b2n st.planv), (32, st.takes)]
  else if x == 8 then word64 ((List.range 12).flatMap (fun n => let c := mget (0, 0) st.counts n; [(4 * n, c.1), (4 * n + 2, c.2)]))
  else if x == 0x10 then word64 ((List.range 12).map (fun n => (2 * n, mget 0 st.sel n)))
  else if x == 0x18 then word64 [(0, st.next)]
  else if x == 0x40 || x == 0x48 then windowWord st.plan (x - 0x40)
  else match slotIn x 0x100 32 4088 with
    | some (k, y) => match mfind st.ring k with
      | some r => r.words.getD (y / 8) 0
      | none => 0
    | none => 0

/-- A journal write waits for the writing window (Table 16.6). -/
def journalWaits (s : State) : Bool :=
  s.pow.winQ.any (fun w => match w with
    | .journal => true
    | .clrsel => true
    | .altmode _ => true
    | .plan _ _ => true
    | .fwslot _ => true
    | _ => false)

def readSpr (s : State) (o : Nat) : W64 :=
  let c := s.sec
  match o with
  | 0x700000 => word64 [(0, c.lc), (3, c.next), (6, c.slot), (9, c.lcOp), (14, b2n c.lcBusy), (16, c.lcStatus.toNat)]
  | 0x700008 => word64 [(0, c.minSvn)]
  | 0x700010 => c.imgSrc
  | 0x700018 => word64 [(1, b2n (c.imgBusy || c.imgWait)), (16, c.imgStatus.toNat)]
  | 0x700020 => word64 [(0, s.rep.nextSeq % 2 ^ 32), (32, (s.rep.hlog.filter (fun r => r.perm)).length), (45, s.rep.staged.length),
      (54, s.rep.drops), (62, b2n s.rep.pfull)]
  | 0x700028 => word64 [(0, b2n (s.start.phase == .safe)), (1, s.start.stage), (7, b2n (journalWaits s)),
      (16, (if s.start.jstatus == stOk && journalWaits s then stWindowWait else s.start.jstatus).toNat), (32, s.start.takeNo)]
  | _ => match slotIn o 0x760000 0x20000 1, slotIn o 0x780000 32 4096, slotIn o 0x7A0000 32 256 with
    | some (_, x), _, _ => journalWord s x
    | _, some (k, y), _ => ((s.rep.hlog[k]?).map (fun r => r.words.getD (y / 8) 0)).getD 0
    | _, _, some (k, y) => ((s.rep.staged[k]?).map (fun r => r.words.getD (y / 8) 0)).getD 0
    | _, _, _ => match slotIn o 0x7C0000 0x8000 1, slotIn o 0x7E0000 0x10000 1 with
      | some (_, x), _ => windowWord c.tokWin x
      | _, some (_, x) => windowWord c.certWin x
      | _, _ => 0

def readMem (s : State) (o : Nat) : W64 :=
  match o with
  | 0x800000 => word64 [(0, s.cache.quarters.toNat), (20, b2n s.cache.qpend.isSome)]
  | 0x800008 => word64 [(0, Config.hbmTop s.build)]
  | 0x800010 => word64 [(0, s.rep.rsvRows), (12, s.rep.retired.length), (16, b2n s.rep.retiring.isSome), (32, s.rep.rsvStatus.toNat)]
  | 0x800018 => word64 [(0, s.xl.tmo), (16, s.xl.root)]
  | 0x800020 => word64 [(0, s.xl.pkey.toNat)]
  | 0x800028 => word64 [(0, s.xl.op), (2, s.xl.size), (5, b2n s.xl.busy), (16, s.xl.status.toNat)]
  | 0x800030 => s.xl.addr
  | 0x800038 => s.xl.arg
  | 0x800040 => word64 [(0, s.cache.copOp), (4, b2n s.cache.copBusy), (5, b2n s.cache.copEvt), (16, s.cache.copN), (32, s.cache.copStatus.toNat)]
  | 0x800048 => s.cache.copAddr
  | 0x800050 => word64 [(0, s.rep.rprOp), (3, b2n s.rep.rprBusy), (16, s.rep.rprStatus.toNat)]
  | 0x800058 => s.rep.rprAddr
  | _ => 0

def portWord (p : Port) : W64 :=
  word64 [(0, p.st), (2, p.peer), (14, p.peerPort), (18, b2n p.peerV), (19, p.spare), (23, b2n p.loss), (32, Nat.min p.retry 0xFFFF)]
def readLnk (s : State) (o : Nat) : W64 :=
  match slotIn o 0xA00000 0x100 (Config.ports s.build) with
  | some (n, 0) => portWord (s.port n)
  | _ => 0

def tollWord (x : Group) : W64 :=
  word64 [(0, b2n x.src), (1, b2n x.nrmEn), (2, b2n x.busy), (3, b2n x.last), (4, x.step), (32, x.nb.toNat)]
def readBke (s : State) (o : Nat) : W64 :=
  match slotIn o 0xB00000 0x10 16 with
  | some (g, 0) => tollWord (s.group g)
  | some (g, _) => word64 [(0, (s.group g).ns.toNat)]
  | none => 0

def readDbg (s : State) (o : Nat) : W64 :=
  let c := s.sec
  let b := s.obs
  match o with
  | 0xC00000 => word64 [(0, c.level), (3, c.req), (9, b2n c.dbgBusy), (10, b2n c.susp), (11, b2n c.debugged), (12, c.maxdbg), (16, c.dbgStatus.toNat)]
  | 0xC00030 => word64 [(0, c.thrTile), (8, c.thrTh), (16, tstate s)]
  | 0xC02000 => word64 [(0, b2n b.cntEn), (2, b2n b.trcEn), (3, b2n b.trcAddr), (4, b2n b.dlyEn), (5, b2n b.armWarm), (16, b.status.toNat)]
  | 0xC02008 => word64 [(0, b.epoch % 65536), (16, b2n b.late), (17, b2n b.nalign), (18, b.pending.length), (22, b.drop), (32, b.ftick)]
  | 0xC02020 => word64 [(0, b2n b.trcDest), (1, b2n b.trcWrap), (12, b.trcBase)]
  | 0xC02028 => word64 [(0, b.trcSize)]
  | 0xC02030 => word64 [(0, b.trcWr), (40, b2n (!s.drained)), (48, b.trcLosses)]
  | 0xC02038 => word64 [(0, b.trcRd)]
  | 0xC02040 => word64 [(0, b.dlyBase), (44, b.dlyGroups), (50, b2n b.dlyWrap)]
  | 0xC02048 => word64 [(0, b.dlyInterval), (20, b.dlySize)]
  | 0xC02050 => word64 [(0, b.dlyNext), (40, b.dlySkip), (56, b2n b.dlyFull), (57, b2n (dlyMay s))]
  | _ => match slotIn o 0xC00008 8 4, slotIn o 0xC10000 0x3000 1, slotIn o 0xC20000 8 140, slotIn o 0xC30000 8 140 with
    | some (k, _), _, _, _ => BitVec.ofNat 64 (c.nonce.toNat >>> (64 * k))
    | _, some (_, x), _, _ => if s.dbgThreads then windowGet s x else 0
    | _, _, some (k, _), _ => if baseThere s.build k then mget 0 b.base k else 0
    | _, _, _, some (k, _) => if baseThere s.build k then mget 0 b.baseF k else 0
    | _, _, _, _ => 0

/-- The registers of a tile's slot (Tables 3.6, 3.9, 5.17, 17.3). -/
def readTil (s : State) (t x : Nat) : W64 :=
  let T := s.tile t
  match x with
  | 0x0000 => T.lrng
  | 0x0008 => T.tblctl
  | 0x0010 => T.runahead
  | _ => match slotIn x 0x8000 8 8, slotIn x 0x8040 8 8, slotIn x 0x8080 8 4, slotIn x 0x8100 8 8, slotIn x 0x8140 8 4 with
    | some (k, _), _, _, _, _ => mget 0 T.pmcSel k
    | _, some (k, _), _, _, _ => mget 0 T.pmc k
    | _, _, some (k, _), _, _ => mget 0 T.fix k
    | _, _, _, some (k, _), _ => mget 0 T.pmcF k
    | _, _, _, _, some (k, _) => mget 0 T.fixF k
    | _, _, _, _, _ => 0

/-- The aligned 8-byte word that the register window shows at an offset. -/
def regRead (s : State) (off : Nat) : W64 :=
  let o := off / 8 * 8
  if o < 0x1000 then readPci s o
  else if o < 0x2000 then readSpl s o
  else if o < 0x100000 then readTmb s o
  else if o < 0x200000 then 0
  else if o < 0x300000 then readMsix s o
  else if o < 0x400000 then readDir s o
  else if o < 0x500000 then readGrp s o
  else if o < 0x600000 then readCon s o
  else if o < 0x700000 then readGaf s o
  else if o < 0x800000 then readSpr s o
  else if o < 0x900000 then readMem s o
  else if o < 0xA00000 then 0
  else if o < 0xB00000 then readLnk s o
  else if o < 0xC00000 then readBke s o
  else if o < 0x1000000 then readDbg s o
  else if o < 0x2000000 then (let t := (o - 0x1000000) / 0x10000; if s.tileThere t then readTil s t (o % 0x10000) else 0)
  else 0

/-- The bytes that the register window shows. -/
def regBytes (s : State) (off n : Nat) : List Byte :=
  (List.range n).map (fun k => BitVec.ofNat 8 ((regRead s (off + k)).toNat >>> (8 * ((off + k) % 8))))

/-! ### Writes -/

/-- A write of 4 or 8 bytes, as what it makes of the 8-byte word: the halves that it contains, and the word with the other
half as it stands. -/
structure RegWr where
  lo : Bool
  hi : Bool
  w : W64
  deriving DecidableEq, Repr

/-- Bits that a written 1 clears, at an offset (Access W1C): they are written as 0 in the half that a write does not contain. -/
def w1cMask (o : Nat) : W64 :=
  if o == 0x88 then word64 [(57, 0x7F)]
  else if (slotIn o 0x301200 8 16).isSome then word64 [(49, 1)]
  else if o == 0x700020 then word64 [(54, 0xFF)]
  else if o == 0xC02030 then word64 [(48, 0xFFFF)]
  else if o == 0xC02050 then word64 [(40, 0x1FFFF)]
  else if (slotIn o 0xB00000 0x10 16).any (fun x => x.2 == 0) then word64 [(0, 1)]
  else 0

def regMerge (s : State) (off size : Nat) (v : W64) : RegWr :=
  let o := off / 8 * 8
  let old := (regRead s o) &&& ~~~ (w1cMask o)
  if size == 8 then ⟨true, true, v⟩
  else if off % 8 == 0 then ⟨true, false, word64 [(0, bitsOf v 31 0), (32, bitsOf old 63 32)]⟩
  else ⟨false, true, word64 [(0, bitsOf old 31 0), (32, bitsOf v 31 0)]⟩

def State.modHost (s : State) (f : HostIf → HostIf) : State := { s with host := f s.host }

def writePci (o : Nat) (x : RegWr) (s : State) : State :=
  if o == 0x38 then s.modHost (fun h => { h with hwinEn := bitOf x.w 0, hwinBase := bitsOf x.w 63 42 })
  else if o == 0x40 then s.modHost (fun h => { h with bar2Base := bitsOf x.w 43 36 })
  else if o == 0x80 then ringEnable .eq x.w s
  else if o == 0x88 then ringSignal .eq x.w s
  else match slotIn o 0x100 0x10 4 with
    | some (k, 0) => ringEnable (.dma k) x.w s
    | some (k, _) => ringSignal (.dma k) x.w s
    | none => s

def writeSpl (o : Nat) (x : RegWr) (s : State) : State :=
  match slotIn o 0x1000 8 11 with
  | some (f, _) => if x.lo then splitWrite f x.w s else s
  | none => s

def writeTmb (o : Nat) (x : RegWr) (s : State) : State :=
  if o == 0x2008 && x.lo && bitOf x.w 14 then { s with time := { s.time with stepped := false } } else s

/-- Doorbells (Table 14.7): the half with the index must be written. -/
def writeBell (o : Nat) (x : RegWr) (s : State) : State :=
  if !x.lo then s
  else if o == 0x110000 then doorbell .eq x.w setHead (fun s => mlistGo (eqOverflow s)) s
  else match slotIn o 0x100000 0x1000 16, slotIn o 0x111000 8 4 with
    | some (n, 0), _ => doorbell (.sq n 0) x.w setTail id s
    | some (n, 8), _ => doorbell (.sq n 1) x.w setTail id s
    | some (n, 16), _ => doorbell (.cq n) x.w setHead id s
    | _, some (k, _) => doorbell (.dma k) x.w setTail id s
    | _, _ => s

/-- A write of the MSI-X table: a vector that is masked no longer sends the message that waited (R436). -/
def writeMsix (o : Nat) (x : RegWr) (s : State) : State :=
  match slotIn o 0x200000 8 512 with
  | some (k, _) => msixFlush (s.modHost (fun h => { h with
      msix := mput (mput h.msix (2 * k) (BitVec.ofNat 32 (bitsOf x.w 31 0))) (2 * k + 1) (BitVec.ofNat 32 (bitsOf x.w 63 32)) }))
  | none => s

def writeReel (n y : Nat) (x : RegWr) (s : State) : State :=
  match y with
  | 0x00 => ringEnable (.sq n 0) x.w s
  | 0x10 => ringEnable (.sq n 1) x.w s
  | 0x20 => ringEnable (.cq n) x.w s
  | 0x28 => ringSignal (.cq n) x.w s
  | _ => s

/-- DIR_REEL_AQ_n (Table 9.2). -/
def aqWrite (n : Nat) (w : W64) (s : State) : State :=
  s.modReel n (fun R => { R with aqEn := bitOf w 0, aqLimit := bitsOf w 24 1, qrej := R.qrej && !bitOf w 49 })

def writeDir (o : Nat) (x : RegWr) (s : State) : State :=
  match slotIn o 0x300000 0x100 16, slotIn o 0x301000 8 16, slotIn o 0x301100 8 16, slotIn o 0x301200 8 16 with
  | some (n, y), _, _, _ => writeReel n y x s
  | _, some (n, _), _, _ => if x.lo then reelCtlWrite n x.w s else s
  | _, _, some (n, _), _ => seedWrite n x.w s
  | _, _, _, some (n, _) => aqWrite n x.w s
  | _, _, _, _ =>
    if o == 0x302000 then (if x.lo then floorWrite x.w s else s)
    else if o == 0x302008 then
      { s with bank := { s.bank with updPc := BitVec.ofNat 64 (bitsOf x.w 51 0), updThreads := bitsOf x.w 56 52, updValid := bitOf x.w 63 } }
    else s

/-- A route that host software writes; HW shows the write in A mode (Table 10.7). -/
def rtWrite (d v : Nat) (s : State) : State :=
  s.setRoute d { v := natBits v 0 0 == 1, port := natBits v 4 1, alt := natBits v 8 5, av := natBits v 9 9 == 1, hops := natBits v 13 10,
                 dn := natBits v 14 14 == 1, hw := s.aMode 4 }

def writeGrp (o : Nat) (x : RegWr) (s : State) : State :=
  if o == 0x400000 then (if x.lo then idCfgWrite x.w s else s)
  else if o == 0x400008 then { s with links := { s.links with reqTmo := bitsOf x.w 9 0, collTmo := bitsOf x.w 19 10 } }
  else match slotIn o 0x400100 0x10 16, slotIn o 0x404000 8 2048 with
    | some (g, 0), _ => tollBind g x.w (BitVec.ofNat 13 (s.group g).mcount) s
    | some (g, _), _ => s.modGroup g (fun y => { y with mcount := bitsOf x.w 12 0 })
    | _, some (d, _) =>
      let s1 := if x.lo then rtWrite (2 * d) (bitsOf x.w 31 0) s else s
      wake (if x.hi then rtWrite (2 * d + 1) (bitsOf x.w 63 32) s1 else s1)
    | _, _ => s

def writeCon (o : Nat) (x : RegWr) (s : State) : State :=
  match slotIn o 0x500000 8 16, slotIn o 0x500080 8 16, slotIn o 0x500100 0x10 16 with
  | some (n, _), _, _ => if x.lo then mirWrite n x.w s else s
  | _, some (n, _), _ => s.modMir n (fun m => { m with list := BitVec.ofNat 64 (bitsOf x.w 51 0), count := bitsOf x.w 58 52 })
  | _, _, some (k, 0) => if !x.lo then s else (let s1 := pmirWrite k x.w s; if bitOf x.w 14 then takeBegin k s1 else s1)
  | _, _, some (k, _) => s.modPmir k (fun p => { p with size := bitsOf x.w 27 0, base := bitsOf x.w 55 28 })
  | _, _, _ =>
    match o with
    | 0x500200 => { s with pairs := { s.pairs with expDesc := x.w } }
    | 0x500208 => if x.lo && bitOf x.w 0 then exportGo s else s
    | 0x500210 => if x.lo then tspareWrite x.w s else s
    | 0x500218 => fwWrite x.w s
    | _ => s

/-- A write of GAF_RST_CTL (Table 16.8): a GO while BUSY is ignored; a reserved kind completes with FORM_MISMATCH. -/
def rstWrite (w : W64) (s : State) : State :=
    let target := bitsOf w 15 8
    let s1 := s.modStart (fun x => { x with rstKind := bitsOf w 2 0, rstTarget := target })
    if !bitOf w 3 || s.start.rstBusy then s1
    else match bitsOf w 2 0 with
      | 0 => domainReset target s1
      | 1 => rstGo 1 target (resetTile target) s1
      | 2 => resetReel target s1
      | 3 => rstGo 3 target ioAssertGo s1
      | 4 => rstGo 4 target warmReset s1
      | 5 => rstGo 5 target coldReset s1
      | _ => rstEnd stFormMismatch s1

def writeGaf (o : Nat) (x : RegWr) (s : State) : State :=
  match o with
  | 0x600000 => if x.lo then hostCap x.w s else s
  | 0x600008 => if x.lo then s.modPow (fun p => { p with capx := p.capx && !bitOf x.w 8, avsf := p.avsf && !bitOf x.w 9 }) else s
  | 0x600010 => if x.lo then s.modPow (fun p => { p with map := BitVec.ofNat 16 (bitsOf x.w 15 0) }) else s
  | 0x600018 => if x.lo then s.modPow (fun p => { p with foleyEnDue := some (bitOf x.w 0) }) else s
  | 0x600038 => if x.lo then tcoefWrite (bitOf x.w 0) s else s
  | 0x600040 => if x.lo then rstWrite x.w s else s
  | 0x600F00 => if x.lo && bitOf x.w 10 then { s with pins := { s.pins with plimSeen := false } } else s
  | _ => match slotIn o 0x600100 8 97, slotIn o 0x601000 8 (coefCount s.build / 2) with
    | some (n, _), _ => if x.lo then domWrite n x.w s else s
    | _, some (k, _) => s.modPow (fun p => { p with
        tcoef := mput (mput p.tcoef (2 * k) (BitVec.ofNat 32 (bitsOf x.w 31 0))) (2 * k + 1) (BitVec.ofNat 32 (bitsOf x.w 63 32)) })
    | _, _ => s

/-- A random value of 256 bits that the SP draws (R442, R459): a free value. -/
def freshSecret (s : State) : BitVec 256 × State :=
  (BitVec.ofNat 256 (sumN ((List.range 4).map (fun k => Config.freeIn s.freeCtr k % 2 ^ 64 * 2 ^ (64 * k)))), { s with freeCtr := s.freeCtr + 1 })

/-- A write of SPR_LC (Table 15.3): an OP that Table 15.2 does not have completes with FORM_MISMATCH. -/
def lcWriteReg (w : W64) (s : State) : State :=
    let op := bitsOf w 12 9
    let s1 : State := { s with sec := { s.sec with lcOp := op } }
    if !bitOf w 13 || s.sec.lcBusy then s1
    else match op with
      | 0 => let q := freshSecret s1; lcRequest 0 q.1 q.2
      | 5 => lcCertify s1
      | _ => if op < 5 then lcRequest op 0 s1 else lcEnd stFormMismatch s1

/-- Bytes of a window written by the halves of a word. -/
def windowBytes (m : SMap Byte) (x : Nat) (y : RegWr) : SMap Byte :=
  let m1 := if y.lo then bytePut m x (leBytes 4 (bitsOf y.w 31 0)) else m
  if y.hi then bytePut m1 (x + 4) (leBytes 4 (bitsOf y.w 63 32)) else m1

def writeSpr (o : Nat) (x : RegWr) (s : State) : State :=
  match o with
  | 0x700000 => if x.lo then lcWriteReg x.w s else s
  | 0x700008 => if x.lo && bitOf x.w 7 then svnCommit s else s
  | 0x700010 => { s with sec := { s.sec with imgSrc := BitVec.ofNat 64 (bitsOf x.w 43 0) } }
  | 0x700018 => if x.lo && bitOf x.w 0 then imgGo s else s
  | 0x700020 => if x.hi && bitsOf x.w 61 54 != 0 then { s with rep := { s.rep with drops := 0 } } else s
  | 0x700028 =>
    if !x.lo then s
    else
      let s1 := if bitOf x.w 6 then winRequest .clrsel s else s
      if bitOf x.w 5 then jnlTake s1 else s1
  | _ => match slotIn o 0x760000 0x20000 1, slotIn o 0x7C0000 0x8000 1, slotIn o 0x7E0000 0x10000 1 with
    | some (_, y), _, _ => journalWrite y x.w s
    | _, some (_, y), _ => { s with sec := { s.sec with tokWin := windowBytes s.sec.tokWin y x } }
    | _, _, some (_, y) => { s with sec := { s.sec with certWin := windowBytes s.sec.certWin y x } }
    | _, _, _ => s

/-- A write of MEM_XOP_CTL (Table 7.10). -/
def xopWrite (w : W64) (s : State) : State :=
    let s1 := s.modXl (fun y => { y with op := bitsOf w 1 0, size := bitsOf w 3 2 })
    if !bitOf w 4 then s1
    else match bitsOf w 1 0 with
      | 0 => xopGo 0 (invStart 0 (2 ^ 52)) s1
      | 1 => xopGo 1 invRange s1
      | 2 => xopGo 2 (xopLoad (bitsOf w 3 2)) s1
      | _ => xopGo 3 xopNack s1

/-- A write of MEM_COP_CTL (Table 7.5): a GO while an operation is in progress is ignored. -/
def copWrite (w : W64) (s : State) : State :=
  if bitOf w 3 then copGo (bitsOf w 2 0) (bitsOf w 31 16) (bitOf w 5) s
  else s.modCache (fun c => { c with copOp := bitsOf w 2 0, copEvt := bitOf w 5, copN := bitsOf w 31 16 })

/-- A write of MEM_RPR_CTL (R403): a GO while BUSY is ignored; a reserved OP completes with FORM_MISMATCH. -/
def rprWrite (w : W64) (s : State) : State :=
    let op := bitsOf w 1 0
    let s1 := s.modRep (fun r => { r with rprOp := op })
    if !bitOf w 2 || s.rep.rprBusy then s1
    else match op with
      | 0 => rprGo 0 rprSoft s1
      | 1 => rprGo 1 rprFuse s1
      | 2 => rprGo 2 rprRetire s1
      | _ => rprEnd stFormMismatch s1

def writeMem (o : Nat) (x : RegWr) (s : State) : State :=
  match o with
  | 0x800000 => if x.lo then quartersWrite x.w s else s
  | 0x800010 => if x.lo then rsvWrite x.w s else s
  | 0x800018 => s.modXl (fun y => { y with tmo := bitsOf x.w 9 0, root := bitsOf x.w 43 16 })
  | 0x800020 => if x.lo then s.modXl (fun y => { y with pkey := BitVec.ofNat 32 (bitsOf x.w 31 0) }) else s
  | 0x800028 => if x.lo then xopWrite x.w s else s
  | 0x800030 => s.modXl (fun y => { y with addr := x.w })
  | 0x800038 => s.modXl (fun y => { y with arg := x.w })
  | 0x800040 => if x.lo then copWrite x.w s else s
  | 0x800048 => s.modCache (fun c => { c with copAddr := word64 [(12, bitsOf x.w 55 12)] })
  | 0x800050 => if x.lo then rprWrite x.w s else s
  | 0x800058 => s.modRep (fun r => { r with rprAddr := BitVec.ofNat 64 (bitsOf x.w 43 0) })
  | _ => s

def writeLnk (o : Nat) (x : RegWr) (s : State) : State :=
  match slotIn o 0xA00000 0x100 (Config.ports s.build) with
  | some (n, 0) => if x.lo && bitOf x.w 23 then s.modPort n (fun p => { p with loss := false }) else s
  | _ => s

def writeBke (o : Nat) (x : RegWr) (s : State) : State :=
  match slotIn o 0xB00000 0x10 16 with
  | some (g, 0) => s.modGroup g (fun y => { y with src := y.src && !bitOf x.w 0, nrmEn := bitOf x.w 1, nb := BitVec.ofNat 32 (bitsOf x.w 63 32) })
  | _ => s

/-- A write of DBG_SESS (Table 15.9): REQ, then CHAL, OPEN and CLOSE in the order of their bits. -/
def sessWrite (w : W64) (s : State) : State :=
  let s0 : State := { s with sec := { s.sec with req := bitsOf w 5 3 } }
  let s1 := if bitOf w 6 && !s0.sec.dbgBusy then (let q := freshSecret s0; debugChal q.1 q.2) else s0
  let s2 := if bitOf w 7 then debugOpen (bitsOf w 5 3) s1 else s1
  if bitOf w 8 then debugClose s2 else s2

/-- A write of DBG_THR_CTL (R463). -/
def thrWrite (w : W64) (s : State) : State :=
  if !s.dbgThreads then s
  else
    let t := bitsOf w 7 0
    let n := bitsOf w 12 8
    let s1 := selectThread t n s
    let s2 := if bitOf w 13 then debugHalt t n s1 else s1
    let s3 := if bitOf w 14 then debugStep t n s2 else s2
    if bitOf w 15 then wake (dbgResume t n s3) else s3

def writeDbg (o : Nat) (x : RegWr) (s : State) : State :=
  match o with
  | 0xC00000 => if x.lo then sessWrite x.w s else s
  | 0xC00030 => if x.lo then thrWrite x.w s else s
  | 0xC02000 => if x.lo then obsWrite x.w s else s
  | 0xC02008 => if x.lo then s.modObs (fun b => { b with
      late := b.late && !bitOf x.w 16, nalign := b.nalign && !bitOf x.w 17, drop := if bitsOf x.w 29 22 != 0 then 0 else b.drop }) else s
  | 0xC02010 => freezeAt x.w.toNat (clapFlood x.w 0 none s)
  | 0xC02020 => if s.obs.trcEn then s else s.modObs (fun b => { b with trcDest := bitOf x.w 0, trcWrap := bitOf x.w 1, trcBase := bitsOf x.w (if bitOf x.w 0 then 63 else 43) 12 })
  | 0xC02028 => if s.obs.trcEn then s else s.modObs (fun b => { b with trcSize := bitsOf x.w 27 0 })
  | 0xC02030 => if x.hi then s.modObs (fun b => { b with trcLosses := clearBits b.trcLosses (bitsOf x.w 63 48) }) else s
  | 0xC02038 => s.modObs (fun b => { b with trcRd := bitsOf x.w 39 0 })
  | 0xC02040 => s.modObs (fun b => { b with dlyBase := bitsOf x.w 43 0, dlyGroups := bitsOf x.w 49 44, dlyWrap := bitOf x.w 50 })
  | 0xC02048 => s.modObs (fun b => { b with dlyInterval := bitsOf x.w 19 0, dlySize := bitsOf x.w 47 20 })
  | 0xC02050 => s.modObs (fun b => { b with
      dlySkip := clearBits b.dlySkip (bitsOf x.w 55 40), dlyFull := b.dlyFull && !bitOf x.w 56 })
  | _ => match slotIn o 0xC10000 0x3000 1 with
    | some (_, y) => threadWrite y x.w s
    | none => s

def writeTil (t y : Nat) (x : RegWr) (s : State) : State :=
  match y with
  | 0x0000 => if x.lo && bitOf x.w 0 then s.modTile t (fun T => { T with lrValid := false }) else s
  | 0x0008 => if x.lo then wake (s.modTile t (fun T => T.writeTblctl x.w)) else s
  | 0x0010 => if x.lo then writeRunahead t x.w s else s
  | _ => match slotIn y 0x8000 8 8 with
    | some (k, _) => if x.lo then s.modTile t (fun T => { T with pmcSel := mput T.pmcSel k (BitVec.ofNat 64 (bitsOf x.w 10 0)) }) else s
    | none => s

/-- A write of 4 or 8 bytes, aligned, to the register window. -/
def regWrite (off size : Nat) (v : W64) (s : State) : State :=
  let o := off / 8 * 8
  let x := regMerge s off size v
  if o < 0x1000 then writePci o x s
  else if o < 0x2000 then writeSpl o x s
  else if o < 0x100000 then writeTmb o x s
  else if o < 0x200000 then writeBell o x s
  else if o < 0x300000 then writeMsix o x s
  else if o < 0x400000 then writeDir o x s
  else if o < 0x500000 then writeGrp o x s
  else if o < 0x600000 then writeCon o x s
  else if o < 0x700000 then writeGaf o x s
  else if o < 0x800000 then writeSpr o x s
  else if o < 0x900000 then writeMem o x s
  else if o < 0xA00000 then s
  else if o < 0xB00000 then writeLnk o x s
  else if o < 0xC00000 then writeBke o x s
  else if o < 0x1000000 then writeDbg o x s
  else if o < 0x2000000 then (let t := (o - 0x1000000) / 0x10000; if s.tileThere t then writeTil t (o % 0x10000) x s else s)
  else s

/-! ### BAR0 (R422, R478) -/

/-- Offsets that BAR0 serves in SAFE (R478). -/
def safeServes (o : Nat) : Bool :=
  o < 0x10 || (0x30 ≤ o && o < 0x38) || (0x1000 ≤ o && o < 0x1088) || (0x700000 ≤ o && o < 0x700030) || (0x760000 ≤ o && o < 0x7A2000) ||
  (0x7C0000 ≤ o && o < 0x7C8000) || (0x7E0000 ≤ o && o < 0x7F0000)

/-- A BAR0 request is a naturally aligned access of 4 or 8 bytes inside the 256 MiB. -/
def bar0Ok (off size : Nat) : Bool := (size == 4 || size == 8) && off % size == 0 && off + size ≤ 2 ^ 28

/-- A BAR0 write of 4 or 8 bytes; any other ends with Unsupported Request. -/
def execRegisterWrite (off size : Nat) (v : W64) (s : State) : Res :=
  .next (if !bar0Ok off size then unsupported s
    else if s.start.phase == .safe && !safeServes off then s
    else regWrite off size v s)

end Sys2Proof.Machine
end

