-- ==== Sys2Proof/Machine/Board.lean ====
section
/-! DEFINITION. The board controller's MCTP commands over I3C (R525, Table 18.10), the I3C address (R525) and the test access port
(R526). -/
namespace Sys2Proof.Machine

/-! ### MCTP -/

/-- The target answers while VAO is in range; every response carries a status code. -/
def mctpDo (st : Status) (data : List Byte) (k : State → State) (s : State) : State :=
  if s.start.phase == .off then s else (k s).send (.mctp st data)

def execSetBoardCap (watts : BitVec 16) (s : State) : Res :=
  .next (mctpDo stOk [] (fun s => s.modPow (fun p => { p with board := watts.toNat, boardDue := true })) s)

/-- The A-mode cap table is eight caps; a request of another length breaks the form of Table 18.10. -/
def execSetPhaseCaps (caps : List (BitVec 16)) (s : State) : Res :=
  .next (if caps.length != 8 then mctpDo stFormMismatch [] id s
    else mctpDo stOk [] (fun s => s.modPow (fun p => { p with phaseCaps := some (caps.map (fun c => c.toNat)), phaseDue := true })) s)

def execRailPower (mw : W32) (s : State) : Res := .next (mctpDo stOk [] (fun s => s.modPow (fun p => { p with railMw := some mw.toNat })) s)

def execInletTemp (code : BitVec 16) (s : State) : Res :=
  .next (mctpDo stOk [] (fun s => s.modPow (fun p => { p with inlet := code.toInt })) s)

/-- No INLET_TEMP for 10 s: the inlet is taken as 40 degrees C. -/
def execInletTempTimeout (s : State) : Res := .next (s.modPow (fun p => { p with inlet := 160 }))

/-- RESET starts a warm (4) or a cold (5) reset; another KIND is not one of the command's. -/
def execMctpReset (kind : Nat) (s : State) : Res :=
  .next (if kind == 5 then mctpDo stOk [] (rstGo 5 s.start.rstTarget coldReset) s
    else if kind == 4 then mctpDo stOk [] (rstGo 4 s.start.rstTarget warmReset) s
    else mctpDo stFormMismatch [] id s)

/-- Off-with-always-on is requested; the state follows once no cue is admitted (R464). -/
def execPowerOff (s : State) : Res := .next (mctpDo stOk [] (fun s => { s with sec := { s.sec with offPend := true } }) s)

/-- READ returns what BAR0 shows at an offset, in SAFE from the offsets of R478 alone. -/
def readBar0 (s : State) (off n : Nat) : List Byte :=
  (List.range n).map (fun k => if s.start.phase == .safe && !safeServes (off + k) then 0 else (regBytes s (off + k) 1).getD 0 0)

def execMctpRead (off len : Nat) (s : State) : Res :=
  .next (if len < 8 || len > 64 || off + len > 2 ^ 28 then mctpDo stFormMismatch [] id s else mctpDo stOk (readBar0 s off len) id s)

def execMctpUnknownCommand (code : Byte) (s : State) : Res :=
  .next (if 1 ≤ code.toNat && code.toNat ≤ 7 then s else mctpDo stIllegalOp [] id s)

/-- SETDASA: the static address is 0x30 + BOARD_POS. -/
def execSetdasa (static dyn : BitVec 7) (s : State) : Res :=
  .next (if s.start.phase == .off || static.toNat != 0x30 + s.pins.bpos then s
    else { s with pins := { s.pins with i3c := some dyn.toNat } }.send (.i3cAck static.toNat))

/-! ### The test access port -/

/-- The instructions of the port, as jtagIr holds them. -/
def irBypass : Nat := 0
def irIdcode : Nat := 1
def irSample : Nat := 2
def irExtest : Nat := 3
def irClamp : Nat := 4
def irHighz : Nat := 5

def State.modPins (s : State) (f : Pins → Pins) : State := { s with pins := f s.pins }

/-- BYPASS places one register bit, which captures 0, between TDI and TDO; the pins belong to the device. -/
def bypass (s : State) : State := (s.modPins (fun p => { p with jtagIr := irBypass, jtagMode := 0 })).send (.tdo 0)

/-- The identification code (R526): version 1 for B0, the PCIe Device ID, the manufacturer identity, 1. -/
def idcode (s : State) : W32 :=
  BitVec.ofNat 32 (1 + 2 * (Config.manufacturer % 2 ^ 11) + Config.deviceId s.build * 2 ^ 12 + 2 ^ 28)

/-- What SAMPLE captures of the chain: the strap, sideband and management lands in an order that the manual leaves open. -/
def sampleLands (s : State) : State × W32 := let q := s.fresh; (q.2, BitVec.ofNat 32 q.1)

def execJtagBypass (s : State) : Res := .next (bypass s)
def execJtagIdcode (s : State) : Res := .next ((s.modPins (fun p => { p with jtagIr := irIdcode, jtagMode := 0 })).send (.tdo (idcode s)))

/-- The lands are captured and shifted out while the preload value is shifted in. -/
def execJtagSamplePreload (v : W32) (s : State) : Res :=
  .next (let q := sampleLands s
    (q.1.modPins (fun p => { p with jtagIr := irSample, jtagMode := 0, jtagBsr := v })).send (.tdo q.2))

/-- EXTEST drives the lands from the boundary register, CLAMP too with the bypass bit selected, HIGHZ releases them: only while
PERST# is asserted, and otherwise as BYPASS. -/
def execJtagExtest (s : State) : Res :=
  .next (if !s.start.perst then bypass s
    else let q := sampleLands s; (q.1.modPins (fun p => { p with jtagIr := irExtest, jtagMode := 1 })).send (.tdo q.2))
def execJtagClamp (s : State) : Res :=
  .next (if !s.start.perst then bypass s else (s.modPins (fun p => { p with jtagIr := irClamp, jtagMode := 1 })).send (.tdo 0))
def execJtagHighz (s : State) : Res :=
  .next (if !s.start.perst then bypass s else (s.modPins (fun p => { p with jtagIr := irHighz, jtagMode := 2 })).send (.tdo 0))

end Sys2Proof.Machine
end

