-- ==== Sys2Proof/Machine/CoreMem.lean ====
section
/-! DEFINITION. Scalar loads and stores, and SEM, of both profiles (R158, R181, R183): a tile thread's access goes through translation,
a core's to the 44-bit local physical map (R191, R193). -/
namespace Sys2Proof.Machine

/-- Address of a core's LDX or STX. -/
def coreAddr (k : Core) (f : SForm) : Nat := (k.sreg f.ra.toNat + offsetOf f).toNat

/-- Why a core's access to n bytes of the local map cannot be made (R191): the address, the level, and in the register window an
access that is not an aligned one of 4 or 8 bytes, which completes with MISALIGNED (DESIGN CHOICE, log 60). -/
def coreStatus (s : State) (k : Core) (a n : Nat) (sem : Bool) : Status :=
  if a + n > 2 ^ 44 || winOf a == .none || winOf (a + n - 1) == .none then stPermFault
  else if winOf a == .reg then
    (if k.priv == 0 then stPrivFault else if sem then stPermFault else if !bar0Ok (a - regBase) n then stMisaligned else stOk)
  else if winOf a == .host then (if sem then stPermFault else if !s.hostOpen then stHostAbort else stOk)
  else if s.inRoll a || s.inRoll (a + n - 1) then stPermFault
  else if !s.populated a || !s.populated (a + n - 1) then stNoTarget
  else stOk

/-- The home of a core's access serves it now; until then the core waits. -/
def coreWaits (s : State) (a n : Nat) : Bool := winOf a != .reg && winOf a != .host && bar2Waits s a n

/-- A core's load: its value reaches RD, zero-extended; from the host window it waits for the host. -/
def coreLoad (f : SForm) (n : Nat) (p c : Nat) (s : State) : State :=
  let k := s.core p c
  let a := coreAddr k f
  let st := coreStatus s k a n false
  let rd := fun (s : State) (bs : List Byte) => finishC p c f.x (fun k => k.setS f.rd.toNat (BitVec.ofNat 64 (leNat bs))) s
  if st != stOk then exception p c st s
  else if winOf a == .reg then rd s (regBytes s (a - regBase) n)
  else if winOf a == .host then ((farRead (s.fabric a) n (.core p c f.rd.toNat n (lenOf f.x)) s).1).modCore p c (fun k => { k with busy := true })
  else if coreWaits s a n then s
  else
    let q := homeRead a n s
    if q.2.poisoned a n then exception p c stUncorrectable q.2 else rd q.2 q.1

/-- A core's write of the register window: no control processor writes a mode field (R44), so of SPL_FN_f only REFUSED takes a
write (DESIGN CHOICE, log 93). -/
def coreRegWrite (off n : Nat) (v : W64) (s : State) : State :=
  match slotIn (off / 8 * 8) 0x1000 8 11 with
  | some (f, _) => if off % 8 == 0 && bitOf v 3 then s.modSplit f (fun p => { p with refused := false }) else s
  | none => regWrite off n v s

/-- A core's store of the low n bytes of RB. -/
def coreStore (f : SForm) (n : Nat) (p c : Nat) (s : State) : State :=
  let k := s.core p c
  let a := coreAddr k f
  let v := k.sreg f.rb.toNat
  let st := coreStatus s k a n false
  if st != stOk then exception p c st s
  else if winOf a == .reg then finishC p c f.x id (coreRegWrite (a - regBase) n v s)
  else if winOf a == .host then finishC p c f.x id (s.send (.write (s.busAddr (s.fabric a)) (leBytes n v.toNat)))
  else if coreWaits s a n then s
  else wake (finishC p c f.x id (homeWrite a 0 (leBytes n v.toNat) (commitFirst a n s)))

/-- A core's SEM: the old value reaches RD; SUB is reserved (R183). A core has no translation, so its accesses allocate no line
(DESIGN CHOICE, log 95). -/
def coreSem (f : SForm) (op : Nat) (p c : Nat) (s : State) : State :=
  let k := s.core p c
  let a := (k.sreg f.ra.toNat).toNat
  if a % 8 != 0 then exception p c stMisaligned s
  else
    let st := coreStatus s k a 8 true
    if st != stOk then exception p c st s
    else if coreWaits s a 8 || s.lineHeld a then s
    else
      let q := semAt 0 a op (opB f k.sreg) (k.sreg f.rc.toNat) (commitFirst a 8 s)
      match q.1 with
      | none => exception p c stUncorrectable q.2
      | some old => wake (finishC p c f.x (fun k => k.setS f.rd.toNat old) q.2)

/-! ### The instructions -/

def execLdxB (w : Who) (f : SForm) (s : State) : Res := both w (.ldxB w f) f.x true (ldxRegs f) (ldxScalarT (.ldxB w f) f 1) (coreLoad f 1) s
def execLdxH (w : Who) (f : SForm) (s : State) : Res := both w (.ldxH w f) f.x true (ldxRegs f) (ldxScalarT (.ldxH w f) f 2) (coreLoad f 2) s
def execLdxW (w : Who) (f : SForm) (s : State) : Res := both w (.ldxW w f) f.x true (ldxRegs f) (ldxScalarT (.ldxW w f) f 4) (coreLoad f 4) s
def execLdxL (w : Who) (f : SForm) (s : State) : Res := both w (.ldxL w f) f.x true (ldxRegs f) (ldxScalarT (.ldxL w f) f 8) (coreLoad f 8) s
def execStxB (w : Who) (f : SForm) (s : State) : Res := both w (.stxB w f) f.x true (stxRegs f) (stxScalarT (.stxB w f) f 1) (coreStore f 1) s
def execStxH (w : Who) (f : SForm) (s : State) : Res := both w (.stxH w f) f.x true (stxRegs f) (stxScalarT (.stxH w f) f 2) (coreStore f 2) s
def execStxW (w : Who) (f : SForm) (s : State) : Res := both w (.stxW w f) f.x true (stxRegs f) (stxScalarT (.stxW w f) f 4) (coreStore f 4) s
def execStxL (w : Who) (f : SForm) (s : State) : Res := both w (.stxL w f) f.x true (stxRegs f) (stxScalarT (.stxL w f) f 8) (coreStore f 8) s
def execSemAdd (w : Who) (f : SForm) (s : State) : Res := both w (.semAdd w f) f.x (longImmOk f) (semRegs f) (semT (.semAdd w f) f 0) (coreSem f 0) s
def execSemSwap (w : Who) (f : SForm) (s : State) : Res := both w (.semSwap w f) f.x (longImmOk f) (semRegs f) (semT (.semSwap w f) f 1) (coreSem f 1) s
def execSemCas (w : Who) (f : SForm) (s : State) : Res := both w (.semCas w f) f.x (longImmOk f) (semRegs f) (semT (.semCas w f) f 2) (coreSem f 2) s
def execSemRead (w : Who) (f : SForm) (s : State) : Res := both w (.semRead w f) f.x (longImmOk f) (semRegs f) (semT (.semRead w f) f 3) (coreSem f 3) s

end Sys2Proof.Machine
end

