-- ==== Sys2Proof/Machine/Receive.lean ====
section
/-! DEFINITION. What comes in at a port: flits, their acknowledgement and replay, the messages that they carry, and the counts of IDLE flits
(R289 to R294, R303, R370, R371). -/
namespace Sys2Proof.Machine

/-! ### Acknowledgement, replay and credits (R291, R292) -/

/-- The port sends an IDLE flit, with the current acknowledgement, a credit, and the port's three counts (R370). -/
def sendIdle (n : Nat) (nak : Bool) (s : State) : State :=
  let p := s.port n
  let c := owedCredit p
  let counts := leBytes 8 s.time.tmb.toNat ++ leBytes 8 p.txEcho.toNat ++ leBytes 8 p.rxCount.toNat
  let f : Flit := { kind := 1, ack := p.rxSeq, nak, crv := c.1, crn := c.2, slots := counts ++ List.replicate 216 0 }
  let s1 : State := { s with links := { s.links with idle := s.links.idle ++ [(n, s.time.tmb, p.txEcho, p.rxCount)] } }
  (emitFlits n [f] s1).modPort n (fun p => { p with owed := p.owed.set c.1 (p.owed.getD c.1 0 - c.2) })

/-- The acknowledgement of a valid flit, and its request for a replay; flits that 8 replays leave unacknowledged make the port retrain. -/
def flitAcked (n : Nat) (f : Flit) (s : State) : State :=
  let p := s.port n
  let keep := p.replay.dropWhile (fun g => (f.ack + 4096 - g.seq) % 4096 < 2048)
  let s1 := s.modPort n (fun p => { p with replay := keep, replays := if keep.length < p.replay.length then 0 else p.replays })
  if !f.nak || keep.isEmpty then s1
  else if (s1.port n).replays ≥ 8 then retrain n s1
  else (replayAll n s1).modPort n (fun p => { p with replays := p.replays + 1 })

/-- The credits that a flit returns. -/
def takeCredit (n : Nat) (f : Flit) (s : State) : State :=
  s.modPort n (fun p => { p with credits := p.credits.set f.crv (Nat.min (fullCredits.getD f.crv 0) (p.credits.getD f.crv 0 + f.crn)) })

/-- A flit that cannot be taken is discarded, and a replay asked for; this end retrains too when 8 have been asked for in vain. While a replay
is awaited, what comes out of order is what was sent before it, but for an invalid flit and for a SEQ that goes back, which show that the
replay itself was cut: it is asked for again (DESIGN CHOICE, log 99). -/
def flitBad (n : Nat) (seq : Option Nat) (s : State) : State :=
  let p := s.port n
  let later := match seq, p.seen with
    | some x, some y => (x + 4096 - y) % 4096 < 2048 && x != y
    | some _, none => true
    | none, _ => false
  let s1 := s.modPort n (fun p => { p with nakWait := true, seen := seq <|> p.seen })
  if p.nakWait && later then s1
  else if p.naks ≥ 8 then retrain n s1
  else sendIdle n true (cntBase (8 * n + 2) 1 (s1.modPort n (fun p => { p with naks := p.naks + 1, retry := Nat.min 0xFFFF (p.retry + 1) })))

/-! ### Messages (R293, R294) -/

/-- The words of a message's data, 64 bits each. -/
def msgWord (m : Msg) (k : Nat) : Nat := leNat ((m.data.drop (8 * k)).take 8)

/-- A TOLL message, in the layout of tollMsg (log 40). -/
def tollIn (m : Msg) (s : State) : Res :=
  let digest := BitVec.ofNat 64 (msgWord m 0)
  let w := fun k => msgWord m (k + 1)
  if m.mtype == mtTOLLUP then execTollUp digest m.tag (w 0) (w 1 != 0) (w 2) s
  else if m.mtype == mtTOLLDOWN then execTollDown digest m.tag (w 0 != 0) (w 1 != 0) (w 2) s
  else if m.mtype == mtTOLLQRY then execTollQry digest m.tag m.src s
  else execTollAns digest m.tag m.src (if w 0 == 1 then some false else if w 0 == 2 then some true else none) s

/-- An MCTL message, in the layout of mctl (log 40). -/
def mctlIn (m : Msg) (s : State) : Res :=
  let w := msgWord m
  match m.param with
  | 0 => execMctlOpen m.src m.tag (w 0) (w 1) (w 2 != 0) (w 3) s
  | 1 => execMctlAccept m.tag s
  | 2 => execMctlRefused m.tag s
  | 3 => execMctlSeal m.src m.tag (w 0) (w 1) (w 2) s
  | 4 => execMctlSack m.tag (w 0) s
  | 5 => execMctlCommit m.src m.tag (w 0) (w 1) s
  | 6 => execMctlDrop m.src m.tag (w 0) s
  | 7 => execMctlCack m.tag (w 0) s
  | 8 => execMctlClose (if w 0 == 0 then .primary m.src else .partner m.src) m.tag s
  | 9 => execMctlStopping m.src s
  | _ => .next s

/-- A HELLO, in the layout of helloMsg (log 40). -/
def helloIn (port : Nat) (m : Msg) (s : State) : Res :=
  let b := fun k => (m.data.getD k 0).toNat
  execHello port (leNat (m.data.take 2)) (b 2) (b 3) (b 4) (if b 5 == 0 then .t else .s) (b 6 != 0) (BitVec.ofNat 64 (leNat ((m.data.drop 7).take 8))) s

/-- A message that the device handles itself or forwards, from whichever device it comes (R302, R305). -/
def forOwn (port : Nat) (m : Msg) (k : State → Res) (s : State) : Res :=
  .next (onMsg port m (fun s => (k (noteFrom port m.src s)).state s) s)

/-- A message comes out of its flits: what the row of its type does; one of a reserved MTYPE is discarded and counted. -/
def deliverMsg (port : Nat) (m : Msg) (s : State) : Res :=
  let k := m.mtype
  if k == mtRD then execRd port m s
  else if k == mtWR then execWr port m s
  else if k == mtSEM then execSem port m s
  else if k == mtWATCH then execWatch port m s
  else if k == mtZERO then execZero port m s
  else if k == mtRDATA then execRdata port m s
  else if k == mtACK then execAck port m s
  else if k == mtNOTIFY then execNotify port m s
  else if k == mtCDATA then execCdata port m s
  else if k == mtPDATA then execPdata port m s
  else if k == mtMREC then forOwn port m (execMrec m.src m.tag (m.param % 4) (m.param / 4) m.addr m.data) s
  else if k == mtHELLO then helloIn port m s
  else if k == mtCLAIM then execClaim port m.src m.hops (BitVec.ofNat 64 (msgWord m 0)) s
  else if k == mtROUTE then execRoute port m.addr (m.param % 16) (m.param / 16 % 2 == 1) s
  else if k == mtWITHDRAW then execWithdraw port m.addr s
  else if mtTOLLUP ≤ k && k ≤ mtTOLLANS then forOwn port m (tollIn m) s
  else if k == mtLOST then forOwn port m (execLost m.param) s
  else if k == mtCLAP then .next (clapIn port m.hops (BitVec.ofNat 64 (msgWord m 0)) s)
  else if k == mtRATE then execRate port m s
  else if k == mtCOPEN then execCopen port m s
  else if k == mtMCTL then forOwn port m (mctlIn m) s
  else .next (discardMsg port s)

/-- The messages that end in a DATA flit, the first of them perhaps begun in an earlier flit of the channel; what begins in it and does not end
waits for the next. -/
def flitMsgs (n : Nat) (f : Flit) (s : State) : List Msg × State :=
  let part := mget [] (s.port n).rx f.vc
  let r := msgsIn 32 (if !part.isEmpty then part ++ f.slots else if f.fmh > 14 then [] else f.slots.drop (16 * f.fmh))
  (r.1, s.modPort n (fun p => { p with rx := if r.2.isEmpty then mdel p.rx f.vc else mput p.rx f.vc r.2 }))

/-! ### The timebase (R370, R371) -/

/-- A step of the count (R371): a new T0 for Dailies, whose next record carries GAP, and a long next record of every trace source. -/
def stepCount (d : Int) (s : State) : State :=
  let now := BitVec.ofInt 64 ((s.time.tmb.toNat : Int) + d)
  { s with
    time := { s.time with tmb := now, stepped := true, hadAlign := true, slew := 0 }
    obs := { s.obs with
      dlyT0 := s.obs.dlyT0.map (fun _ => now), dlyJ := 0, dlyGap := true
      fifos := s.obs.fifos.map (fun f => (f.1, { f.2 with last := none })) } }

/-- An IDLE flit of the parent gives the offset. The first alignment steps the count unless a cue is open; any other offset is slewed, as fast
as R370 allows (DESIGN CHOICE, log 99). -/
def alignCount (t1 t2 t3 t4 : W64) (s : State) : State :=
  let num : Int := ((t2.toNat : Int) - t1.toNat) + ((t3.toNat : Int) - t4.toNat)
  let th := num.tdiv 2
  let off := if th > 32767 then 32767 else if th < -32768 then -32768 else th
  if !s.time.hadAlign && s.cues.all (fun c => c.2.2.st == .awaiting) then
    stepCount th { s with time := { s.time with offset := off, aligned := false, goodSince := 0 } }
  else
    let good := num.natAbs ≤ 1
    { s with time := { s.time with
      offset := off
      hadAlign := true
      slew := th
      slewAt := s.time.ref
      aligned := s.time.aligned && num.natAbs ≤ 4
      goodSince := if !good then 0 else if s.time.goodSince == 0 then s.time.ref + 1 else s.time.goodSince } }

/-- The offset has held for 1 ms (Table 12.1). -/
def execAlignedSet (s : State) : Res :=
  .next (if s.time.goodSince != 0 && s.time.goodSince - 1 + 1000000 ≤ s.time.ref then { s with time := { s.time with aligned := true } } else s)

/-! ### Flits -/

/-- A DATA flit in sequence: its credits, its buffer, which its messages free at once, and an acknowledgement. -/
def dataTaken (n : Nat) (f : Flit) (s : State) : State :=
  let s1 := (takeCredit n f s).modPort n (fun p => { p with
    rxSeq := f.seq, nakWait := false, naks := 0, seen := none, owed := p.owed.set f.vc (p.owed.getD f.vc 0 + 1) })
  let r := flitMsgs n f s1
  let s2 := r.1.foldl (fun s m => (deliverMsg n m s).state s) r.2
  let s3 := pump n s2
  if (s3.links.tx.drop s.links.tx.length).any (fun x => x.1 == n) || !portIsUp s3 n then s3 else sendIdle n false s3

/-- An IDLE flit brings the far end's counts; those of the parent align this device's (R370). -/
def idleTaken (n : Nat) (f : Flit) (s : State) : State :=
  let c := fun k => BitVec.ofNat 64 (leNat ((f.slots.drop (8 * k)).take 8))
  let t4 := s.time.tmb
  let s1 := (takeCredit n f s).modPort n (fun p => { p with txEcho := c 0, rxCount := t4 })
  pump n (if s1.time.root || (s1.port n).peer != s1.time.parent then s1 else alignCount (c 1) (c 2) (c 0) t4 s1)

/-- A valid flit is taken (R290 to R293). -/
def flitTaken (n : Nat) (f : Flit) (s : State) : State :=
  let s1 := cntBase (8 * n + 1) 1 s
  if f.kind ≥ 2 then discardMsg n s1
  else
    let s2 := flitAcked n f s1
    if !portIsUp s2 n then s2
    else if f.kind == 1 then idleTaken n f s2
    else if f.seq != ((s2.port n).rxSeq + 1) % 4096 then flitBad n (some f.seq) s2
    else dataTaken n f s2

/-- A flit reaches a port; the codewords with errors that touch it first are counted (R289). -/
def flitIn (n : Nat) (rx : RxFlit) (s : State) : State :=
  if !portIsUp s n then s
  else
    let first := rx.codewords.filter (fun c => c.2)
    let s0 := cntBase (8 * n + 4) (first.filter (fun c => uncorrectable c.1)).length
      (cntBase (8 * n + 3) (first.filter (fun c => c.1 != 0 && !uncorrectable c.1)).length s)
    match flitOf rx.lanes rx.codewords with
    | none => flitBad n none s0
    | some f => flitTaken n f s0

def execDataFlit (port : Nat) (rx : RxFlit) (s : State) : Res := .next (flitIn port rx s)

/-- A valid IDLE flit with its three counts, in which no codeword begins that had errors: one that has them comes as DATA_FLIT's lanes do
(R370). -/
def execIdleFlit (port : Nat) (f : Flit) (sent echo back : W64) (s : State) : Res :=
  .next (if portIsUp s port then
    flitTaken port { f with kind := 1, slots := leBytes 8 sent.toNat ++ leBytes 8 echo.toNat ++ leBytes 8 back.toNat ++ List.replicate 216 0 } s else s)

/-- 1 us without a flit sent, or 10 us without an IDLE flit (R303, R370). -/
def execHeartbeat (port : Nat) (s : State) : Res := .next (if portIsUp s port then sendIdle port false s else s)

end Sys2Proof.Machine
end

