-- ==== Sys2Proof/Machine/Dispatch.lean ====
section
/-! DEFINITION. One arm per command: the direct call of its meaning. -/
namespace Sys2Proof.Machine

/-- The effect of a command on everything but the queue of waiting commands. -/
def exec (i : Instr) (s : State) : Host.Outcome State Fault Refusal :=
  match i with
  | .nop w f => Sys2Proof.Machine.execNop w f s
  | .endT w f => Sys2Proof.Machine.execEndT w f s
  | .ecall w f => Sys2Proof.Machine.execEcall w f s
  | .eret w f => Sys2Proof.Machine.execEret w f s
  | .wfi w f => Sys2Proof.Machine.execWfi w f s
  | .fence w f => Sys2Proof.Machine.execFence w f s
  | .interrupt proc core cause => Sys2Proof.Machine.execInterrupt proc core cause s
  | .add w f => Sys2Proof.Machine.execAdd w f s
  | .sub w f => Sys2Proof.Machine.execSub w f s
  | .and w f => Sys2Proof.Machine.execAnd w f s
  | .or w f => Sys2Proof.Machine.execOr w f s
  | .xor w f => Sys2Proof.Machine.execXor w f s
  | .sll w f => Sys2Proof.Machine.execSll w f s
  | .srl w f => Sys2Proof.Machine.execSrl w f s
  | .sra w f => Sys2Proof.Machine.execSra w f s
  | .slt w f => Sys2Proof.Machine.execSlt w f s
  | .sltu w f => Sys2Proof.Machine.execSltu w f s
  | .min w f => Sys2Proof.Machine.execMin w f s
  | .max w f => Sys2Proof.Machine.execMax w f s
  | .mul w f => Sys2Proof.Machine.execMul w f s
  | .mulhu w f => Sys2Proof.Machine.execMulhu w f s
  | .beq w f => Sys2Proof.Machine.execBeq w f s
  | .bne w f => Sys2Proof.Machine.execBne w f s
  | .blt w f => Sys2Proof.Machine.execBlt w f s
  | .bge w f => Sys2Proof.Machine.execBge w f s
  | .bltu w f => Sys2Proof.Machine.execBltu w f s
  | .bgeu w f => Sys2Proof.Machine.execBgeu w f s
  | .j w f => Sys2Proof.Machine.execJ w f s
  | .jr w f => Sys2Proof.Machine.execJr w f s
  | .csrr w f => Sys2Proof.Machine.execCsrr w f s
  | .csrw w f => Sys2Proof.Machine.execCsrw w f s
  | .stbyWrite r v => Sys2Proof.Machine.execStbyWrite r v s
  | .rtSwap tile => Sys2Proof.Machine.execRtSwap tile s
  | .cbSwap tile => Sys2Proof.Machine.execCbSwap tile s
  | .tableSwap tile => Sys2Proof.Machine.execTableSwap tile s
  | .ldxB w f => Sys2Proof.Machine.execLdxB w f s
  | .ldxH w f => Sys2Proof.Machine.execLdxH w f s
  | .ldxW w f => Sys2Proof.Machine.execLdxW w f s
  | .ldxL w f => Sys2Proof.Machine.execLdxL w f s
  | .ldxD w f => Sys2Proof.Machine.execLdxD w f s
  | .stxB w f => Sys2Proof.Machine.execStxB w f s
  | .stxH w f => Sys2Proof.Machine.execStxH w f s
  | .stxW w f => Sys2Proof.Machine.execStxW w f s
  | .stxL w f => Sys2Proof.Machine.execStxL w f s
  | .stxD w f => Sys2Proof.Machine.execStxD w f s
  | .ldxS w f => Sys2Proof.Machine.execLdxS w f s
  | .stxS w f => Sys2Proof.Machine.execStxS w f s
  | .ldxV w f => Sys2Proof.Machine.execLdxV w f s
  | .ldxVI w f => Sys2Proof.Machine.execLdxVI w f s
  | .stxV w f => Sys2Proof.Machine.execStxV w f s
  | .stxVI w f => Sys2Proof.Machine.execStxVI w f s
  | .slotWaitGrant r => Sys2Proof.Machine.execSlotWaitGrant r s
  | .loadResponse tile op part ecc => Sys2Proof.Machine.execLoadResponse tile op part ecc s
  | .storeAck tile op part => Sys2Proof.Machine.execStoreAck tile op part s
  | .instructionFetch r => Sys2Proof.Machine.execInstructionFetch r s
  | .runaheadFetch r d => Sys2Proof.Machine.execRunaheadFetch r d s
  | .semAdd w f => Sys2Proof.Machine.execSemAdd w f s
  | .semSwap w f => Sys2Proof.Machine.execSemSwap w f s
  | .semCas w f => Sys2Proof.Machine.execSemCas w f s
  | .semRead w f => Sys2Proof.Machine.execSemRead w f s
  | .semHomePerform tile op => Sys2Proof.Machine.execSemHomePerform tile op s
  | .waitTok w f => Sys2Proof.Machine.execWaitTok w f s
  | .waitTokall w f => Sys2Proof.Machine.execWaitTokall w f s
  | .waitMem w f => Sys2Proof.Machine.execWaitMem w f s
  | .waitTime w f => Sys2Proof.Machine.execWaitTime w f s
  | .waitMet r => Sys2Proof.Machine.execWaitMet r s
  | .waitExpired r => Sys2Proof.Machine.execWaitExpired r s
  | .bar w f => Sys2Proof.Machine.execBar w f s
  | .dset w f => Sys2Proof.Machine.execDset w f s
  | .cue w f => Sys2Proof.Machine.execCue w f s
  | .cueAdmission reel slot => Sys2Proof.Machine.execCueAdmission reel slot s
  | .endcue w f => Sys2Proof.Machine.execEndcue w f s
  | .cueEnd reel slot => Sys2Proof.Machine.execCueEnd reel slot s
  | .cueExpire reel slot => Sys2Proof.Machine.execCueExpire reel slot s
  | .phase w f => Sys2Proof.Machine.execPhase w f s
  | .clap w f => Sys2Proof.Machine.execClap w f s
  | .upd w f => Sys2Proof.Machine.execUpd w f s
  | .updPrecheckChunk op chunk => Sys2Proof.Machine.execUpdPrecheckChunk op chunk s
  | .updStageChunk op chunk slotPick => Sys2Proof.Machine.execUpdStageChunk op chunk slotPick s
  | .deriveChunk op chunk => Sys2Proof.Machine.execDeriveChunk op chunk s
  | .auditChunk op chunk => Sys2Proof.Machine.execAuditChunk op chunk s
  | .helperStart reel picks => Sys2Proof.Machine.execHelperStart reel picks s
  | .helperRefused reel => Sys2Proof.Machine.execHelperRefused reel s
  | .rdw w f => Sys2Proof.Machine.execRdw w f s
  | .rdwSector op => Sys2Proof.Machine.execRdwSector op s
  | .coll w f => Sys2Proof.Machine.execColl w f s
  | .collEngineStart op => Sys2Proof.Machine.execCollEngineStart op s
  | .perm w f => Sys2Proof.Machine.execPerm w f s
  | .permPassAcked op => Sys2Proof.Machine.execPermPassAcked op s
  | .scrub w f => Sys2Proof.Machine.execScrub w f s
  | .scrubZero op page => Sys2Proof.Machine.execScrubZero op page s
  | .toll w f => Sys2Proof.Machine.execToll w f s
  | .tollContributionSend g => Sys2Proof.Machine.execTollContributionSend g s
  | .tollUp digest tag rank contrib leg => Sys2Proof.Machine.execTollUp digest tag rank contrib leg s
  | .tollDown digest tag set lost leg => Sys2Proof.Machine.execTollDown digest tag set lost leg s
  | .rollCommitChunk layer col slot => Sys2Proof.Machine.execRollCommitChunk layer col slot s
  | .rollRecovery layer col => Sys2Proof.Machine.execRollRecovery layer col s
  | .tollQry digest tag src => Sys2Proof.Machine.execTollQry digest tag src s
  | .tollAns digest tag src ans => Sys2Proof.Machine.execTollAns digest tag src ans s
  | .tollQueryTimeout g => Sys2Proof.Machine.execTollQueryTimeout g s
  | .tollBind g v mcount => Sys2Proof.Machine.execTollBind g v mcount s
  | .tollBindApply g => Sys2Proof.Machine.execTollBindApply g s
  | .mmaOpen w f => Sys2Proof.Machine.execMmaOpen w f s
  | .mmaCont w f => Sys2Proof.Machine.execMmaCont w f s
  | .arrayBeat tile h => Sys2Proof.Machine.execArrayBeat tile h s
  | .mmaComplete tile h => Sys2Proof.Machine.execMmaComplete tile h s
  | .rsc w f => Sys2Proof.Machine.execRsc w f s
  | .rscDrainStart tile h => Sys2Proof.Machine.execRscDrainStart tile h s
  | .rscComplete tile h => Sys2Proof.Machine.execRscComplete tile h s
  | .cpyl w f => Sys2Proof.Machine.execCpyl w f s
  | .cpylComplete tile => Sys2Proof.Machine.execCpylComplete tile s
  | .vadd w f => Sys2Proof.Machine.execVadd w f s
  | .vsub w f => Sys2Proof.Machine.execVsub w f s
  | .vmul w f => Sys2Proof.Machine.execVmul w f s
  | .vmax w f => Sys2Proof.Machine.execVmax w f s
  | .vmin w f => Sys2Proof.Machine.execVmin w f s
  | .vfma w f => Sys2Proof.Machine.execVfma w f s
  | .vabs w f => Sys2Proof.Machine.execVabs w f s
  | .vneg w f => Sys2Proof.Machine.execVneg w f s
  | .vmov w f => Sys2Proof.Machine.execVmov w f s
  | .vsel w f => Sys2Proof.Machine.execVsel w f s
  | .vcmpEq w f => Sys2Proof.Machine.execVcmpEq w f s
  | .vcmpNe w f => Sys2Proof.Machine.execVcmpNe w f s
  | .vcmpLt w f => Sys2Proof.Machine.execVcmpLt w f s
  | .vcmpLe w f => Sys2Proof.Machine.execVcmpLe w f s
  | .vcmpGt w f => Sys2Proof.Machine.execVcmpGt w f s
  | .vcmpGe w f => Sys2Proof.Machine.execVcmpGe w f s
  | .vcmpUn w f => Sys2Proof.Machine.execVcmpUn w f s
  | .vand w f => Sys2Proof.Machine.execVand w f s
  | .vor w f => Sys2Proof.Machine.execVor w f s
  | .vxor w f => Sys2Proof.Machine.execVxor w f s
  | .vshl w f => Sys2Proof.Machine.execVshl w f s
  | .vshr w f => Sys2Proof.Machine.execVshr w f s
  | .viadd w f => Sys2Proof.Machine.execViadd w f s
  | .vmand w f => Sys2Proof.Machine.execVmand w f s
  | .vmor w f => Sys2Proof.Machine.execVmor w f s
  | .vmxor w f => Sys2Proof.Machine.execVmxor w f s
  | .vmnot w f => Sys2Proof.Machine.execVmnot w f s
  | .vmpop w f => Sys2Proof.Machine.execVmpop w f s
  | .vins w f => Sys2Proof.Machine.execVins w f s
  | .vext w f => Sys2Proof.Machine.execVext w f s
  | .vidx w f => Sys2Proof.Machine.execVidx w f s
  | .vshf w f => Sys2Proof.Machine.execVshf w f s
  | .vcvt w f => Sys2Proof.Machine.execVcvt w f s
  | .vsfnExp2 w f => Sys2Proof.Machine.execVsfnExp2 w f s
  | .vsfnLog2 w f => Sys2Proof.Machine.execVsfnLog2 w f s
  | .vsfnRsqrt w f => Sys2Proof.Machine.execVsfnRsqrt w f s
  | .vsfnRcp w f => Sys2Proof.Machine.execVsfnRcp w f s
  | .vsfnTanh w f => Sys2Proof.Machine.execVsfnTanh w f s
  | .vsfnErf w f => Sys2Proof.Machine.execVsfnErf w f s
  | .openReq reel v => Sys2Proof.Machine.execOpenReq reel v s
  | .closeReq reel v => Sys2Proof.Machine.execCloseReq reel v s
  | .reelRelease reel => Sys2Proof.Machine.execReelRelease reel s
  | .seedWrite reel v => Sys2Proof.Machine.execSeedWrite reel v s
  | .launchStart reel q rec picks => Sys2Proof.Machine.execLaunchStart reel q rec picks s
  | .completionRecordWrite reel => Sys2Proof.Machine.execCompletionRecordWrite reel s
  | .completionWaitTimeout reel => Sys2Proof.Machine.execCompletionWaitTimeout reel s
  | .sqTailDoorbell reel q v => Sys2Proof.Machine.execSqTailDoorbell reel q v s
  | .cqHeadDoorbell reel v => Sys2Proof.Machine.execCqHeadDoorbell reel v s
  | .eqHeadDoorbell v => Sys2Proof.Machine.execEqHeadDoorbell v s
  | .dmaTailDoorbell k v => Sys2Proof.Machine.execDmaTailDoorbell k v s
  | .ringEnable ring v => Sys2Proof.Machine.execRingEnable ring v s
  | .dmaDescriptorStart k d => Sys2Proof.Machine.execDmaDescriptorStart k d s
  | .dmaDescriptorDone k e data => Sys2Proof.Machine.execDmaDescriptorDone k e data s
  | .msixDelayExpire ring => Sys2Proof.Machine.execMsixDelayExpire ring s
  | .splitModeWrite fn v => Sys2Proof.Machine.execSplitModeWrite fn v s
  | .xlateFlushComplete => Sys2Proof.Machine.execXlateFlushComplete s
  | .tableWalkComplete va => Sys2Proof.Machine.execTableWalkComplete va s
  | .amissTimeout va => Sys2Proof.Machine.execAmissTimeout va s
  | .invAll => Sys2Proof.Machine.execInvAll s
  | .invRange => Sys2Proof.Machine.execInvRange s
  | .load size => Sys2Proof.Machine.execLoad size s
  | .nack => Sys2Proof.Machine.execNack s
  | .xopInvalidateComplete => Sys2Proof.Machine.execXopInvalidateComplete s
  | .pin nlines evt => Sys2Proof.Machine.execPin nlines evt s
  | .pinf nlines evt => Sys2Proof.Machine.execPinf nlines evt s
  | .unpin nlines evt => Sys2Proof.Machine.execUnpin nlines evt s
  | .inval nlines evt => Sys2Proof.Machine.execInval nlines evt s
  | .flush nlines evt => Sys2Proof.Machine.execFlush nlines evt s
  | .copComplete => Sys2Proof.Machine.execCopComplete s
  | .cacheFillReturn line sectors data => Sys2Proof.Machine.execCacheFillReturn line sectors data s
  | .cacheReduction line what => Sys2Proof.Machine.execCacheReduction line what s
  | .evictionStallEnd line => Sys2Proof.Machine.execEvictionStallEnd line s
  | .qcfgWrite v => Sys2Proof.Machine.execQcfgWrite v s
  | .qcfgSwitch => Sys2Proof.Machine.execQcfgSwitch s
  | .bankRefresh layer col bank => Sys2Proof.Machine.execBankRefresh layer col bank s
  | .patrolScrub layer col ecc => Sys2Proof.Machine.execPatrolScrub layer col ecc s
  | .soft => Sys2Proof.Machine.execSoft s
  | .fuse => Sys2Proof.Machine.execFuse s
  | .retire => Sys2Proof.Machine.execRetire s
  | .rowRepairSwitch addr => Sys2Proof.Machine.execRowRepairSwitch addr s
  | .pcRetireLineMove badLine => Sys2Proof.Machine.execPcRetireLineMove badLine s
  | .hbmRsvWrite v => Sys2Proof.Machine.execHbmRsvWrite v s
  | .hlogPersist => Sys2Proof.Machine.execHlogPersist s
  | .tspareGo v => Sys2Proof.Machine.execTspareGo v s
  | .tileSwapStart testPass => Sys2Proof.Machine.execTileSwapStart testPass s
  | .tileSwapSwitch => Sys2Proof.Machine.execTileSwapSwitch s
  | .laneFailure port lane cws => Sys2Proof.Machine.execLaneFailure port lane cws s
  | .portRetrainComplete port => Sys2Proof.Machine.execPortRetrainComplete port s
  | .directorWatchdogExpiry core => Sys2Proof.Machine.execDirectorWatchdogExpiry core s
  | .directorTakeoverComplete => Sys2Proof.Machine.execDirectorTakeoverComplete s
  | .fwSwitchGo v => Sys2Proof.Machine.execFwSwitchGo v s
  | .fwSwitchPoint => Sys2Proof.Machine.execFwSwitchPoint s
  | .fwSwitchTimeout => Sys2Proof.Machine.execFwSwitchTimeout s
  | .fwSelfCheckComplete failed => Sys2Proof.Machine.execFwSelfCheckComplete failed s
  | .gafferPeriod o => Sys2Proof.Machine.execGafferPeriod o s
  | .orderlyStopFinal predicted => Sys2Proof.Machine.execOrderlyStopFinal predicted s
  | .throttleStep => Sys2Proof.Machine.execThrottleStep s
  | .kCorrection varrMa varrMv => Sys2Proof.Machine.execKCorrection varrMa varrMv s
  | .varrRequestComplete => Sys2Proof.Machine.execVarrRequestComplete s
  | .avsRetry ack => Sys2Proof.Machine.execAvsRetry ack s
  | .gafMismatch r0 r1 => Sys2Proof.Machine.execGafMismatch r0 r1 s
  | .sensorSuspect sensor => Sys2Proof.Machine.execSensorSuspect sensor s
  | .sensorTrusted sensor => Sys2Proof.Machine.execSensorTrusted sensor s
  | .hostCapWrite v => Sys2Proof.Machine.execHostCapWrite v s
  | .pwrLimitAssert => Sys2Proof.Machine.execPwrLimitAssert s
  | .pwrLimitRelease => Sys2Proof.Machine.execPwrLimitRelease s
  | .enReq n v => Sys2Proof.Machine.execEnReq n v s
  | .disReq n v => Sys2Proof.Machine.execDisReq n v s
  | .domainStartComplete n => Sys2Proof.Machine.execDomainStartComplete n s
  | .domainStopComplete n => Sys2Proof.Machine.execDomainStopComplete n s
  | .foleyEnter tile => Sys2Proof.Machine.execFoleyEnter tile s
  | .tcoefValid v => Sys2Proof.Machine.execTcoefValid v s
  | .legacyTrip sensor raw => Sys2Proof.Machine.execLegacyTrip sensor raw s
  | .tripNAsserted => Sys2Proof.Machine.execTripNAsserted s
  | .tripRelease => Sys2Proof.Machine.execTripRelease s
  | .tripRestart => Sys2Proof.Machine.execTripRestart s
  | .windowWriteStart => Sys2Proof.Machine.execWindowWriteStart s
  | .idleFlit port f sent echo back => Sys2Proof.Machine.execIdleFlit port f sent echo back s
  | .alignedSet => Sys2Proof.Machine.execAlignedSet s
  | .heartbeat port => Sys2Proof.Machine.execHeartbeat port s
  | .floorWrite v => Sys2Proof.Machine.execFloorWrite v s
  | .rate port m => Sys2Proof.Machine.execRate port m s
  | .portUp port halfRtt => Sys2Proof.Machine.execPortUp port halfRtt s
  | .portLost port => Sys2Proof.Machine.execPortLost port s
  | .dataFlit port rx => Sys2Proof.Machine.execDataFlit port rx s
  | .hello port dev farPort bpos pair build legacy tag => Sys2Proof.Machine.execHello port dev farPort bpos pair build legacy tag s
  | .helloRepeat port => Sys2Proof.Machine.execHelloRepeat port s
  | .claim port id hops tag => Sys2Proof.Machine.execClaim port id hops tag s
  | .idCfgWrite v => Sys2Proof.Machine.execIdCfgWrite v s
  | .claimed => Sys2Proof.Machine.execClaimed s
  | .route port dst hops dn => Sys2Proof.Machine.execRoute port dst hops dn s
  | .withdraw port dst => Sys2Proof.Machine.execWithdraw port dst s
  | .lost dev => Sys2Proof.Machine.execLost dev s
  | .rd port m => Sys2Proof.Machine.execRd port m s
  | .wr port m => Sys2Proof.Machine.execWr port m s
  | .sem port m => Sys2Proof.Machine.execSem port m s
  | .watch port m => Sys2Proof.Machine.execWatch port m s
  | .zero port m => Sys2Proof.Machine.execZero port m s
  | .rdata port m => Sys2Proof.Machine.execRdata port m s
  | .ack port m => Sys2Proof.Machine.execAck port m s
  | .notify port m => Sys2Proof.Machine.execNotify port m s
  | .remoteRequestTimeout tag => Sys2Proof.Machine.execRemoteRequestTimeout tag s
  | .cdata port m => Sys2Proof.Machine.execCdata port m s
  | .pdata port m => Sys2Proof.Machine.execPdata port m s
  | .copen port m => Sys2Proof.Machine.execCopen port m s
  | .collTimeout op => Sys2Proof.Machine.execCollTimeout op s
  | .clapMsg port tick => Sys2Proof.Machine.execClapMsg port tick s
  | .freeze => Sys2Proof.Machine.execFreeze s
  | .freezeRequest tick => Sys2Proof.Machine.execFreezeRequest tick s
  | .mirrorEnWrite reel v => Sys2Proof.Machine.execMirrorEnWrite reel v s
  | .pmirArmWrite k v => Sys2Proof.Machine.execPmirArmWrite k v s
  | .take k => Sys2Proof.Machine.execTake k s
  | .partnerTakeover k late => Sys2Proof.Machine.execPartnerTakeover k late s
  | .mctlOpen primary reel tgrp size legacy pair => Sys2Proof.Machine.execMctlOpen primary reel tgrp size legacy pair s
  | .mctlRefused reel => Sys2Proof.Machine.execMctlRefused reel s
  | .mrec primary reel kind tag addr data => Sys2Proof.Machine.execMrec primary reel kind tag addr data s
  | .mctlSeal primary reel tag count wait => Sys2Proof.Machine.execMctlSeal primary reel tag count wait s
  | .mctlSack reel tag => Sys2Proof.Machine.execMctlSack reel tag s
  | .mctlCommit primary reel tag total => Sys2Proof.Machine.execMctlCommit primary reel tag total s
  | .mctlDrop primary reel tag => Sys2Proof.Machine.execMctlDrop primary reel tag s
  | .mctlCack reel tag => Sys2Proof.Machine.execMctlCack reel tag s
  | .mctlClose who reel => Sys2Proof.Machine.execMctlClose who reel s
  | .mctlStopping primary => Sys2Proof.Machine.execMctlStopping primary s
  | .mirrorClearComplete k => Sys2Proof.Machine.execMirrorClearComplete k s
  | .exportGo => Sys2Proof.Machine.execExportGo s
  | .exportStart => Sys2Proof.Machine.execExportStart s
  | .exportComplete e => Sys2Proof.Machine.execExportComplete e s
  | .pcieLinkUp rate width flit => Sys2Proof.Machine.execPcieLinkUp rate width flit s
  | .pcieHotReset => Sys2Proof.Machine.execPcieHotReset s
  | .configRequest off wr => Sys2Proof.Machine.execConfigRequest off wr s
  | .bar2Read off len => Sys2Proof.Machine.execBar2Read off len s
  | .bar2Write off data ep => Sys2Proof.Machine.execBar2Write off data ep s
  | .registerWrite off size v => Sys2Proof.Machine.execRegisterWrite off size v s
  | .hostCompletion tag e data => Sys2Proof.Machine.execHostCompletion tag e data s
  | .hostCompletionTimeout tag => Sys2Proof.Machine.execHostCompletionTimeout tag s
  | .d3hot => Sys2Proof.Machine.execD3hot s
  | .d0 => Sys2Proof.Machine.execD0 s
  | .retentionEnter => Sys2Proof.Machine.execRetentionEnter s
  | .offEnter => Sys2Proof.Machine.execOffEnter s
  | .lcProvision secret => Sys2Proof.Machine.execLcProvision secret s
  | .lcCertify => Sys2Proof.Machine.execLcCertify s
  | .lcClaim => Sys2Proof.Machine.execLcClaim s
  | .lcTransfer => Sys2Proof.Machine.execLcTransfer s
  | .lcReturn => Sys2Proof.Machine.execLcReturn s
  | .lcVoid => Sys2Proof.Machine.execLcVoid s
  | .svnCommit => Sys2Proof.Machine.execSvnCommit s
  | .imgGo => Sys2Proof.Machine.execImgGo s
  | .imageVerifyComplete => Sys2Proof.Machine.execImageVerifyComplete s
  | .chal nonce => Sys2Proof.Machine.execChal nonce s
  | .dbgOpen req => Sys2Proof.Machine.execDbgOpen req s
  | .debugOpenCheck => Sys2Proof.Machine.execDebugOpenCheck s
  | .dbgClose => Sys2Proof.Machine.execDbgClose s
  | .debugSessionExpire => Sys2Proof.Machine.execDebugSessionExpire s
  | .dbgHalt tile th => Sys2Proof.Machine.execDbgHalt tile th s
  | .dbgStep tile th => Sys2Proof.Machine.execDbgStep tile th s
  | .dbgResume tile th => Sys2Proof.Machine.execDbgResume tile th s
  | .threadWindowWrite off v => Sys2Proof.Machine.execThreadWindowWrite off v s
  | .doeDiscovery index => Sys2Proof.Machine.execDoeDiscovery index s
  | .getVersion q => Sys2Proof.Machine.execGetVersion q s
  | .getCapabilities q => Sys2Proof.Machine.execGetCapabilities q s
  | .negotiateAlgorithms q => Sys2Proof.Machine.execNegotiateAlgorithms q s
  | .getDigests q => Sys2Proof.Machine.execGetDigests q s
  | .getCertificate q off len => Sys2Proof.Machine.execGetCertificate q off len s
  | .challenge q => Sys2Proof.Machine.execChallenge q s
  | .getMeasurements q index => Sys2Proof.Machine.execGetMeasurements q index s
  | .keyExchange q => Sys2Proof.Machine.execKeyExchange q s
  | .finish q => Sys2Proof.Machine.execFinish q s
  | .endSession q => Sys2Proof.Machine.execEndSession q s
  | .keyProg session stream keyset sub key => Sys2Proof.Machine.execKeyProg session stream keyset sub key s
  | .kSetGo session stream keyset => Sys2Proof.Machine.execKSetGo session stream keyset s
  | .kSetStop session stream keyset => Sys2Proof.Machine.execKSetStop session stream keyset s
  | .alwaysOnStart bpos pair legacy trip => Sys2Proof.Machine.execAlwaysOnStart bpos pair legacy trip s
  | .railOutOfRange rail => Sys2Proof.Machine.execRailOutOfRange rail s
  | .refclkLoss => Sys2Proof.Machine.execRefclkLoss s
  | .refclkReturn => Sys2Proof.Machine.execRefclkReturn s
  | .stageEnd status found => Sys2Proof.Machine.execStageEnd status found s
  | .stageTimeout => Sys2Proof.Machine.execStageTimeout s
  | .takeRetry => Sys2Proof.Machine.execTakeRetry s
  | .perstAssert => Sys2Proof.Machine.execPerstAssert s
  | .perstDeassert => Sys2Proof.Machine.execPerstDeassert s
  | .jnlTake => Sys2Proof.Machine.execJnlTake s
  | .clrsel => Sys2Proof.Machine.execClrsel s
  | .journalPlanWrite off v => Sys2Proof.Machine.execJournalPlanWrite off v s
  | .resetCold => Sys2Proof.Machine.execResetCold s
  | .resetWarm => Sys2Proof.Machine.execResetWarm s
  | .resetDomain n => Sys2Proof.Machine.execResetDomain n s
  | .resetTile tile => Sys2Proof.Machine.execResetTile tile s
  | .resetReel reel => Sys2Proof.Machine.execResetReel reel s
  | .resetIo => Sys2Proof.Machine.execResetIo s
  | .ioResetRelease => Sys2Proof.Machine.execIoResetRelease s
  | .interfaceRetrained iface => Sys2Proof.Machine.execInterfaceRetrained iface s
  | .ioResetLimit => Sys2Proof.Machine.execIoResetLimit s
  | .clr => Sys2Proof.Machine.execClr s
  | .obsEnableWrite v => Sys2Proof.Machine.execObsEnableWrite v s
  | .dailiesSample => Sys2Proof.Machine.execDailiesSample s
  | .traceDrain src e => Sys2Proof.Machine.execTraceDrain src e s
  | .setBoardCap watts => Sys2Proof.Machine.execSetBoardCap watts s
  | .setPhaseCaps caps => Sys2Proof.Machine.execSetPhaseCaps caps s
  | .railPower mw => Sys2Proof.Machine.execRailPower mw s
  | .inletTemp code => Sys2Proof.Machine.execInletTemp code s
  | .inletTempTimeout => Sys2Proof.Machine.execInletTempTimeout s
  | .mctpReset kind => Sys2Proof.Machine.execMctpReset kind s
  | .powerOff => Sys2Proof.Machine.execPowerOff s
  | .mctpRead off len => Sys2Proof.Machine.execMctpRead off len s
  | .mctpUnknownCommand code => Sys2Proof.Machine.execMctpUnknownCommand code s
  | .jtagBypass => Sys2Proof.Machine.execJtagBypass s
  | .jtagIdcode => Sys2Proof.Machine.execJtagIdcode s
  | .jtagSamplePreload v => Sys2Proof.Machine.execJtagSamplePreload v s
  | .jtagExtest => Sys2Proof.Machine.execJtagExtest s
  | .jtagClamp => Sys2Proof.Machine.execJtagClamp s
  | .jtagHighz => Sys2Proof.Machine.execJtagHighz s
  | .avsNoAcknowledge => Sys2Proof.Machine.execAvsNoAcknowledge s
  | .railsInRange => Sys2Proof.Machine.execRailsInRange s
  | .tripNHigh10s => Sys2Proof.Machine.execTripNHigh10s s
  | .translationDisplacement cache va => Sys2Proof.Machine.execTranslationDisplacement cache va s
  | .mctlAccept reel => Sys2Proof.Machine.execMctlAccept reel s
  | .setdasa static dyn => Sys2Proof.Machine.execSetdasa static dyn s

end Sys2Proof.Machine
end

