-- ==== Sys2Proof/Safety.lean ====
section
/-! DEFINITION. What counts as a safe run, in the terms that claims use: the invariant of memory, and what a command leaves
unchanged. -/
namespace Sys2Proof.Machine

/-- The invariant of every step: memory stands in its one canonical form. -/
def State.Inv (s : State) : Prop := Memory.wf s = true

/-- A step that goes on: neither a fault nor a refusal. -/
def goesOn (r : Res) : Prop := ∃ t, r = Host.Outcome.next t

/-- The command answers a next state that has a property. -/
def runs (i : Instr) (s : State) (P : State → Prop) : Prop := ∃ t, exec i s = Host.Outcome.next t ∧ P t

/-! ### The completion of an instruction -/

/-- The program counter after an instruction with or without an extension word (R167). -/
def Thread.after (t : Thread) (x : Option W64) : W64 := t.pc + BitVec.ofNat 64 (8 * lenOf x)
def Core.after (k : Core) (x : Option W64) : W64 := k.pc + BitVec.ofNat 64 (8 * lenOf x)

/-- The thread as an instruction with status `st` leaves it at `pc`: TIL_TSTAT records the status (Table 5.6), nothing is
held, and `n` fetched words are used up. No register and no numeric flag changes. -/
def Thread.completed (t : Thread) (st : Status) (n : Nat) (pc : W64) : Thread :=
  { t.record st with held := none, wait := none, desc := [], descRead := [], fetched := t.fetched.drop n, pc := pc }

/-! ### Frames -/

/-- Every byte of local memory, the table windows' shadow copies among it, reads as before. -/
def sameBytes (s t : State) : Prop := ∀ a, t.byte a = s.byte a

/-- Every byte outside the n bytes from o reads as before. -/
def bytesOutside (o n : Nat) (s t : State) : Prop := ∀ a, (a < o ∨ o + n ≤ a) → t.byte a = s.byte a

/-- Nothing changed but records of tiles. -/
def onlyTiles (s t : State) : Prop := t = { s with tiles := t.tiles }

/-- Of the observation unit nothing changed but what is counted and traced (R495, R503). -/
def obsCounted (s t : State) : Prop := t.obs = { s.obs with base := t.obs.base, fifos := t.obs.fifos, trcLosses := t.obs.trcLosses }

/-- Of the observation unit and the reels nothing changed but what is counted and traced (R495, R503). -/
def counted (s t : State) : Prop := obsCounted s t ∧ ∀ n, t.reel n = { s.reel n with cnt := (t.reel n).cnt }

/-- From state u on, messages to peers went, and nothing else changed: the links, what is counted, and what cues have sent (R533). -/
def sent (u t : State) : Prop :=
  t = { u with links := t.links, obs := t.obs, reels := t.reels } ∧ t.obs = { u.obs with base := t.obs.base } ∧
  ∀ n, t.reel n = { u.reel n with seqs := (t.reel n).seqs }

/-- Nothing changed but the record of one tile, and what is counted and traced. -/
def onlyTileCounted (n : Nat) (s t : State) : Prop :=
  t = { s with tiles := t.tiles, reels := t.reels, obs := t.obs } ∧ counted s t ∧ ∀ k, k ≠ n → t.tile k = s.tile k

/-- Nothing changed but the record of one tile. -/
def onlyTile (n : Nat) (s t : State) : Prop := onlyTiles s t ∧ ∀ k, k ≠ n → t.tile k = s.tile k

/-- The tile's fixed counters once an instruction has issued (Table 17.4): count 1 more when counting is on. -/
def issuedFix (s : State) (n : Nat) : SMap W64 := if s.counting then bump (s.tile n).fix 1 1 else (s.tile n).fix

/-- An instruction of thread r has issued and changed nothing but that thread, which became `x`: no other thread, register
file, table, counter or byte of memory, the count of issued instructions and the rotation's place apart (R143). -/
def onlyThread (r : TRef) (x : Thread) (s t : State) : Prop :=
  onlyTile r.tile s t ∧
  t.tile r.tile = { s.tile r.tile with threads := (t.tile r.tile).threads, fix := issuedFix s r.tile, lastIssue := r.th } ∧
  (∀ n, n ≠ r.th → t.thread ⟨r.tile, n⟩ = s.thread ⟨r.tile, n⟩) ∧ t.thread r = x ∧ sameBytes s t

/-- Nothing of the thread's tile is in progress: no memory operation, array instruction, copy or run-ahead sector. -/
def idleTile (s : State) (n : Nat) : Prop :=
  (s.tile n).ops = [] ∧ (s.tile n).mmas = [] ∧ (s.tile n).rscs = [] ∧ (s.tile n).cpyl = none ∧ (s.tile n).cpylWait = [] ∧ (s.tile n).ra = []

/-- Every stretch of a checked access lies in this device's near memory. -/
def nearStretches (s : State) (ps : List (Piece × Nat × Nat)) : Prop :=
  ∀ x ∈ ps, s.isLocal x.2.1 = true ∧ winOf (paLocal x.2.1) = .near

/-- Every address lies, by these translated pages, in this device's near memory. -/
def nearPages (s : State) (pages : PageMap) : Prop :=
  ∀ va, s.isLocal (paOf pages va).1 = true ∧ winOf (paLocal (paOf pages va).1) = .near

/-- A memory operation of thread r has begun with the next operation number and the requests of its checked stretches; the
thread, `th` before, has gone on past its instruction, and no byte of memory, no other thread and no other tile has changed. -/
def opBegun (r : TRef) (th : Thread) (x : Option W64) (kind : MKind) (dst : Dst) (data : List Byte) (ps : List (Piece × Nat × Nat))
    (s t : State) : Prop :=
  t = { s with tiles := t.tiles, opSeq := s.opSeq + 1, freeCtr := t.freeCtr } ∧
  (∃ o, (t.tile r.tile).ops = [o] ∧ o.id = s.opSeq ∧ o.th = r.th ∧ o.kind = kind ∧ o.dst = dst ∧ o.data = data ∧ o.status = 0 ∧ o.old = none ∧
    o.pc = (s.thread r).pc ∧ o.parts.map (fun p => p.segs) = (partsOf s ps).map (fun p => p.segs) ∧ ∀ p ∈ o.parts, p.done = false ∧ p.sent = false) ∧
  t.thread r = { th with pc := th.after x, held := none, desc := [], descRead := [], fetched := th.fetched.drop (lenOf x) } ∧
  (∀ k, k ≠ r → t.thread k = s.thread k) ∧ (∀ n, n ≠ r.tile → t.tile n = s.tile n) ∧ sameBytes s t

/-- A thread's WAIT has ended or begun: nothing changed but the thread's tile, and the watches and requests by which the thread
waited for a word. -/
def onlyTileAndWatch (r : TRef) (s t : State) : Prop :=
  t = { s with tiles := t.tiles, links := t.links } ∧
  t.links = { s.links with
    watches := s.links.watches.filter (fun w => w.owner != some r), reqs := s.links.reqs.filter (fun q => q.owner != .watch r) } ∧
  (∀ n, n ≠ r.tile → t.tile n = s.tile n) ∧
  t.tile r.tile = { s.tile r.tile with threads := (t.tile r.tile).threads, fix := (t.tile r.tile).fix, lastIssue := (t.tile r.tile).lastIssue } ∧
  (∀ k, k ≠ r → t.thread k = s.thread k) ∧ sameBytes s t

/-- No thread holds an instruction, no tile has a copy in progress and no peer's request waits: nothing waits to go on (R143). -/
def quietThreads (s : State) : Bool :=
  s.links.homeQ.isEmpty && s.tiles.all (fun T => (T.2.threads.all (fun x => x.2.held.isNone)) && T.2.cpyl.isNone && T.2.cpylWait.isEmpty)

/-- What threads hold ends by commands of its own (WAIT, CUE and ENDCUE), no tile has a copy in progress and no peer's
request waits: nothing goes on by itself. -/
def waitingOnly (s : State) : Bool :=
  s.links.homeQ.isEmpty && s.tiles.all (fun T => T.2.threads.all (fun x => x.2.held.all (fun h => h.why == .wait || h.why == .cue || h.why == .endcue)) &&
    T.2.cpyl.isNone && T.2.cpylWait.isEmpty)

/-- The command answers the next state that follows, by what it lets go on, a state that has a property; that state itself where nothing
waited to go on (R143). -/
def runsWake (i : Instr) (s : State) (P : State → Prop) : Prop :=
  ∃ t, exec i s = Host.Outcome.next (wake t) ∧ P t ∧ (quietThreads s = true → wake t = t)

/-- The core executes an instruction of these words: it is ready, and its fetch brings them (R171). -/
def coreRuns (s : State) (p c : Nat) (x : Option W64) : Bool := coreReady s p c && (coreFetchBad s p c (lenOf x)).isNone

/-- The thread has no run-ahead copy of peer or host memory, which an acquire would discard (R157). -/
def noFarCopies (s : State) (r : TRef) : Bool := !(s.tile r.tile).ra.any (fun x => x.th == r.th && s.far (x.pa * 256))

/-- A core's instruction changed nothing but that core, which became `x`. -/
def onlyCore (p c : Nat) (x : Core) (s t : State) : Prop :=
  t = { s with cores := t.cores } ∧ (∀ k, k ≠ coreKey p c → mget {} t.cores k = mget {} s.cores k) ∧ t.core p c = x ∧ sameBytes s t

/-- The thread may issue an instruction that names `regs`: none of them is owed by a load (R143). -/
def ready (s : State) (r : TRef) (regs : List Reg) : Bool := canIssue s r && !owes s r regs

/-- The tile's cache of translations holds the page of every checked stretch. -/
def pagesCached (s : State) (tile : Nat) (ps : List (Piece × Nat × Nat)) : Bool :=
  ps.all (fun p => (s.tile tile).xc.any (fun e => e.covers p.1.va))

/-- Nothing that the thread has outstanding holds back an access of these stretches (R155, R159). -/
def freeToAccess (s : State) (r : TRef) (ps : List (Piece × Nat × Nat)) : Bool := !mustWait s r ps && !acqWaiting s r

/-- A descriptor's n bytes at a virtual address are there to be read: its pages, which the tile's cache of translations holds, grant
the permission, nothing outstanding holds the read back, no stretch passes through the cache, and every stretch is readable or has
arrived. -/
def descHere (s : State) (r : TRef) (need : Need) (va n : Nat) (bs : List Byte) : Prop :=
  ∃ ps, checkAll s (some r.tile) need (pieces va 0 n) = .ok ps ∧ pagesCached s r.tile ps = true ∧ freeToAccess s r ps = true ∧
    ps.all (fun p => !s.cached p.2.1 p.2.2) = true ∧ gatherDesc s (s.thread r) ps = some (stOk, bs)

/-- The thread as an instruction that starts a token operation leaves it: the lowest free token taken and its number in RD (R160). -/
def Thread.tookToken (t : Thread) (rd : Nat) : Thread :=
  (({ t with toks := t.toks ++ [⟨freeToken t, none⟩] } : Thread).setS rd (BitVec.ofNat 64 (freeToken t))).completed 0 1 (t.pc + 8)

/-- A token operation of thread r has begun: it is the newest of the bank's operations, the thread holds its token, and nothing else
has changed. -/
def opQueued (r : TRef) (rd : Nat) (o : BOp) (s t : State) : Prop :=
  t = { s with tiles := t.tiles, bank := { s.bank with ops := s.bank.ops ++ [o], nextOp := s.bank.nextOp + 1, groups := t.bank.groups } } ∧
  t.thread r = (s.thread r).tookToken rd ∧ (∀ k, k ≠ r → t.thread k = s.thread k) ∧ sameBytes s t

/-- A token operation has completed with a status: it is gone, the thread that started it holds the status by its token, and no other
thread has changed (R160). -/
def opEnded (o : BOp) (st : Status) (s t : State) : Prop :=
  t.bop o.id = none ∧ (∀ k, k ≠ o.id → t.bop k = s.bop k) ∧
  t.thread ⟨o.tile, o.th⟩ = { s.thread ⟨o.tile, o.th⟩ with toks := (s.thread ⟨o.tile, o.th⟩).toks.map (fun k => if k.n = o.tok then { k with done := some st } else k) } ∧
  ∀ k, k ≠ ⟨o.tile, o.th⟩ → t.thread k = s.thread k

/-- A message of a type reaches this device over an UP port and is not a stray. -/
def arrives (s : State) (port : Nat) (m : Msg) : Bool := portIsUp s port && s.links.claimed && m.dst == s.ownId

/-- Outside one sequence of one reel, its reel's own fields apart, no reel and no sequence changed; nor did any byte of memory or any
thread but one. -/
def onlySeq (reel slot : Nat) (r : TRef) (s t : State) : Prop :=
  (∀ n, n ≠ reel → t.reel n = s.reel n) ∧ (∀ k, k ≠ slot → t.seq reel k = s.seq reel k) ∧ (∀ k, k ≠ r → t.thread k = s.thread k) ∧ sameBytes s t

/-- A record went to the event queue: with the ring enabled and not full and no drop unreported, it was written at TAIL, which moved on;
otherwise it was dropped and counted (R432, R435). -/
def eventPlaced (st : Status) (typ reel slot tile th : Nat) (a0 a1 : W64) (s t : State) : Prop :=
  let r := s.host.eq
  ((r.en && !r.full) = false → t.host = { s.host with eqDrops := Nat.min (s.host.eqDrops + 1) 0x7F, eqOwed := s.host.eqOwed + 1 }) ∧
  ((r.en && !r.full) = true → s.host.eqOwed = 0 →
    (∃ l, t.host.out = s.host.out ++ Out.write (r.base * 4096 + r.tail * 32)
      (bytesOfWords (eventWords st typ r.phase reel slot tile th s.time.tmb a0 a1)) :: l) ∧
    t.host.eq.tail = (r.tail + 1) % 2 ^ r.logn ∧ t.host.eqDrops = s.host.eqDrops)

/-- A port that sends a message of a channel at once: UP, nothing queued and nothing that goes on, and credit and room to replay for the
two flits that the longest message takes (R291 to R293). -/
def linkReady (s : State) (n vc : Nat) : Bool :=
  portIsUp s n && (s.port n).queue.isEmpty && (s.port n).cur.isEmpty && decide (2 ≤ (s.port n).credits.getD vc 0) &&
  decide ((s.port n).replay.length + 2 ≤ 2048)

/-- A port sent the data flits that carry one message, in the channel of its type and from the port's next sequence number on (R291,
R293). -/
def flitSent (n : Nat) (m : Msg) (s t : State) : Prop :=
  ∃ f fs, t.links.tx = s.links.tx ++ (f :: fs).map (fun x => (n, x)) ∧ (∀ x ∈ f :: fs, x.kind = 0 ∧ x.vc = vcOf m.mtype) ∧
    f.seq = (s.port n).txSeq ∧ (f :: fs).flatMap (fun x => x.msgs) = [m]

/-- Nothing changed but what the device holds for the host: its rings, its configuration, and what it has sent. -/
def onlyHost (s t : State) : Prop := t = { s with host := t.host }

/-- A request ended with Unsupported Request, and error reporting logged it (R419, R426). -/
def turnedAway (s t : State) : Prop :=
  onlyHost s t ∧ t.host = { s.host with cfg := mput s.host.cfg 0x41 (mget 0 s.host.cfg 0x41 ||| 0x100000), out := s.host.out ++ [.ur] }

/-- The two arguments by which a QUEUE record names a ring (Table 14.11). -/
def ringArgs : RingId → W64 × W64
  | .sq n q => (BitVec.ofNat 64 (n % 16 + q % 8 * 16), 0)
  | .cq n => (BitVec.ofNat 64 (n % 16 + 32), 0)
  | .eq => (48, 0)
  | .dma k => (64, BitVec.ofNat 64 k)

/-- A QUEUE record that reports a ring went to the event queue. -/
def ringReported (i : RingId) (s t : State) : Prop := eventPlaced stQueueInvalid 0x0D 0 0 0 0 (ringArgs i).1 (ringArgs i).2 s t

/-- The SP staged one record of the health log (R396): with room in staging it is the newest, under the next sequence number. -/
def hlogged (kind : Nat) (perm : Bool) (st : Status) (unit detail : W64) (s t : State) : Prop :=
  s.rep.staged.length < 256 → t.rep.staged = s.rep.staged ++
    [{ tick := s.time.tmb, seq := s.rep.nextSeq % 2 ^ 32, kind := kind, perm := perm, status := st, unit := unit, detail := detail }] ∧ t.rep.nextSeq = s.rep.nextSeq + 1

/-- A mirror control message went to a device: at once where its route's port is ready (R324). -/
def mctlSent (dst op reel : Nat) (args : List Nat) (s t : State) : Prop :=
  ∀ n, routePort s dst = some n → linkReady s n 3 = true → flitSent n
    { mtype := mtMCTL, dst := dst, src := s.ownId, dn := (s.route dst).dn, tag := reel, param := op, data := args.flatMap (leBytes 8) } s t

/-- Nothing changed but the records of pairs, what was sent to peers and its count, and what is held for the host. -/
def onlyPairs (s t : State) : Prop := t = { s with pairs := t.pairs, links := t.links, obs := t.obs, host := t.host, reels := t.reels }

/-- One reel's mirror changed, into `m`. -/
def onlyMir (reel : Nat) (m : Mirror) (s t : State) : Prop := t.mir reel = m ∧ (∀ k, k ≠ reel → t.mir k = s.mir k) ∧ t.pairs = { s.pairs with mir := t.pairs.mir }

/-- One partner slot changed, into `p`. -/
def onlyPmir (k : Nat) (p : PMirror) (s t : State) : Prop := t.pmir k = p ∧ (∀ j, j ≠ k → t.pmir j = s.pmir j) ∧ t.pairs = { s.pairs with pmir := t.pairs.pmir }

/-- A step of a group has resolved here: it is BUSY no more, LAST and its commit word say how, and none of the TOLLs of the step is left
(R252, R260). -/
def resolved (s : State) (g tag : Nat) (set : Bool) (t : State) : Prop :=
  let x := s.group g
  (t.group g).busy = false ∧ (t.group g).last = set ∧ (t.commitWord g).done = tag ∧ (t.commitWord g).res = set ∧ (t.commitWord g).v = true ∧
  ∀ id ∈ (if x.busy then x.resolving else x.joined), t.bop id = none

/-- A member of a bound group has sent the OR of its own and its children's contributions to its parent, over a ready port, with the largest
leg known to it (R320). -/
def wentUp (s : State) (g rank tag : Nat) (set : Bool) (leg : Nat) (t : State) : Prop :=
  let x := s.group g
  let d := x.members.getD ((rank - 1) / 64) 0
  let legs := legsTo ((kidsOf x.members.length rank ++ [(rank - 1) / 64]).map (fun k => x.members.getD k 0)) s
  ∀ n, routePort s d = some n → linkReady s n 3 = true →
    flitSent n { tollMsg s mtTOLLUP d x.digest tag [rank, b2n set, Nat.max leg legs.1] with dn := (s.route d).dn } s t

/-! ### Vector results -/

/-- A vector instruction of thread r whose beats serve no cue and are not counted: the counters are off, and no admitted cue
covers the thread. -/
def plainVector (s : State) (r : TRef) : Bool :=
  !s.obs.cntEn && (s.cueIn (s.thread r).reel (s.thread r).cueSlot).isNone

/-- An element-wise result of width w under the form's mask (R129, R130): element e of VD is `val e` where the mask holds for the
element's lane, else 0 under Z and the old element otherwise; the flags raised are those of the unmasked elements (R72); the
instruction succeeds and changes nothing else of its thread or of the device. -/
def vectorResult (r : TRef) (f : VForm) (w : Nat) (val : Nat → Nat × Flags4) (s t : State) : Prop :=
  let th := s.thread r
  let on := fun e => bitOf (th.mreg f.mm.toNat) (e * w / 32)
  ∃ (y : VReg) (fl : BitVec 4),
    onlyThread r ({ th.setV f.vd.toNat y with flags := th.flags ||| fl }.completed 0 (lenOf f.x) (th.after f.x)) s t ∧
    (∀ e, e < 4096 / w → elem w y e =
      if on e then (val e).1 % 2 ^ w else if f.z then 0 else elem w (th.vreg f.vd.toNat) e) ∧
    (∀ k, k < 4 → (fl.getLsbD k = true ↔ ∃ e, e < 4096 / w ∧ on e = true ∧ (val e).2.getLsbD k = true))

/-- A result in mask register VD[2:0]: bit k is `bit k`; a write of m0 is discarded (R129). -/
def maskResult (r : TRef) (f : VForm) (bit : Nat → Bool) (s t : State) : Prop :=
  let th := s.thread r
  ∃ y : MReg, onlyThread r ((th.setM (f.vd.toNat % 8) y).completed 0 (lenOf f.x) (th.after f.x)) s t ∧ ∀ k, k < 128 → bitOf y k = bit k

end Sys2Proof.Machine
end

