-- ==== Sys2Proof/Certificates/Slice0/Obligations.lean ====
section
/-! DEFINITION. The statements for the provers. Each docstring says what its statement claims and what it rests on. -/
open Sys2Proof Sys2Proof.Machine

/-- For every state whose queue begins with the command c, step answers what exec answers for c on the state with the queue's
rest. The queue is the model's own form of the order in which the commands of the spec's table take effect (log 2). -/
def Obligations.StepRunsFrontCommand : Prop :=
  ∀ (c : Instr) (rest : List Instr) (s : State), s.pending = c :: rest → step s = exec c { s with pending := rest }

/-- With no command waiting, step answers a next state whose REFCLK-timed count stands one higher, and so does its Slate count where
nothing slews it; a slewed count goes on by none or by 2 where 10,000 ns have passed since it last did, which takes one tick off the slew
(R370, R371), and by 1 otherwise. The queue stays empty, and every tile but for its programmable counters, every core, byte of memory, register of the links, of the
host interface and of power and of the observation unit but for the base-die counters stays as it is; with CNT_EN 0 the
counters stay too. That an empty queue's step is one tick is the model's choice (log 2). -/
def Obligations.EmptyQueueTicks : Prop :=
  ∀ s : State, s.pending = [] → ∃ t, step s = .next t ∧ t.time.ref = s.time.ref + 1 ∧
    ((s.time.slew = 0 ∨ s.time.ref < s.time.slewAt + 10000) → t.time = { s.time with tmb := s.time.tmb + 1, ref := s.time.ref + 1 }) ∧
    (0 < s.time.slew → s.time.slewAt + 10000 ≤ s.time.ref →
      t.time = { s.time with tmb := s.time.tmb + 2, ref := s.time.ref + 1, slew := s.time.slew - 1, slewAt := s.time.ref }) ∧
    (s.time.slew < 0 → s.time.slewAt + 10000 ≤ s.time.ref →
      t.time = { s.time with ref := s.time.ref + 1, slew := s.time.slew + 1, slewAt := s.time.ref }) ∧
    t.pending = [] ∧ t.tiles.map (fun T => (T.1, { T.2 with pmc := [] })) = s.tiles.map (fun T => (T.1, { T.2 with pmc := [] })) ∧
    t.obs = { s.obs with base := t.obs.base } ∧ (s.obs.cntEn = false → t.tiles = s.tiles ∧ t.obs = s.obs) ∧
    t.cores = s.cores ∧ t.mem = s.mem ∧ t.undef = s.undef ∧ t.poison = s.poison ∧
    t.links = s.links ∧ t.host = s.host ∧ t.pow = s.pow ∧ sameBytes s t

/-- At reset: TIL_TCS of every thread is STBY 0 and HALTM 0x44, TIL_TSTAT and TIL_TFLG are 0, every scalar, vector and
descriptor register reads 0 and m0 all ones (Tables 5.4 to 5.8); TIL_TBLCTL and TIL_LRNG_INFO are 0 and TIL_RUNAHEAD has EN 1,
DIST 16 and SLOTS 16 (Tables 3.6, 3.9, 5.17); every reel is FREE with a zero seed (Tables 5.2, 5.3); MEM_XLAT_ROOT has AMISS_TMO
100 and MEM_PKEY is 0 (Table 7.8); GRP_LINKCFG is 100 and 1,000, the device ID 0xFFF, and every port DOWN with SPARE 15 and credits
192, 192, 384 and 64 (Tables 10.1, 10.3, 10.6, 10.8); GAF_CAP holds 2,500, 1,800, 0 and 2,500 and GAF_OP point OP-F, duty 16 and
660 mV, GAF_PHASE.MAP 0xAAAA (Tables 11.2 to 11.4); the root flag of TMB_STAT is 1, and DIR_FLOOR is OP-F thrice (Tables 12.1, 12.3);
every split function is in H mode (R43). The queue is empty and the build PH7-T are the model's own choices (logs 2, 6). -/
def Obligations.ResetRegisterValues : Prop :=
  let s := State.reset
  s.pending = [] ∧ s.build = .t ∧
  (∀ r : TRef, (s.thread r).tcs = 0x88 ∧ (s.thread r).tstat = 0 ∧ (s.thread r).tflg = 0 ∧ (s.thread r).live = false ∧
    (∀ n, (s.thread r).sreg n = 0 ∧ (s.thread r).vreg n = 0 ∧ (s.thread r).dreg n = 0) ∧ (s.thread r).mreg 0 = BitVec.allOnes 128) ∧
  (∀ n, (s.tile n).runahead = 0x1021 ∧ (s.tile n).lrng = 0 ∧ (s.tile n).rtActive = 0 ∧ (s.tile n).cbActive = 0 ∧
    (s.tile n).rtPend = false ∧ (s.tile n).cbPend = false ∧ (s.tile n).rtRefused = false ∧ ∀ h, mfind (s.tile n).sets h = none) ∧
  (∀ n, (s.reel n).state = 0 ∧ (s.reel n).allot = 0 ∧ (s.reel n).seed = 0 ∧ (s.reel n).cq.cnt = 1 ∧ (s.reel n).cq.en = false) ∧
  s.xl.tmo = 100 ∧ s.xl.root = 0 ∧ s.xl.pkey = 0 ∧
  s.links.reqTmo = 100 ∧ s.links.collTmo = 1000 ∧ s.links.devid = 0xFFF ∧ s.links.claimed = false ∧
  (∀ n, (s.port n).st = 0 ∧ (s.port n).spare = 15 ∧ (s.port n).credits = [192, 192, 384, 64]) ∧ (∀ d, (s.route d).v = false) ∧
  s.pow.cap = 2500 ∧ s.pow.urgentCap = 1800 ∧ s.pow.board = 0 ∧ s.pow.inforce = 2500 ∧ s.pow.op = 1 ∧ s.pow.duty = 16 ∧
  s.pow.varrMv = 660 ∧ s.pow.map = 0xAAAA ∧ (∀ n, (s.dom n).st = 0) ∧
  s.time.tmb = 0 ∧ s.time.root = true ∧ s.time.aligned = false ∧ s.floor.req = 1 ∧ s.floor.adm = 1 ∧ s.floor.held = 1 ∧
  (∀ f, s.aMode f = false ∧ (s.split f).req = false ∧ (s.split f).pend = false) ∧ s.sec.level = 0 ∧ s.obs.cntEn = false ∧
  s.obs.trcEn = false

/-- The model's choices at reset, each named in log 4: a core's registers and its PC are 0, it stands at firmware level (C_PRIV
0b11) with PPRIV 0b11 (this one Table 6.12's), interrupts off, and no interrupt pending; a thread's PC is 0. An unlisted byte of
memory reads as 0 (log 3). A core register s0 reads as 0 whatever is written. -/
def Obligations.ResetChosenValues : Prop :=
  let s := State.reset
  (∀ p c, (s.core p c).priv = 3 ∧ (s.core p c).ppriv = 3 ∧ (s.core p c).ie = false ∧ (s.core p c).pie = false ∧ (s.core p c).pc = 0 ∧
    (s.core p c).pend = [] ∧ (s.core p c).cause = 0 ∧ ∀ n, (s.core p c).sreg n = 0) ∧
  (∀ r : TRef, (s.thread r).pc = 0) ∧ (∀ a, s.byte a = 0) ∧ (∀ (k : Core) (v : W64), (k.setS 0 v).sreg 0 = 0)

/-- The reset state meets the invariant of memory: its list of bytes is in the one canonical form (the model's own form, log 3). -/
def Obligations.ResetMemoryCanonical : Prop := State.Inv State.reset

/-- Of a thread, s0 reads as 0 and m0 as all ones, a write of either changes nothing at all, and a write of any other
scalar or mask register reads back while every other register keeps its value (Table 5.8, R129). -/
def Obligations.HardWiredRegisters : Prop :=
  (∀ (t : Thread) (v : W64), t.setS 0 v = t ∧ t.sreg 0 = 0) ∧ (∀ (t : Thread) (v : MReg), t.setM 0 v = t ∧ t.mreg 0 = BitVec.allOnes 128) ∧
  (∀ (t : Thread) (n k : Nat) (v : W64), n ≠ 0 → (t.setS n v).sreg n = v ∧ (k ≠ n → (t.setS n v).sreg k = t.sreg k)) ∧
  (∀ (t : Thread) (n k : Nat) (v : MReg), n ≠ 0 → (t.setM n v).mreg n = v ∧ (k ≠ n → (t.setM n v).mreg k = t.mreg k))

/-- For every function of the opcode map (Table 6.4) with its opcode and function number, for whoever issues it and for every
value of every field of its format (Tables 6.1 to 6.3), decoding the base word that the format packs, together with the
extension word, gives that instruction with those fields; and bit 8 of the word says whether an extension word follows.
Words are what a debug session's STEP decodes (R463). -/
def Obligations.DecodeOfEncode : Prop :=
  (∀ p ∈ ([(0x00, 0x00, .nop), (0x00, 0x01, .endT), (0x00, 0x02, .ecall), (0x00, 0x03, .eret), (0x00, 0x04, .wfi), (0x00, 0x05, .fence),
      (0x01, 0x00, .add), (0x01, 0x01, .sub), (0x01, 0x02, .and), (0x01, 0x03, .or), (0x01, 0x04, .xor), (0x01, 0x05, .sll),
      (0x01, 0x06, .srl), (0x01, 0x07, .sra), (0x01, 0x08, .slt), (0x01, 0x09, .sltu), (0x01, 0x0A, .min), (0x01, 0x0B, .max),
      (0x01, 0x0C, .mul), (0x01, 0x0D, .mulhu), (0x02, 0x00, .beq), (0x02, 0x01, .bne), (0x02, 0x02, .blt), (0x02, 0x03, .bge),
      (0x02, 0x04, .bltu), (0x02, 0x05, .bgeu), (0x02, 0x08, .j), (0x02, 0x09, .jr), (0x03, 0x00, .csrr), (0x03, 0x01, .csrw),
      (0x04, 0x00, .ldxB), (0x04, 0x01, .ldxH), (0x04, 0x02, .ldxW), (0x04, 0x03, .ldxL), (0x04, 0x04, .ldxD),
      (0x05, 0x00, .stxB), (0x05, 0x01, .stxH), (0x05, 0x02, .stxW), (0x05, 0x03, .stxL), (0x05, 0x04, .stxD),
      (0x06, 0x00, .semAdd), (0x06, 0x01, .semSwap), (0x06, 0x02, .semCas), (0x06, 0x03, .semRead),
      (0x07, 0x00, .waitTok), (0x07, 0x01, .waitTokall), (0x07, 0x02, .waitMem), (0x07, 0x03, .waitTime),
      (0x08, 0x00, .bar), (0x09, 0x00, .dset), (0x10, 0x00, .cue), (0x10, 0x01, .endcue), (0x10, 0x02, .phase), (0x10, 0x03, .clap),
      (0x11, 0x00, .upd), (0x11, 0x01, .rdw), (0x11, 0x02, .coll), (0x11, 0x03, .perm), (0x11, 0x04, .scrub), (0x11, 0x05, .toll)] :
      List (Nat × Nat × (Who → SForm → Instr))), ∀ w f,
    decodeIdmon w (packS p.1 p.2.1 f) f.x = some (p.2.2 w f) ∧ wordHasExt (packS p.1 p.2.1 f) = f.x.isSome) ∧
  (∀ p ∈ ([(0x20, 0x00, .mmaOpen), (0x20, 0x01, .mmaCont), (0x21, 0x00, .rsc), (0x22, 0x00, .cpyl), (0x23, 0x00, .ldxS),
      (0x24, 0x00, .stxS)] : List (Nat × Nat × (Who → DForm → Instr))), ∀ w f,
    decodeIdmon w (packD p.1 p.2.1 f) f.x = some (p.2.2 w f) ∧ wordHasExt (packD p.1 p.2.1 f) = f.x.isSome) ∧
  (∀ p ∈ ([(0x30, 0x00, .ldxV), (0x30, 0x01, .ldxVI), (0x31, 0x00, .stxV), (0x31, 0x01, .stxVI),
      (0x40, 0x00, .vadd), (0x40, 0x01, .vsub), (0x40, 0x02, .vmul), (0x40, 0x03, .vmax), (0x40, 0x04, .vmin), (0x40, 0x05, .vfma),
      (0x40, 0x06, .vabs), (0x40, 0x07, .vneg), (0x40, 0x08, .vmov), (0x40, 0x09, .vsel),
      (0x41, 0x00, .vcmpEq), (0x41, 0x01, .vcmpNe), (0x41, 0x02, .vcmpLt), (0x41, 0x03, .vcmpLe), (0x41, 0x04, .vcmpGt),
      (0x41, 0x05, .vcmpGe), (0x41, 0x06, .vcmpUn), (0x42, 0x00, .vand), (0x42, 0x01, .vor), (0x42, 0x02, .vxor), (0x42, 0x03, .vshl),
      (0x42, 0x04, .vshr), (0x42, 0x05, .viadd), (0x43, 0x00, .vmand), (0x43, 0x01, .vmor), (0x43, 0x02, .vmxor), (0x43, 0x03, .vmnot),
      (0x43, 0x04, .vmpop), (0x44, 0x00, .vins), (0x44, 0x01, .vext), (0x44, 0x02, .vidx), (0x45, 0x00, .vshf), (0x46, 0x00, .vcvt),
      (0x47, 0x00, .vsfnExp2), (0x47, 0x01, .vsfnLog2), (0x47, 0x02, .vsfnRsqrt), (0x47, 0x03, .vsfnRcp), (0x47, 0x04, .vsfnTanh),
      (0x47, 0x05, .vsfnErf)] : List (Nat × Nat × (Who → VForm → Instr))), ∀ w f,
    decodeIdmon w (packV p.1 p.2.1 f) f.x = some (p.2.2 w f) ∧ wordHasExt (packV p.1 p.2.1 f) = f.x.isSome)

/-- For each of ADD, SUB, AND, OR, XOR, SLL, SRL, SRA, SLT, SLTU, MIN, MAX, MUL and MULHU, every thread and every field: when the
thread may issue it, none of its registers is owed by a load, and an extension word stands only with I = 1, exec answers a next
state in which RD holds the function of RA and b that Table 6.5 gives (b is RB, IMM16 sign-extended or the extension word; a write of
s0 is discarded), the status is success and the PC names the next instruction. Nothing else changes but the count of issued
instructions: no other register, no numeric flag, no other thread, no byte of memory. On a core that executes and whose fetch brings the words, RD takes the same function,
the PC names the next instruction, and nothing else changes; NOP there writes no register. -/
def Obligations.ScalarOps : Prop :=
  (∀ p ∈ ([(.add, fun a b => a + b), (.sub, fun a b => a - b), (.and, fun a b => a &&& b), (.or, fun a b => a ||| b),
      (.xor, fun a b => a ^^^ b), (.sll, fun a b => BitVec.ofNat 64 (a.toNat * 2 ^ (b.toNat % 64))),
      (.srl, fun a b => BitVec.ofNat 64 (a.toNat / 2 ^ (b.toNat % 64))), (.sra, fun a b => BitVec.ofInt 64 (a.toInt / 2 ^ (b.toNat % 64))),
      (.slt, fun a b => if a.toInt < b.toInt then 1 else 0), (.sltu, fun a b => if a.toNat < b.toNat then 1 else 0),
      (.min, fun a b => if a.toInt ≤ b.toInt then a else b), (.max, fun a b => if a.toInt ≤ b.toInt then b else a),
      (.mul, fun a b => BitVec.ofNat 64 (a.toNat * b.toNat)), (.mulhu, fun a b => BitVec.ofNat 64 (a.toNat * b.toNat / 2 ^ 64))] :
      List ((Who → SForm → Instr) × (W64 → W64 → W64))),
    ∀ (r : TRef) (f : SForm) (s : State), (f.x.isNone || f.i) = true → ready s r (aluRegs f) = true →
      let th := s.thread r
      let b := if f.i then f.x.getD (f.imm.signExtend 64) else th.sreg f.rb.toNat
      runs (p.1 (.t r) f) s
        (onlyThread r ((th.setS f.rd.toNat (p.2 (th.sreg f.ra.toNat) b)).completed 0 (lenOf f.x) (th.after f.x)) s)) ∧
  (∀ p ∈ ([(.add, fun a b => a + b), (.sub, fun a b => a - b), (.and, fun a b => a &&& b), (.or, fun a b => a ||| b),
      (.xor, fun a b => a ^^^ b), (.sll, fun a b => BitVec.ofNat 64 (a.toNat * 2 ^ (b.toNat % 64))),
      (.srl, fun a b => BitVec.ofNat 64 (a.toNat / 2 ^ (b.toNat % 64))), (.sra, fun a b => BitVec.ofInt 64 (a.toInt / 2 ^ (b.toNat % 64))),
      (.slt, fun a b => if a.toInt < b.toInt then 1 else 0), (.sltu, fun a b => if a.toNat < b.toNat then 1 else 0),
      (.min, fun a b => if a.toInt ≤ b.toInt then a else b), (.max, fun a b => if a.toInt ≤ b.toInt then b else a),
      (.mul, fun a b => BitVec.ofNat 64 (a.toNat * b.toNat)), (.mulhu, fun a b => BitVec.ofNat 64 (a.toNat * b.toNat / 2 ^ 64))] :
      List ((Who → SForm → Instr) × (W64 → W64 → W64))),
    ∀ (n c : Nat) (f : SForm) (s : State), (f.x.isNone || f.i) = true → coreRuns s n c f.x = true →
      let k := s.core n c
      let b := if f.i then f.x.getD (f.imm.signExtend 64) else k.sreg f.rb.toNat
      runs (p.1 (.c n c) f) s (onlyCore n c { k.setS f.rd.toNat (p.2 (k.sreg f.ra.toNat) b) with pc := k.after f.x } s)) ∧
  (∀ (n c : Nat) (f : SForm) (s : State), f.x = none → coreRuns s n c none = true →
    runs (.nop (.c n c) f) s (onlyCore n c { s.core n c with pc := (s.core n c).pc + 8 } s))

/-- For each of BEQ, BNE, BLT, BGE, BLTU and BGEU of a thread that may issue it, without an extension word:
with I = 0 the PC becomes PC + 8 times sign-extended IMM16 and the fetched words are discarded when RA
compares with RB (signed for BLT and BGE), and PC + 8 otherwise, with success; no register changes. With I = 1, and a mask that
does not halt on class 0x04, it completes with FORM_MISMATCH at PC + 8. Nothing else changes.
J with X = 0 goes to PC + 8 times sign-extended IMM16, J with X = 1 to bits [51:0] of the extension word, JR to RA plus
sign-extended IMM16. When the target is a multiple of 8, RD takes the address of the next instruction, the PC the target, the
fetched words are discarded, and the status is success. Otherwise, under a mask that does not halt on class 0x03, the jump
completes with MISALIGNED and neither RD nor the PC changes (the PC stays at the jump, R182 and R532). No other register, flag or
byte of memory changes. While counters run, the tile's counters that select branches count it (Table 17.5). -/
def Obligations.BranchesAndJumps : Prop :=
  (∀ p ∈ ([(.beq, fun a b => a = b), (.bne, fun a b => a ≠ b), (.blt, fun a b => a.toInt < b.toInt), (.bge, fun a b => b.toInt ≤ a.toInt),
      (.bltu, fun a b => a.toNat < b.toNat), (.bgeu, fun a b => b.toNat ≤ a.toNat)] : List ((Who → SForm → Instr) × (W64 → W64 → Prop))),
    ∀ (r : TRef) (f : SForm) (s : State), f.x = none → ready s r [.s f.ra.toNat, .s f.rb.toNat] = true →
      let th := s.thread r
      let u := cntPmc r.tile 0x17 th.reel 1 s
      (f.i = false → p.2 (th.sreg f.ra.toNat) (th.sreg f.rb.toNat) →
        runs (p.1 (.t r) f) s (onlyThread r { th.completed 0 1 (th.pc + f.imm.signExtend 64 * 8) with fetched := [], fetchFill := none } u)) ∧
      (f.i = false → ¬ p.2 (th.sreg f.ra.toNat) (th.sreg f.rb.toNat) →
        runs (p.1 (.t r) f) s (onlyThread r (th.completed 0 1 (th.pc + 8)) u)) ∧
      (f.i = true → th.haltsOn stFormMismatch = false →
        runs (p.1 (.t r) f) s (onlyThread r (th.completed stFormMismatch 1 (th.pc + 8)) u))) ∧
  (∀ (r : TRef) (f : SForm) (s : State),
    let th := s.thread r
    let u := cntPmc r.tile 0x17 th.reel 1 s
    let link := th.setS f.rd.toNat (th.after f.x)
    (∀ dest : W64, dest = (match f.x with
        | some x => x &&& 0xFFFFFFFFFFFFF
        | none => th.pc + f.imm.signExtend 64 * 8) → ready s r [.s f.rd.toNat] = true →
      (dest.toNat % 8 = 0 → runs (.j (.t r) f) s
        (onlyThread r { link.completed 0 (lenOf f.x) dest with fetched := [], fetchFill := none } u)) ∧
      (dest.toNat % 8 ≠ 0 → th.haltsOn stMisaligned = false → runs (.j (.t r) f) s
        (onlyThread r (th.completed stMisaligned 0 th.pc) u))) ∧
    (∀ dest : W64, dest = th.sreg f.ra.toNat + f.imm.signExtend 64 → f.x = none → ready s r [.s f.rd.toNat, .s f.ra.toNat] = true →
      (dest.toNat % 8 = 0 → runs (.jr (.t r) f) s (onlyThread r { link.completed 0 1 dest with fetched := [], fetchFill := none } u)) ∧
      (dest.toNat % 8 ≠ 0 → th.haltsOn stMisaligned = false → runs (.jr (.t r) f) s
        (onlyThread r (th.completed stMisaligned 0 th.pc) u))))

/-- NOP completes with success and changes nothing but the PC. END of a thread that is no helper and has no operation in progress,
while another thread of its sequence lives, frees the thread: it is no longer live and its registers read 0, its sequence counts
it as ended and keeps its status, and no byte of memory changes. END of a thread with an operation in progress is held. -/
def Obligations.NopAndEnd : Prop :=
  (∀ (r : TRef) (f : SForm) (s : State), f.x = none → ready s r [] = true →
    runs (.nop (.t r) f) s (onlyThread r ((s.thread r).completed 0 1 ((s.thread r).pc + 8)) s)) ∧
  (∀ (r : TRef) (f : SForm) (s : State) (q : Seq), f.x = none → ready s r [] = true → busyOps s r = false →
    (s.thread r).helper = false → s.seq (s.thread r).reel (s.thread r).slot = some q → (q.live.filter (fun x => x != r)) ≠ [] →
    runs (.endT (.t r) f) s (fun t => (t.thread r).live = false ∧ (∀ n, (t.thread r).sreg n = 0) ∧
      t.seq (s.thread r).reel (s.thread r).slot = some { q with live := q.live.filter (fun x => x != r) } ∧
      (∀ k, k ≠ r → t.thread k = s.thread k) ∧ sameBytes s t)) ∧
  (∀ (r : TRef) (f : SForm) (s : State), f.x = none → ready s r [] = true → busyOps s r = true →
    runs (.endT (.t r) f) s (fun t => (t.thread r).live = true ∧ (t.thread r).held = some ⟨.endT (.t r) f, .endOps⟩ ∧
      (t.thread r).pc = (s.thread r).pc ∧ sameBytes s t))

/-- ECALL saves the PC in C_EPC, ECALL_TRAP in C_CAUSE, IE in PIE and the level in PPRIV, clears IE, and enters the target level
at its vector (Table 6.13): supervisor from user level, firmware otherwise. ERET at supervisor or firmware level with no interrupt
pending sets the level to PPRIV, IE to PIE and the PC to C_EPC; WFI there holds the core exactly while no interrupt is pending, and
goes to the next instruction; both at user level take PRIV_FAULT. FENCE discards the fetched words and goes on. An interrupt that
arises at a core that exists is added to those pending and ends a WFI; with IE at user or supervisor level and no other pending, and
no access outstanding, it enters the supervisor's handler instead, C_EPC naming the next instruction. A fetch that fails raises the
exception of its status in the instruction's place (R171). Nothing else changes. -/
def Obligations.CoreControl : Prop :=
  (∀ (n c : Nat) (f : SForm) (s : State), f.x = none → coreRuns s n c none = true →
    let k := s.core n c
    runs (.ecall (.c n c) f) s (onlyCore n c { k with
      epc := k.pc, cause := 0x0702, pie := k.ie, ppriv := k.priv, ie := false, priv := if k.priv = 0 then 1 else 3,
      pc := if k.priv = 0 then k.tvecS else k.tvecF } s) ∧
    (k.priv ≠ 0 → k.pend = [] → runs (.eret (.c n c) f) s (onlyCore n c { k with priv := k.ppriv, ie := k.pie, pc := k.epc } s)) ∧
    (k.priv ≠ 0 → runs (.wfi (.c n c) f) s (onlyCore n c { k with wfi := k.pend.isEmpty, pc := k.pc + 8 } s)) ∧
    (k.priv = 0 → ∀ i ∈ ([.eret (.c n c) f, .wfi (.c n c) f] : List Instr), runs i s (onlyCore n c { k with
      epc := k.pc, cause := 0x0701, pie := k.ie, ppriv := 0, ie := false, priv := 1, pc := k.tvecS } s)) ∧
    runs (.fence (.c n c) f) s (onlyCore n c { k with fetched := [], pc := k.pc + 8 } s)) ∧
  (∀ i ∈ ([.nop, .add, .csrr, .j, .ldxD, .semAdd, .ecall, .eret, .wfi, .fence, .upd] : List (Who → SForm → Instr)),
    ∀ (n c : Nat) (f : SForm) (s : State) (st : Status), coreReady s n c = true → coreFetchBad s n c (lenOf f.x) = some st →
    let k := s.core n c
    runs (i (.c n c) f) s (onlyCore n c { k with
      epc := k.pc, cause := st, pie := k.ie, ppriv := k.priv, ie := false, priv := if k.priv = 0 then 1 else 3,
      pc := if k.priv = 0 then k.tvecS else k.tvecF } s)) ∧
  (∀ (n c : Nat) (st : Status) (s : State), c < coresOf n →
    let k := s.core n c
    ((k.ie = false ∨ k.priv = 3) → runs (.interrupt n c (some st)) s
      (onlyCore n c { k with pend := k.pend ++ [st], wfi := false } s)) ∧
    (k.ie = true → (k.priv = 0 ∨ k.priv = 1) → k.busy = false → k.pend = [] → runs (.interrupt n c (some st)) s
      (onlyCore n c { k with wfi := false, epc := k.pc, cause := st, pie := true, ppriv := k.priv, ie := false, priv := 1, pc := k.tvecS } s)))

/-- An instruction of Idmon-T alone on a core that executes it raises the exception ILLEGAL_OP and has no other effect; an
instruction of Idmon-C alone (ECALL, ERET, WFI, FENCE) on a thread that can issue completes with ILLEGAL_OP: LAST records it, the
thread halts, and no register of the thread changes. Stated for END, BAR, DSET, PHASE, CLAP, the WAITs, the token instructions
of format S, and the four of Idmon-C. -/
def Obligations.WrongProfileIsIllegal : Prop :=
  (∀ i ∈ ([.endT, .bar, .dset, .phase, .clap, .waitTok, .waitTokall, .waitMem, .waitTime, .upd, .rdw, .coll, .perm, .scrub, .toll,
      .cue, .endcue, .ldxD, .stxD] : List (Who → SForm → Instr)), ∀ (n c : Nat) (f : SForm) (s : State), coreRuns s n c f.x = true →
    let k := s.core n c
    runs (i (.c n c) f) s (onlyCore n c { k with
      epc := k.pc, cause := 0x0405, pie := k.ie, ppriv := k.priv, ie := false, priv := if k.priv = 0 then 1 else 3,
      pc := if k.priv = 0 then k.tvecS else k.tvecF } s)) ∧
  (∀ i ∈ ([.ecall, .eret, .wfi, .fence] : List (Who → SForm → Instr)), ∀ (r : TRef) (f : SForm) (s : State) (q : Seq),
    canIssue s r = true → (s.thread r).helper = false → s.seq (s.thread r).reel (s.thread r).slot = some q →
    (q.live.filter (fun x => x != r)) ≠ [] →
    runs (i (.t r) f) s (fun t => (t.thread r).halted = true ∧ (t.thread r).last = 0x0405 ∧ (t.thread r).s = (s.thread r).s ∧
      (t.thread r).v = (s.thread r).v ∧ (t.thread r).m = (s.thread r).m ∧ (t.thread r).d = (s.thread r).d ∧
      (t.thread r).flags = (s.thread r).flags ∧ sameBytes s t))

/-- CSRR of a thread writes to RD the Slate count for 0x010, and for 0x100, 0x101, 0x102, 0x111 and 0x112 the fields of TIL_TCS, TIL_TSTAT,
TIL_TFLG, TIL_RUNAHEAD and TIL_LRNG_INFO at the bits that their tables give. CSRW of TIL_TSTAT clears FV when bit 32 is 1 and changes
nothing of TIL_TSTAT's other fields before the write's own status is recorded; of TIL_TFLG it clears the flags written as 1; of TIL_LRNG_INFO it clears
VALID when bit 0 is 1; of TIME it changes nothing. A number that Table 6.6 does not list gives FORM_MISMATCH and leaves RD as it was. -/
def Obligations.ControlStateMoves : Prop :=
  ∀ (r : TRef) (f : SForm) (s : State), f.x = none →
    let th := s.thread r
    let T := s.tile r.tile
    let n := f.imm.toNat % 4096
    (ready s r [.s f.rd.toNat] = true →
      (∀ p ∈ ([(0x010, s.time.tmb), (0x100, BitVec.ofNat 64 ((if th.stby then 1 else 0) + 2 * th.haltm.toNat)),
          (0x101, BitVec.ofNat 64 (th.last.toNat + 2 ^ 16 * th.first.toNat + 2 ^ 32 * (if th.fv then 1 else 0))),
          (0x102, BitVec.ofNat 64 th.flags.toNat),
          (0x111, BitVec.ofNat 64 ((if T.raEn then 1 else 0) + 2 * T.raDist + 2 ^ 8 * T.raSlots)),
          (0x112, BitVec.ofNat 64 ((if T.lrValid then 1 else 0) + 2 * T.lrHandle + 2 ^ 4 * T.lrRow + 2 ^ 11 * T.lrCol + 2 ^ 18 * T.lrThread))] :
          List (Nat × W64)), n = p.1 →
        runs (.csrr (.t r) f) s (onlyThread r ((th.setS f.rd.toNat p.2).completed 0 1 (th.pc + 8)) s)) ∧
      (n ∉ ([0x010, 0x100, 0x101, 0x102, 0x110, 0x111, 0x112] : List Nat) → th.haltsOn stFormMismatch = false →
        runs (.csrr (.t r) f) s (onlyThread r (th.completed stFormMismatch 1 (th.pc + 8)) s))) ∧
    (ready s r [.s f.ra.toNat] = true →
      let v := th.sreg f.ra.toNat
      (n = 0x010 → runs (.csrw (.t r) f) s (onlyThread r (th.completed 0 1 (th.pc + 8)) s)) ∧
      (n = 0x101 → runs (.csrw (.t r) f) s
        (onlyThread r (({ th with fv := th.fv && !bitOf v 32 }).completed 0 1 (th.pc + 8)) s)) ∧
      (n = 0x102 → runs (.csrw (.t r) f) s
        (onlyThread r (({ th with flags := th.flags &&& ~~~(v.setWidth 4) }).completed 0 1 (th.pc + 8)) s)) ∧
      (n = 0x112 → runs (.csrw (.t r) f) s (fun t => t.thread r = th.completed 0 1 (th.pc + 8) ∧
        (t.tile r.tile).lrValid = (T.lrValid && !bitOf v 0) ∧ (t.tile r.tile).lrHandle = T.lrHandle ∧ onlyTile r.tile s t ∧ sameBytes s t)) ∧
      (n ∉ ([0x010, 0x100, 0x101, 0x102, 0x110, 0x111, 0x112] : List Nat) → th.haltsOn stFormMismatch = false →
        runs (.csrw (.t r) f) s (onlyThread r (th.completed stFormMismatch 1 (th.pc + 8)) s)))

/-- Of a tile whose array has an instruction in progress, RT_SWAP and CB_SWAP leave their swap pending and change nothing else. With
none in progress, RT_SWAP with no other swap pending makes the other copy of the rescale table active when its shadow copy has
at most 256 entries with the T bit, and otherwise is refused: RT_REFUSED is set and the active copy stays. CB_SWAP then makes the
other codebook copy active. TABLE_SWAP does at the boundary what a pending swap asks, and what waited for it goes on. The tables' entries
never change. A copy number is 0 or 1 in every state that a run reaches, and is assumed so. -/
def Obligations.TableSwaps : Prop :=
  ∀ (n : Nat) (s : State),
    let T := s.tile n
    (T.arrayBusy = true → runs (.rtSwap n) s (fun t => t = s.setTile n { T with rtPend := true }) ∧
      runs (.cbSwap n) s (fun t => t = s.setTile n { T with cbPend := true })) ∧
    (T.arrayBusy = false → T.cbPend = false → T.tCount ≤ 256 →
      runs (.rtSwap n) s (fun t => t = s.setTile n { T with rtPend := false, rtActive := 1 - T.rtActive })) ∧
    (T.arrayBusy = false → T.cbPend = false → 256 < T.tCount →
      runs (.rtSwap n) s (fun t => t = s.setTile n { T with rtPend := false, rtRefused := true })) ∧
    (T.arrayBusy = false → T.rtPend = false →
      runs (.cbSwap n) s (fun t => t = s.setTile n { T with cbPend := false, cbActive := 1 - T.cbActive })) ∧
    (T.rtPend = true → T.cbPend = true → T.tCount ≤ 256 → runsWake (.tableSwap n) s (fun t =>
      t = s.setTile n { T with rtPend := false, rtActive := 1 - T.rtActive, cbPend := false, cbActive := 1 - T.cbActive })) ∧
    (T.rtPend = true → T.cbPend = false → 256 < T.tCount → runsWake (.tableSwap n) s (fun t =>
      t = s.setTile n { T with rtPend := false, rtRefused := true }))

/-- A write of STBY 0 of a live thread clears STBY; of STBY 1, once no work of the thread holds a slot or can take one, sets it when fewer than four other live
threads of the tile stand by, and leaves it at 0 when four do; a write of 1 while such work is in progress changes nothing. Nothing else
of the thread or of the device changes. -/
def Obligations.StandbyWrite : Prop :=
  ∀ (r : TRef) (s : State), (s.thread r).live = true →
    let others := ((s.tile r.tile).threads.filter (fun x => x.1 != r.th && x.2.live && x.2.stby)).length
    runs (.stbyWrite r false) s (fun t => t.thread r = { s.thread r with stby := false } ∧ onlyTile r.tile s t ∧ sameBytes s t) ∧
    (slotWork s r = false → others < 4 →
      runs (.stbyWrite r true) s (fun t => t.thread r = { s.thread r with stby := true } ∧ onlyTile r.tile s t ∧ sameBytes s t)) ∧
    (slotWork s r = false → 4 ≤ others →
      runs (.stbyWrite r true) s (fun t => t.thread r = { s.thread r with stby := false } ∧ onlyTile r.tile s t ∧ sameBytes s t)) ∧
    (slotWork s r = true → runs (.stbyWrite r true) s (fun t => t = s))

/-- For every thread that may issue it, every value of RA and every field of the instruction, DSET writes RA into field IMM16[3:0] of
descriptor register RD[2:0], at the bits that Table 5.9 gives the fields in its order, whatever else the descriptor holds, and completes with success.
A value with bits set above the field's width, and the reserved number 15, complete with FORM_MISMATCH, and the register is unchanged (stated
for a thread whose mask does not halt it on that status). No other register, no flag and no byte of memory changes. -/
def Obligations.DsetWritesField : Prop :=
  ∀ (r : TRef) (f : SForm) (s : State), f.x = none → ready s r [.d (f.rd.toNat % 8), .s f.ra.toNat] = true →
    let th := s.thread r
    let v := (th.sreg f.ra.toNat).toNat
    let k := f.rd.toNat % 8
    (∀ p ∈ ([(0, 51, 0), (1, 55, 52), (2, 56, 56), (3, 58, 57), (4, 59, 59), (5, 61, 60), (6, 63, 62), (7, 83, 64), (8, 103, 84), (9, 123, 104),
        (10, 124, 124), (11, 147, 128), (12, 183, 148), (13, 219, 184), (14, 255, 220)] : List (Nat × Nat × Nat)), f.imm.toNat % 16 = p.1 →
      (v < 2 ^ (p.2.1 + 1 - p.2.2) → runs (.dset (.t r) f) s
        (onlyThread r ((th.setD k (setBits (th.dreg k) p.2.1 p.2.2 v)).completed 0 1 (th.pc + 8)) s)) ∧
      (2 ^ (p.2.1 + 1 - p.2.2) ≤ v → th.haltsOn stFormMismatch = false →
        runs (.dset (.t r) f) s (onlyThread r (th.completed stFormMismatch 1 (th.pc + 8)) s))) ∧
    (f.imm.toNat % 16 = 15 → th.haltsOn stFormMismatch = false →
      runs (.dset (.t r) f) s (onlyThread r (th.completed stFormMismatch 1 (th.pc + 8)) s))

/-- On a tile that runs no filler work, of a thread without run-ahead copies of peer or host memory: WAIT.TOK of a token that the thread does not hold, or whose operation has completed, completes
at once: RD takes 0 or the token's status and the token is freed. WAIT.TOKALL with every token completed frees all of them, RD
taking 0 when all succeeded. WAIT.TIME of a tick that has passed completes with the count in RD. Of a token still running, with no limit or
one still ahead, WAIT.TOK waits: RD, the PC and the tokens stay, and the wait is recorded. -/
def Obligations.WaitsOnTokensAndTime : Prop :=
  ∀ (r : TRef) (f : SForm) (s : State), f.x = none → (s.tile r.tile).foley = false → noFarCopies s r = true →
    let th := s.thread r
    let n := bitsOf (th.sreg f.ra.toNat) 3 0
    let limit := th.sreg f.rb.toNat
    (ready s r [.s f.rd.toNat, .s f.ra.toNat, .s f.rb.toNat] = true →
      (th.toks.find? (fun k => k.n == n) = none → runs (.waitTok (.t r) f) s (fun t =>
        t.thread r = (({ th with toks := th.toks.filter (fun k => k.n != n) }).setS f.rd.toNat 0).completed 0 1 (th.pc + 8) ∧ onlyTileAndWatch r s t)) ∧
      (∀ st, th.toks.find? (fun k => k.n == n) = some ⟨n, some st⟩ → runs (.waitTok (.t r) f) s (fun t =>
        t.thread r = (({ th with toks := th.toks.filter (fun k => k.n != n) }).setS f.rd.toNat (st.setWidth 64)).completed 0 1 (th.pc + 8) ∧
        onlyTileAndWatch r s t)) ∧
      (th.toks.find? (fun k => k.n == n) = some ⟨n, none⟩ → (limit = 0 ∨ s.time.tmb.toNat < limit.toNat) → runs (.waitTok (.t r) f) s (fun t =>
        t.thread r = { th with held := some ⟨.waitTok (.t r) f, .wait⟩, wait := some { rd := f.rd.toNat, cond := .tok n, limit } } ∧
        onlyTile r.tile s t ∧ sameBytes s t)) ∧
      ((th.sreg f.ra.toNat).toNat ≤ s.time.tmb.toNat → runs (.waitTime (.t r) f) s (fun t =>
        t.thread r = (th.setS f.rd.toNat s.time.tmb).completed 0 1 (th.pc + 8) ∧ onlyTileAndWatch r s t))) ∧
    (ready s r [.s f.rd.toNat, .s f.rb.toNat] = true → th.toks.all (fun k => k.done == some stOk) = true →
      runs (.waitTokall (.t r) f) s (fun t =>
        t.thread r = (({ th with toks := [] }).setS f.rd.toNat 0).completed 0 1 (th.pc + 8) ∧ onlyTileAndWatch r s t))

/-- Of a thread that waits on a tile without filler work, and has no run-ahead copies of peer or host memory: WAIT_MET on a token whose operation has completed frees it and puts its status
in RD; WAIT_EXPIRED whose limit is reached with the condition unmet completes with WAIT_EXPIRED, RD unchanged, under a mask that
does not halt on class 0x02; a condition met at that moment takes precedence. Each changes nothing where the condition is
unmet and no limit is reached, and where the thread does not wait. -/
def Obligations.WaitEnds : Prop :=
  ∀ (r : TRef) (s : State), (s.tile r.tile).foley = false → noFarCopies s r = true →
    let th := s.thread r
    (th.wait = none → runs (.waitMet r) s (fun t => t = s) ∧ runs (.waitExpired r) s (fun t => t = s)) ∧
    (∀ (w : WaitSt) (n : Nat), th.wait = some w → w.cond = .tok n →
      (∀ st, th.toks.find? (fun k => k.n == n) = some ⟨n, some st⟩ → ∀ i ∈ ([.waitMet r, .waitExpired r] : List Instr), runs i s (fun t =>
        t.thread r = (({ th with toks := th.toks.filter (fun k => k.n != n) }).setS w.rd (st.setWidth 64)).completed 0 1 (th.pc + 8) ∧
        onlyTileAndWatch r s t)) ∧
      (th.toks.find? (fun k => k.n == n) = some ⟨n, none⟩ →
        runs (.waitMet r) s (fun t => t = s) ∧
        (w.limit ≠ 0 → w.limit.toNat ≤ s.time.tmb.toNat → th.haltsOn stWaitExpired = false → runs (.waitExpired r) s (fun t =>
          t.thread r = th.completed stWaitExpired 1 (th.pc + 8) ∧ onlyTileAndWatch r s t)) ∧
        ((w.limit = 0 ∨ s.time.tmb.toNat < w.limit.toNat) → runs (.waitExpired r) s (fun t => t = s))))

/-- WAIT.MEM (a thread not on standby and without run-ahead copies of peer or host memory, on a tile without filler work and without array operands
or accesses in progress) on an aligned
word whose page the tile's cache holds with R permission, local near memory that the comparison already satisfies and that is not poisoned,
completes with the word in RD. A comparison above 3 gives FORM_MISMATCH and a word not aligned to 8 bytes MISALIGNED, each
leaving RD as it was. BAR of such a thread with a scope of at most 2 completes when every earlier access of the thread is performed, discarding the
fetched words, and is held until then; a scope above 2 gives FORM_MISMATCH. -/
def Obligations.WaitMemAndBar : Prop :=
  (∀ (r : TRef) (f : SForm) (s : State) (e : XEntry) (pa : Nat), f.x = none →
    ready s r [.s f.rd.toNat, .s f.ra.toNat, .s f.rb.toNat, .s f.rc.toNat] = true → (s.thread r).stby = false →
    let th := s.thread r
    let va := (th.sreg f.ra.toNat).toNat
    (f.sub.toNat ≤ 3 → va % 8 = 0 → (s.tile r.tile).foley = false → noFarCopies s r = true → (s.tile r.tile).ops = [] → (s.tile r.tile).mmas = [] →
      (s.tile r.tile).rscs = [] → (s.tile r.tile).cpyl = none → (s.tile r.tile).cpylWait = [] →
      (s.tile r.tile).xc.find? (fun e => e.covers va) = some e → xlate s (some r.tile) .r va = .ok pa (leafCa e.leaf) →
      s.isLocal pa = true → winOf (paLocal pa) = .near → s.poisoned (paLocal pa) 8 = false →
      waitCmp f.sub.toNat (s.word (paLocal pa)) (th.sreg f.rc.toNat) = true →
      runs (.waitMem (.t r) f) s (fun t =>
        t.thread r = (th.setS f.rd.toNat (s.word (paLocal pa))).completed 0 1 (th.pc + 8) ∧ onlyTileAndWatch r s t)) ∧
    (3 < f.sub.toNat → th.haltsOn stFormMismatch = false →
      runs (.waitMem (.t r) f) s (onlyThread r (th.completed stFormMismatch 1 (th.pc + 8)) s)) ∧
    (f.sub.toNat ≤ 3 → va % 8 ≠ 0 → th.haltsOn stMisaligned = false →
      runs (.waitMem (.t r) f) s (onlyThread r (th.completed stMisaligned 1 (th.pc + 8)) s))) ∧
  (∀ (r : TRef) (f : SForm) (s : State), f.x = none → ready s r [] = true →
    let th := s.thread r
    (f.sub.toNat ≤ 2 → barReady s r = true → noFarCopies s r = true →
      runs (.bar (.t r) f) s (onlyThread r ({ th with fetched := th.fetched.take 1, fetchFill := none }.completed 0 1 (th.pc + 8)) s)) ∧
    (f.sub.toNat ≤ 2 → barReady s r = false → runs (.bar (.t r) f) s (fun t => (t.thread r).held = some ⟨.bar (.t r) f, .bar⟩ ∧
      (t.thread r).pc = th.pc ∧ onlyTile r.tile s t ∧ sameBytes s t)) ∧
    (2 < f.sub.toNat → th.haltsOn stFormMismatch = false →
      runs (.bar (.t r) f) s (onlyThread r (th.completed stFormMismatch 1 (th.pc + 8)) s)))

/-- For LDX.B, H, W, L and D, LDX.V and LDX.VI with an unmasked lane, and LDX.S of a valid element: a thread that may issue it, not on
standby, on a tile with nothing in progress, whose checked stretches are found good and lie in this device's near memory, begins one memory
operation that owes the destination: 1, 2, 4, 8 or 32 bytes at RA + offset, 4 bytes for each unmasked lane, or the bytes from the
element to the row's last, at most 512. The thread goes on; no register, flag, status or byte of memory changes. A load
that finds a failure in the order of R225 gives its status instead and starts nothing; a vector load with I = 1 gives FORM_MISMATCH. -/
def Obligations.LoadsIssue : Prop :=
  ∀ (r : TRef) (s : State), (s.thread r).stby = false → idleTile s r.tile →
    let th := s.thread r
    (∀ p ∈ ([(.ldxB, 1), (.ldxH, 2), (.ldxW, 4), (.ldxL, 8)] : List ((Who → SForm → Instr) × Nat)), ∀ (f : SForm),
      ready s r [.s f.rd.toNat, .s f.ra.toNat] = true →
      let va := (th.sreg f.ra.toNat + f.x.getD (f.imm.signExtend 64)).toNat
      (∀ ps, checkAll s (some r.tile) .r (pieces va 0 p.2) = .ok ps → nearStretches s ps →
        runs (p.1 (.t r) f) s (opBegun r th f.x .load (.scalar f.rd.toNat p.2) (List.replicate p.2 0) ps s)) ∧
      (∀ st, checkAll s (some r.tile) .r (pieces va 0 p.2) = .bad st → s.obs.trcEn = false → th.haltsOn st = false →
        runs (p.1 (.t r) f) s (onlyThread r (th.completed st (lenOf f.x) (th.after f.x)) s))) ∧
    (∀ (f : SForm), ready s r [.d (f.rd.toNat % 8), .s f.ra.toNat] = true →
      ∀ ps, checkAll s (some r.tile) .r (pieces (th.sreg f.ra.toNat + f.x.getD (f.imm.signExtend 64)).toNat 0 32) = .ok ps → nearStretches s ps →
        runs (.ldxD (.t r) f) s (opBegun r th f.x .load (.desc (f.rd.toNat % 8)) (List.replicate 32 0) ps s)) ∧
    (∀ (f : VForm), f.x = none → f.i = true → th.haltsOn stFormMismatch = false →
      (ready s r [.v f.vd.toNat, .s f.sr.toNat, .m f.mm.toNat] = true → runs (.ldxV (.t r) f) s (onlyThread r (th.completed stFormMismatch 1 (th.pc + 8)) s)) ∧
      (ready s r [.v f.vd.toNat, .s f.sr.toNat, .m f.mm.toNat, .v f.vb.toNat] = true → runs (.ldxVI (.t r) f) s (onlyThread r (th.completed stFormMismatch 1 (th.pc + 8)) s))) ∧
    (∀ (f : VForm), f.x = none → f.i = false → th.mreg f.mm.toNat ≠ 0 →
      (ready s r [.v f.vd.toNat, .s f.sr.toNat, .m f.mm.toNat] = true →
        ∀ ps, checkAll s (some r.tile) .r (lanePieces (th.mreg f.mm.toNat)
            (fun i => (th.sreg f.sr.toNat + f.imm.signExtend 64 + BitVec.ofNat 64 (4 * i)).toNat)) = .ok ps → nearStretches s ps →
          runs (.ldxV (.t r) f) s (opBegun r th f.x .load (.lanes f.vd.toNat f.z (th.mreg f.mm.toNat)) (List.replicate 512 0) ps s)) ∧
      (ready s r [.v f.vd.toNat, .s f.sr.toNat, .m f.mm.toNat, .v f.vb.toNat] = true →
        ∀ ps, checkAll s (some r.tile) .r (lanePieces (th.mreg f.mm.toNat)
            (fun i => (th.sreg f.sr.toNat + BitVec.ofNat 64 (lane (th.vreg f.vb.toNat) i * 2 ^ (f.imm.toNat % 4))).toNat)) = .ok ps → nearStretches s ps →
          runs (.ldxVI (.t r) f) s (opBegun r th f.x .load (.lanes f.vd.toNat f.z (th.mreg f.mm.toNat)) (List.replicate 512 0) ps s))) ∧
    (∀ (f : DForm) (va bits : Nat), f.x = none → ready s r [.v (f.rd.toNat % 16), .d f.d1.toNat, .s f.i10.toNat, .s f.i11.toNat] = true →
      streamAt f th = some (va, bits) → ∀ ps, checkAll s (some r.tile) .r (pieces va 0 (ceilDiv bits 8)) = .ok ps → nearStretches s ps →
        runs (.ldxS (.t r) f) s
          (opBegun r (streamNext f 0 th) f.x .load (.stream (f.rd.toNat % 16) bits) (List.replicate (ceilDiv bits 8) 0) ps s))

/-- For STX.B, H, W, L and D, STX.V and STX.VI with an unmasked lane, and STX.S of a valid element, under the conditions of the loads: the
thread begins one memory operation that carries the low bytes of RB, the 32 bytes of the descriptor register, the 512 bytes of the vector
register, or for STX.S the register's bits up to the row's last element (the padding bits of the last byte zero). The store writes no byte
before it is performed. A vector store with I = 1 gives FORM_MISMATCH. -/
def Obligations.StoresIssue : Prop :=
  ∀ (r : TRef) (s : State), (s.thread r).stby = false → idleTile s r.tile →
    let th := s.thread r
    (∀ p ∈ ([(.stxB, 1), (.stxH, 2), (.stxW, 4), (.stxL, 8)] : List ((Who → SForm → Instr) × Nat)), ∀ (f : SForm),
      ready s r [.s f.rb.toNat, .s f.ra.toNat] = true →
      ∀ ps, checkAll s (some r.tile) .w (pieces (th.sreg f.ra.toNat + f.x.getD (f.imm.signExtend 64)).toNat 0 p.2) = .ok ps → nearStretches s ps →
        runs (p.1 (.t r) f) s (opBegun r th f.x .store .none (leBytes p.2 (th.sreg f.rb.toNat).toNat) ps s)) ∧
    (∀ (f : SForm), ready s r [.d (f.rb.toNat % 8), .s f.ra.toNat] = true →
      ∀ ps, checkAll s (some r.tile) .w (pieces (th.sreg f.ra.toNat + f.x.getD (f.imm.signExtend 64)).toNat 0 32) = .ok ps → nearStretches s ps →
        runs (.stxD (.t r) f) s (opBegun r th f.x .store .none (leBytes 32 (th.dreg (f.rb.toNat % 8)).toNat) ps s)) ∧
    (∀ (f : VForm), f.x = none → f.i = true → th.haltsOn stFormMismatch = false →
      (ready s r [.v f.vd.toNat, .s f.sr.toNat, .m f.mm.toNat] = true → runs (.stxV (.t r) f) s (onlyThread r (th.completed stFormMismatch 1 (th.pc + 8)) s)) ∧
      (ready s r [.v f.vd.toNat, .s f.sr.toNat, .m f.mm.toNat, .v f.vb.toNat] = true → runs (.stxVI (.t r) f) s (onlyThread r (th.completed stFormMismatch 1 (th.pc + 8)) s))) ∧
    (∀ (f : VForm), f.x = none → f.i = false → th.mreg f.mm.toNat ≠ 0 →
      (ready s r [.v f.vd.toNat, .s f.sr.toNat, .m f.mm.toNat] = true →
        ∀ ps, checkAll s (some r.tile) .w (lanePieces (th.mreg f.mm.toNat)
            (fun i => (th.sreg f.sr.toNat + f.imm.signExtend 64 + BitVec.ofNat 64 (4 * i)).toNat)) = .ok ps → nearStretches s ps →
          runs (.stxV (.t r) f) s (opBegun r th f.x .store .none (leBytes 512 (th.vreg f.vd.toNat).toNat) ps s)) ∧
      (ready s r [.v f.vd.toNat, .s f.sr.toNat, .m f.mm.toNat, .v f.vb.toNat] = true →
        ∀ ps, checkAll s (some r.tile) .w (lanePieces (th.mreg f.mm.toNat)
            (fun i => (th.sreg f.sr.toNat + BitVec.ofNat 64 (lane (th.vreg f.vb.toNat) i * 2 ^ (f.imm.toNat % 4))).toNat)) = .ok ps → nearStretches s ps →
          runs (.stxVI (.t r) f) s (opBegun r th f.x .store .none (leBytes 512 (th.vreg f.vd.toNat).toNat) ps s))) ∧
    (∀ (f : DForm) (va bits : Nat), f.x = none → ready s r [.v (f.rd.toNat % 16), .d f.d1.toNat, .s f.i10.toNat, .s f.i11.toNat] = true →
      streamAt f th = some (va, bits) → ∀ ps, checkAll s (some r.tile) .w (pieces va 0 (ceilDiv bits 8)) = .ok ps → nearStretches s ps →
        runs (.stxS (.t r) f) s
          (opBegun r th f.x .store .none (leBytes (ceilDiv bits 8) ((th.vreg (f.rd.toNat % 16)).toNat % 2 ^ bits)) ps s))

/-- SEM.ADD, SWAP, CAS and READ of an aligned word under the conditions of the loads, with R and W permission, begin one operation
that owes RD and carries the operation, RB or the immediate, and RC for CAS; a word not aligned to 8 bytes gives MISALIGNED. A
standby thread of a sequence with another live thread that names a scalar load, store or SEM halts with STANDBY_ACCESS and
accesses nothing: its registers and memory stay. -/
def Obligations.SemIssuesAndStandby : Prop :=
  (∀ p ∈ ([(.semAdd, 0), (.semSwap, 1), (.semCas, 2), (.semRead, 3)] : List ((Who → SForm → Instr) × Nat)), ∀ (r : TRef) (f : SForm) (s : State),
    (s.thread r).stby = false → idleTile s r.tile → (f.x.isNone || f.i) = true → ready s r (semRegs f) = true →
    let th := s.thread r
    let va := (th.sreg f.ra.toNat).toNat
    let b := if f.i then f.x.getD (f.imm.signExtend 64) else th.sreg f.rb.toNat
    (∀ ps, va % 8 = 0 → checkAll s (some r.tile) .rw (pieces va 0 8) = .ok ps → nearStretches s ps →
      runs (p.1 (.t r) f) s (fun t => opBegun r th f.x .sem (.scalar f.rd.toNat 8) (List.replicate 8 0) ps s t ∧
        ∃ o, t.op r.tile s.opSeq = some o ∧ o.semOp = p.2 ∧ o.a = b ∧ o.b = th.sreg f.rc.toNat ∧ o.acq = bitOf f.sub 1)) ∧
    (va % 8 ≠ 0 → th.haltsOn stMisaligned = false →
      runs (p.1 (.t r) f) s (onlyThread r (th.completed stMisaligned (lenOf f.x) (th.after f.x)) s))) ∧
  (∀ i ∈ ([.ldxB, .ldxH, .ldxW, .ldxL, .ldxD, .stxB, .stxH, .stxW, .stxL, .stxD, .semAdd, .semSwap, .semCas, .semRead] : List (Who → SForm → Instr)),
    ∀ (r : TRef) (f : SForm) (s : State) (q : Seq), f.x = none → canIssue s r = true → (s.tile r.tile).ops = [] → (s.thread r).stby = true →
    (s.thread r).helper = false → s.seq (s.thread r).reel (s.thread r).slot = some q → (q.live.filter (fun x => x != r)) ≠ [] →
    runs (i (.t r) f) s (fun t => (t.thread r).halted = true ∧ (t.thread r).last = 0x0305 ∧ (t.thread r).s = (s.thread r).s ∧
      (t.thread r).v = (s.thread r).v ∧ (t.thread r).d = (s.thread r).d ∧ (t.tile r.tile).ops = [] ∧ sameBytes s t))

/-- Of a load with one request that has issued, whose stretch lies in this device's near memory and waits for no roll slot, on a live
thread with no cue admitted, and no error found by the check code: when the memory is populated and not poisoned, the
destination takes the bytes in place (a scalar zero-extended, a descriptor, the unmasked lanes, or the stream's bits), LAST records
success, and the operation and its slot go. When a word of the stretch is poisoned, under a mask that does not halt on class 0x03 the
destination keeps its value, LAST records UNCORRECTABLE, and the operation goes. No byte of memory changes. Of any load, and of any of its
requests that has issued and whose home serves it, with every word readable: LOAD_RESPONSE puts the stretches' bytes into the operation's data, and
with the last request the destination takes the data, LAST records success and the operation goes; what that lets go on then issues. -/
def Obligations.LoadResponseDelivers : Prop :=
  (∀ (n id k : Nat) (s : State) (o : MemOp) (p : Part), s.op n id = some o → o.parts[k]? = some p → o.kind = .load → p.issued = true → p.done = false →
    p.sent = false → homeReady s n ((p.segs.head?.map (fun g => g.1)).getD p.pa) = true → p.rollFree s = true → (∀ g ∈ p.segs, readStatus s g.1 g.2.2 = stOk) →
    let r : TRef := ⟨n, o.th⟩
    let data := p.segs.foldl (fun d g => patch d g.2.1 (readAt s g.1 g.2.2)) o.data
    ((∃ j q, j ≠ k ∧ o.parts[j]? = some q ∧ q.done = false) → runsWake (.loadResponse n id k []) s (fun t =>
      t.op n id = some { o with data, parts := o.parts.set k { p with done := true } } ∧ ∀ x, t.thread x = s.thread x)) ∧
    ((∀ j q, j ≠ k → o.parts[j]? = some q → q.done = true) → o.status = 0 → o.dst ≠ .job → o.acq = false → (s.thread r).live = true →
      runsWake (.loadResponse n id k []) s (fun t => t.op n id = none ∧ t.thread r = { deliver (s.thread r) o.dst data with last := 0 } ∧
        (∀ x, x ≠ r → t.thread x = s.thread x) ∧ sameBytes s t))) ∧
  ∀ (n id : Nat) (s : State) (o : MemOp) (p : Part) (pa len : Nat),
    s.obs.cntEn = false → (s.tile n).ops = [o] → o.id = id → o.kind = .load → o.dst ≠ .job → o.status = 0 → o.bad = [] →
    o.parts = [p] → p.issued = true → p.done = false → p.sent = false → p.segs = [(pa, 0, len)] → o.data.length = len →
    s.isLocal pa = true → winOf (paLocal pa) = .near → s.fillPending pa = false → s.rollHeld (paLocal pa) len = false →
    s.cueIn o.reel o.slot = none → (s.tile n).ra = [] →
    let r : TRef := ⟨n, o.th⟩
    let th := s.thread r
    th.live = true →
    (s.populated (paLocal pa) = true → s.poisoned (paLocal pa) len = false →
      runsWake (.loadResponse n id 0 []) s (fun t =>
        t.thread r = { deliver th o.dst (s.bytes (paLocal pa) len) with last := 0 } ∧ (t.tile n).ops = [] ∧ (∀ k, k ≠ r → t.thread k = s.thread k) ∧
        onlyTile n s t ∧ sameBytes s t)) ∧
    (s.poisoned (paLocal pa) len = true → th.haltsOn stUncorrectable = false → s.reels = [] →
      runsWake (.loadResponse n id 0 []) s (fun t =>
        t.thread r = th.record stUncorrectable ∧ (t.tile n).ops = [] ∧ onlyTile n s t ∧ sameBytes s t))

/-- Of a store with one request that has issued, whose stretch lies in this device's populated near memory outside every mirrored region
and waits for no roll slot, on a live thread with no cue admitted and no watch set: after STORE_ACK the byte at each place of the
stretch reads as the store's byte, every byte outside it reads as before, LAST records success, the operation and its slot go, and no
register changes but by what goes on then. A 32-byte word that the store covers wholly is poisoned no more; other poison stays. Memory is assumed in
its canonical form, which every run keeps. Of any store, and of any of its requests that has issued and whose home, populated, serves it: STORE_ACK
writes the request's stretches at home, and with the last request LAST records success and the operation goes. -/
def Obligations.StoreAckWrites : Prop :=
  (∀ (n id k : Nat) (s : State) (o : MemOp) (p : Part), s.op n id = some o → o.parts[k]? = some p → o.kind = .store → o.dst = .none → o.acq = false → p.issued = true → p.done = false →
    let pa := (p.segs.head?.map (fun g => g.1)).getD p.pa
    let r : TRef := ⟨n, o.th⟩
    let w := (storeSegs o p).foldl (fun u g => homeWrite (paLocal g.1) p.ca g.2 u) s
    s.isLocal pa = true → winOf (paLocal pa) ≠ .host → homeReady s n pa = true → p.rollFree s = true → s.wayStalls pa p.ca = false → (∀ g ∈ p.segs, s.populated (paLocal g.1) = true) →
    ((∃ j q, j ≠ k ∧ o.parts[j]? = some q ∧ q.done = false) → runsWake (.storeAck n id k) s (fun t =>
      t.op n id = some { o with parts := o.parts.set k { p with done := true } } ∧ sameBytes w t ∧ t.poison = w.poison ∧ ∀ x, t.thread x = w.thread x)) ∧
    ((∀ j q, j ≠ k → o.parts[j]? = some q → q.done = true) → o.status = 0 → (s.thread r).live = true →
      runsWake (.storeAck n id k) s (fun t => t.op n id = none ∧ sameBytes w t ∧ t.poison = w.poison ∧ t.thread r = { w.thread r with last := 0 } ∧ ∀ x, x ≠ r → t.thread x = w.thread x))) ∧
  ∀ (n id : Nat) (s : State) (o : MemOp) (p : Part) (pa : Nat), s.Inv →
    (s.tile n).ops = [o] → o.id = id → o.kind = .store → o.dst = .none → o.status = 0 →
    o.parts = [p] → p.issued = true → p.done = false → p.segs = [(pa, 0, o.data.length)] →
    s.isLocal pa = true → winOf (paLocal pa) = .near → winOf (paLocal pa + o.data.length) = .near → s.populated (paLocal pa) = true →
    s.fillPending pa = false → s.rollHeld (paLocal pa) o.data.length = false → s.links.watches = [] → s.pairs.mir = [] →
    s.cueIn o.reel o.slot = none →
    let r : TRef := ⟨n, o.th⟩
    (s.thread r).live = true →
    runsWake (.storeAck n id 0) s (fun t =>
      (∀ k, k < o.data.length → t.byte (paLocal pa + k) = o.data.getD k 0) ∧ bytesOutside (paLocal pa) o.data.length s t ∧
      (∀ w, w ∈ t.poison ↔ w ∈ s.poison ∧ ¬ (paLocal pa ≤ w * 32 ∧ w * 32 + 32 ≤ paLocal pa + o.data.length)) ∧
      t.thread r = { s.thread r with last := 0 } ∧ (t.tile n).ops = [] ∧ (∀ k, k ≠ r → t.thread k = s.thread k) ∧
      t = { s with tiles := t.tiles, mem := t.mem, poison := t.poison })

/-- Of a SEM whose request has issued, on an aligned word of this device's near memory that is not poisoned and waits for no roll slot, no
watch set: SEM_HOME_PERFORM keeps the word's old value for the thread and writes old + a for ADD, a for SWAP,
and b for CAS when the old value equals a (else the word stays); READ writes nothing. Every byte outside the word, and every
register, stays. STORE_ACK then puts the old value in RD, records success, and frees the slot. Memory is
assumed in its canonical form. -/
def Obligations.SemPerforms : Prop :=
  ∀ (n id : Nat) (s : State) (o : MemOp) (p : Part) (pa : Nat), s.Inv →
    (s.tile n).ops = [o] → o.id = id → o.kind = .sem → o.status = 0 → o.parts = [p] → p.issued = true → p.done = false →
    p.segs = [(pa, 0, 8)] → s.isLocal pa = true → winOf (paLocal pa) = .near → winOf (paLocal pa + 8) = .near → o.semOp ≤ 3 →
    let r : TRef := ⟨n, o.th⟩
    let old := s.word (paLocal pa)
    (o.old = none → s.fillPending pa = false → s.rollHeld (paLocal pa) 8 = false → s.poisoned (paLocal pa) 8 = false → s.links.watches = [] →
      s.pairs.mir = [] → runsWake (.semHomePerform n id) s (fun t =>
        t.word (paLocal pa) = (if o.semOp = 0 then old + o.a else if o.semOp = 1 then o.a else if o.semOp = 2 ∧ old = o.a then o.b else old) ∧
        bytesOutside (paLocal pa) 8 s t ∧ (t.tile n).ops = [{ o with old := some old }] ∧ (∀ k, t.thread k = s.thread k) ∧
        t = { s with tiles := t.tiles, mem := t.mem, poison := t.poison })) ∧
    (∀ v rd, o.old = some v → o.dst = .scalar rd 8 → s.cueIn o.reel o.slot = none → (s.thread r).live = true →
      runsWake (.storeAck n id 0) s (fun t =>
        t.thread r = { (s.thread r).setS rd v with last := 0 } ∧ (t.tile n).ops = [] ∧ onlyTile n s t ∧ sameBytes s t))

/-- SLOT_WAIT_GRANT: of a thread's operation with one request that waits for a slot, on a tile whose other requests hold none, in near
memory, the request issues. INSTRUCTION_FETCH of a live thread with fewer than four fetched words
and no fetch on its way, at a word whose page the tile's cache holds with R permission, in near memory that waits for no roll slot and is not poisoned: the
word joins the thread's fetched words, and nothing else changes. RUNAHEAD_FETCH along a stream that has sectors left and is
within DIST of demand, whose page is not held, starts nothing and is counted; along one whose page is held, in near memory, with run-ahead on and nothing in
progress, it fetches the sector, counts it as ahead of demand, and takes the stream's next stretch. -/
def Obligations.FetchAndRunahead : Prop :=
  (∀ (r : TRef) (s : State) (o : MemOp) (p : Part) (pa len : Nat), (s.tile r.tile).ops = [o] →
    o.th = r.th → o.kind ≠ .runahead → o.parts = [p] → p.issued = false → p.done = false → p.segs = [(pa, 0, len)] →
    s.isLocal pa = true → winOf (paLocal pa) = .near → (s.tile r.tile).ra = [] →
    runsWake (.slotWaitGrant r) s (fun t => (t.tile r.tile).ops = [{ o with parts := [{ p with issued := true }] }] ∧
      (∀ k, t.thread k = s.thread k) ∧ onlyTile r.tile s t ∧ sameBytes s t)) ∧
  (∀ (r : TRef) (s : State) (e : XEntry) (pa ca : Nat),
    let th := s.thread r
    let va := th.pc.toNat + 8 * th.fetched.length
    th.live = true → th.halted = false → th.fetched.length < 4 → s.sec.retention = false → fetching s r = false →
    (s.tile r.tile).xc.find? (fun e => e.covers va) = some e → xlate s (some r.tile) .r va = .ok pa ca → s.isLocal pa = true →
    winOf (paLocal pa) = .near → s.poisoned (paLocal pa) 8 = false → s.rollHeld (paLocal pa) 8 = false →
    runs (.instructionFetch r) s (fun t => t.thread r = { th with fetched := th.fetched ++ [s.word (paLocal pa)], fetchPage := none, fetchFill := none } ∧
      (∀ k, k ≠ r → t.thread k = s.thread k) ∧ onlyTile r.tile s t ∧ sameBytes s t)) ∧
  (∀ (r : TRef) (d : BitVec 3) (s : State) (va e n : Nat) (rest : List (Nat × Nat)), s.sec.retention = false →
    let th := s.thread r
    let T := s.tile r.tile
    th.live = true → T.raEn = true → 0 < T.raDist → 0 < T.raSlots → T.ra = [] → T.ops = [] →
    mfind th.stream d.toNat = some { rows := (va, e) :: rest, ahead := n } → va < e → (∀ g ∈ rest, g.1 < g.2) → n < Nat.min T.raDist 64 →
    (xlate s (some r.tile) .r va = .miss → runs (.runaheadFetch r d) s (fun t => t = cntPmc r.tile 0x16 th.reel 1 s)) ∧
    (∀ pa ca, xlate s (some r.tile) .r va = .ok pa ca → s.isLocal pa = true → winOf (paLocal pa) = .near →
      s.isLocal (pa / 256 * 256) = true → winOf (paLocal (pa / 256 * 256)) = .near →
      runs (.runaheadFetch r d) s (fun t =>
        (t.tile r.tile).ra = [{ op := s.opSeq, th := r.th, reel := th.reel, d := d.toNat, pa := pa / 256 }] ∧
        (∃ o, (t.tile r.tile).ops = [o] ∧ o.kind = .runahead ∧ o.parts = [{ sector := pa / 256, va, ca, segs := [(pa / 256 * 256, 0, 256)], issued := true }]) ∧
        t.thread r = { th with stream := mput th.stream d.toNat { rows := rest ++ (if (va / 256 + 1) * 256 < e then [((va / 256 + 1) * 256, e)] else []), ahead := n + 1 } } ∧ (∀ k, k ≠ r → t.thread k = s.thread k) ∧ sameBytes s t)))

/-- For VADD, VSUB, VMUL, VMAX, VMIN, VFMA, VABS and VNEG in F32, F16 and BF16, with the last source a register or an immediate: each unmasked
element of VD is the operation on the elements at its place (sum, difference, product and fused product-sum exact and then
rounded once; maximumNumber and minimumNumber; the sign bit cleared or inverted), masked elements follow Z, the numeric flags of the
unmasked elements join the thread's, and nothing else changes. With EF 0b11 each gives FORM_MISMATCH and VD stays, under a mask that does
not halt on class 0x04. No cue is charged and the counters are off. -/
def Obligations.VectorArithmetic : Prop :=
  ∀ (r : TRef) (f : VForm) (s : State), (f.x.isNone || f.i) = true → plainVector s r = true →
    let th := s.thread r
    let ab := if f.i then [f.va.toNat] else [f.va.toNat, f.vb.toNat]
    let a1 := if f.i then [] else [f.va.toNat]
    let abc := [f.va.toNat, f.vb.toNat] ++ (if f.i then [] else [f.vc.toNat])
    let ops : List ((Who → VForm → Instr) × List Nat × (FFmt → Nat → Nat × Flags4)) :=
      [(.vadd, ab, fun g e => roundResult g (numAdd (g.decode (elem g.w (th.vreg f.va.toNat) e)) (g.decode (lastSrc f (th.vreg f.vb.toNat) e)))),
       (.vsub, ab, fun g e => roundResult g (numAdd (g.decode (elem g.w (th.vreg f.va.toNat) e)) (numNeg (g.decode (lastSrc f (th.vreg f.vb.toNat) e))))),
       (.vmul, ab, fun g e => roundResult g (numMul (g.decode (elem g.w (th.vreg f.va.toNat) e)) (g.decode (lastSrc f (th.vreg f.vb.toNat) e)))),
       (.vmax, ab, fun g e => fpPick maxPicksY g (elem g.w (th.vreg f.va.toNat) e) (lastSrc f (th.vreg f.vb.toNat) e)),
       (.vmin, ab, fun g e => fpPick minPicksY g (elem g.w (th.vreg f.va.toNat) e) (lastSrc f (th.vreg f.vb.toNat) e)),
       (.vfma, abc, fun g e => roundResult g (numFma (g.decode (elem g.w (th.vreg f.va.toNat) e)) (g.decode (elem g.w (th.vreg f.vb.toNat) e))
          (g.decode (lastSrc f (th.vreg f.vc.toNat) e)))),
       (.vabs, a1, fun g e => (lastSrc f (th.vreg f.va.toNat) e % 2 ^ (g.w - 1), 0)),
       (.vneg, a1, fun g e => ((lastSrc f (th.vreg f.va.toNat) e + 2 ^ (g.w - 1)) % 2 ^ g.w, 0))]
    ∀ p ∈ ops, ready s r ([.v f.vd.toNat, .m f.mm.toNat] ++ p.2.1.map .v) = true →
      (∀ q ∈ ([(0, fF32), (1, fF16), (2, fBF16)] : List (Nat × FFmt)), f.ef.toNat = q.1 →
        runs (p.1 (.t r) f) s (vectorResult r f q.2.w (p.2.2 q.2) s)) ∧
      (f.ef.toNat = 3 → th.haltsOn stFormMismatch = false →
        runs (p.1 (.t r) f) s (onlyThread r (th.completed stFormMismatch (lenOf f.x) (th.after f.x)) s))

/-- VMOV in any EF gives VD the elements of VA or the immediate; VSEL those of VA where mask MB holds for the element's lane and of the
last source elsewhere; neither raises a flag, and nothing else changes. -/
def Obligations.VectorMoves : Prop :=
  ∀ (r : TRef) (f : VForm) (s : State), (f.x.isNone || f.i) = true → plainVector s r = true →
    let th := s.thread r
    let w := if f.ef = 1 ∨ f.ef = 2 then 16 else 32
    let ab := if f.i then [f.va.toNat] else [f.va.toNat, f.vb.toNat]
    let a1 := if f.i then [] else [f.va.toNat]
    (ready s r ([.v f.vd.toNat, .m f.mm.toNat] ++ a1.map .v) = true →
      runs (.vmov (.t r) f) s (vectorResult r f w (fun e => (lastSrc f (th.vreg f.va.toNat) e, 0)) s)) ∧
    (ready s r ([.v f.vd.toNat, .m f.mm.toNat] ++ ab.map .v) = true →
      runs (.vsel (.t r) f) s (vectorResult r f w (fun e =>
        (if bitOf (th.mreg f.mb.toNat) (e * w / 32) then elem w (th.vreg f.va.toNat) e else lastSrc f (th.vreg f.vb.toNat) e, 0)) s))

/-- Each VCMP on F32 sets bit i of mask VD[2:0], for i where the governing mask holds, to its comparison of lane i; on F16 and BF16 to its comparison
of element 2i + H. An unordered pair compares false except for NE and UN; the other bits are 0 under Z and stay otherwise; a write of m0 is discarded.
No comparison writes a flag, and nothing else changes. -/
def Obligations.VectorCompares : Prop :=
  ∀ (r : TRef) (f : VForm) (s : State), (f.x.isNone || f.i) = true → plainVector s r = true →
    let th := s.thread r
    let ab := if f.i then [f.va.toNat] else [f.va.toNat, f.vb.toNat]
    ∀ p ∈ ([(.vcmpEq, numEq), (.vcmpNe, fun x y => !numEq x y), (.vcmpLt, numLt), (.vcmpLe, fun x y => numLt x y || numEq x y),
        (.vcmpGt, fun x y => numLt y x), (.vcmpGe, fun x y => numLt y x || numEq x y), (.vcmpUn, fun x y => x.isNan || y.isNan)] :
        List ((Who → VForm → Instr) × (Machine.Num → Machine.Num → Bool))),
      ready s r ([.m (f.vd.toNat % 8), .m f.mm.toNat] ++ ab.map .v) = true →
      ∀ q ∈ ([(0, fF32), (1, fF16), (2, fBF16)] : List (Nat × FFmt)), f.ef.toNat = q.1 →
        runs (p.1 (.t r) f) s (maskResult r f (fun k =>
          let e := if q.1 = 0 then k else 2 * k + (if f.h then 1 else 0)
          if bitOf (th.mreg f.mm.toNat) k then p.2 (q.2.decode (elem q.2.w (th.vreg f.va.toNat) e)) (q.2.decode (lastSrc f (th.vreg f.vb.toNat) e))
          else !f.z && bitOf (th.mreg (f.vd.toNat % 8)) k) s)

/-- VAND, VOR, VXOR, VSHL, VSHR and VIADD with EF 0b11 act on each unmasked 32-bit lane (a shift takes its amount from bits [4:0], VIADD
wraps), and with another EF give FORM_MISMATCH. VMAND, VMOR, VMXOR and VMNOT with I = 0 write every bit of mask VD[2:0], VMPOP
the number of ones of mask VA[2:0] to the scalar register SR; with I = 1 each gives FORM_MISMATCH. No flag is raised. -/
def Obligations.VectorBitsAndMasks : Prop :=
  ∀ (r : TRef) (f : VForm) (s : State), plainVector s r = true →
    let th := s.thread r
    let ab := if f.i then [f.va.toNat] else [f.va.toNat, f.vb.toNat]
    let vd := f.vd.toNat % 8
    let va := f.va.toNat % 8
    let vb := f.vb.toNat % 8
    (∀ p ∈ ([(.vand, fun a b => a &&& b), (.vor, fun a b => a ||| b), (.vxor, fun a b => a ^^^ b),
        (.vshl, fun a b => BitVec.ofNat 32 (a.toNat * 2 ^ (b.toNat % 32))), (.vshr, fun a b => BitVec.ofNat 32 (a.toNat / 2 ^ (b.toNat % 32))),
        (.viadd, fun a b => a + b)] : List ((Who → VForm → Instr) × (W32 → W32 → W32))),
      (f.x.isNone || f.i) = true → ready s r ([.v f.vd.toNat, .m f.mm.toNat] ++ ab.map .v) = true →
      (f.ef.toNat = 3 → runs (p.1 (.t r) f) s (vectorResult r f 32 (fun e =>
        ((p.2 (BitVec.ofNat 32 (lane (th.vreg f.va.toNat) e)) (BitVec.ofNat 32 (lastSrc f (th.vreg f.vb.toNat) e))).toNat, 0)) s)) ∧
      (f.ef.toNat ≠ 3 → th.haltsOn stFormMismatch = false →
        runs (p.1 (.t r) f) s (onlyThread r (th.completed stFormMismatch (lenOf f.x) (th.after f.x)) s))) ∧
    (∀ p ∈ ([(.vmand, fun a b => a && b), (.vmor, fun a b => a || b), (.vmxor, fun a b => a != b)] : List ((Who → VForm → Instr) × (Bool → Bool → Bool))),
      f.x = none → ready s r [.m vd, .m va, .m vb] = true →
      (f.i = false → runs (p.1 (.t r) f) s (maskResult r f (fun k => p.2 (bitOf (th.mreg va) k) (bitOf (th.mreg vb) k)) s)) ∧
      (f.i = true → th.haltsOn stFormMismatch = false →
        runs (p.1 (.t r) f) s (onlyThread r (th.completed stFormMismatch 1 (th.pc + 8)) s))) ∧
    (f.x = none → f.i = false → ready s r [.m vd, .m va] = true →
      runs (.vmnot (.t r) f) s (maskResult r f (fun k => !bitOf (th.mreg va) k) s)) ∧
    (f.x = none → f.i = false → ready s r [.s f.sr.toNat, .m va] = true →
      runs (.vmpop (.t r) f) s (onlyThread r ((th.setS f.sr.toNat
        (BitVec.ofNat 64 ((List.range 128).filter (fun k => bitOf (th.mreg va) k)).length)).completed 0 1 (th.pc + 8)) s))

/-- VINS writes the low 32 bits of SR into lane IMM16[6:0] of VD when the mask holds for it (0 under Z, the old lane otherwise) and keeps
every other lane. VEXT writes lane IMM16[6:0] of VA, zero-extended, to SR under the mask, 0 under Z, and leaves SR otherwise. VIDX writes each
unmasked lane's number. VSHF gives each unmasked lane i the lane i XOR p for a p that is a power of two, (i + p) mod 128, p, or its own
halves exchanged, by IMM16[1:0] with p in IMM16[8:2]; an XOR with another p gives FORM_MISMATCH. No flag is raised. -/
def Obligations.VectorLaneMoves : Prop :=
  ∀ (r : TRef) (f : VForm) (s : State), f.x = none → f.i = false → plainVector s r = true →
    let th := s.thread r
    let j := f.imm.toNat % 128
    let on := fun k => bitOf (th.mreg f.mm.toNat) k
    let pat := f.imm.toNat % 4
    let p := f.imm.toNat / 4 % 128
    (ready s r [.v f.vd.toNat, .m f.mm.toNat, .s f.sr.toNat] = true → runs (.vins (.t r) f) s (fun t => ∃ y : VReg,
      onlyThread r ((th.setV f.vd.toNat y).completed 0 1 (th.pc + 8)) s t ∧ ∀ k, k < 128 → lane y k =
        if k = j then (if on j then (th.sreg f.sr.toNat).toNat % 2 ^ 32 else if f.z then 0 else lane (th.vreg f.vd.toNat) j)
        else lane (th.vreg f.vd.toNat) k)) ∧
    (ready s r [.s f.sr.toNat, .v f.va.toNat, .m f.mm.toNat] = true → runs (.vext (.t r) f) s (onlyThread r
      ((if on j then th.setS f.sr.toNat (BitVec.ofNat 64 (lane (th.vreg f.va.toNat) j)) else if f.z then th.setS f.sr.toNat 0 else th).completed
        0 1 (th.pc + 8)) s)) ∧
    (ready s r [.v f.vd.toNat, .m f.mm.toNat] = true →
      runs (.vidx (.t r) f) s (vectorResult r f 32 (fun e => (e, 0)) s)) ∧
    (ready s r [.v f.vd.toNat, .m f.mm.toNat, .v f.va.toNat] = true →
      ((pat ≠ 0 ∨ p ∈ ([1, 2, 4, 8, 16, 32, 64] : List Nat)) → runs (.vshf (.t r) f) s (vectorResult r f 32 (fun e =>
        let v := th.vreg f.va.toNat
        (if pat = 0 then lane v (Nat.xor e p) else if pat = 1 then lane v ((e + p) % 128) else if pat = 2 then lane v p
          else lane v e / 2 ^ 16 + (lane v e % 2 ^ 16) * 2 ^ 16, 0)) s)) ∧
      (pat = 0 → p ∉ ([1, 2, 4, 8, 16, 32, 64] : List Nat) → th.haltsOn stFormMismatch = false →
        runs (.vshf (.t r) f) s (onlyThread r (th.completed stFormMismatch 1 (th.pc + 8)) s)))

/-- VCVT of a pair of formats that Table 4.3 lists, unscaled and not with stochastic rounding: each unmasked element j of the destination run
takes its source element rounded in the mode of MB with or without saturation, a 16-bit run fills half H of VD and keeps the
other half, a narrow run is packed from byte 0 with zeros above; SR does not change. VSFN of EXP2, LOG2, RSQRT, RCP, TANH and ERF in F32, F16
and BF16 gives each unmasked element the model's choice among the results that Table 4.7 permits (the manual leaves it open,
log 29); with EF 0b11 it gives FORM_MISMATCH. A pair that Table 4.3 does not list gives FORM_MISMATCH. -/
def Obligations.VectorConvertAndSpecial : Prop :=
  ∀ (r : TRef) (f : VForm) (s : State), f.x = none → f.i = false → plainVector s r = true →
    let th := s.thread r
    (ready s r [.v f.vd.toNat, .m f.mm.toNat, .v f.va.toNat, .s f.sr.toNat] = true →
      (∀ src dst, cvtOk f = some (src, dst) → bitOf f.imm 8 = false → rmodeOf f.mb.toNat ≠ .sr →
        runs (.vcvt (.t r) f) s (fun t => ∃ (y : VReg) (fl : BitVec 4),
          onlyThread r ({ th.setV f.vd.toNat y with flags := th.flags ||| fl }.completed 0 1 (th.pc + 8)) s t ∧
          (∀ j, j < 128 → elem dst.w y (dst.at_ f.h j) = (cvtElem f src dst th [] j 0).pat % 2 ^ dst.w) ∧
          (∀ g, dst = .wide g → g.w = 16 → ∀ j, j < 128 → elem 16 y (128 * (if f.h then 0 else 1) + j) =
            elem 16 (th.vreg f.vd.toNat) (128 * (if f.h then 0 else 1) + j)) ∧
          (∀ e, dst = .narrow e → ∀ j, 128 ≤ j → elem dst.w y j = 0) ∧
          (∀ k, k < 4 → (fl.getLsbD k = true ↔ ∃ j, j < 128 ∧ (cvtElem f src dst th [] j 0).flags.getLsbD k = true)))) ∧
      (cvtOk f = none → th.haltsOn stFormMismatch = false →
        runs (.vcvt (.t r) f) s (onlyThread r (th.completed stFormMismatch 1 (th.pc + 8)) s))) ∧
    (∀ p ∈ ([(.vsfnExp2, .exp2), (.vsfnLog2, .log2), (.vsfnRsqrt, .rsqrt), (.vsfnRcp, .rcp), (.vsfnTanh, .tanh), (.vsfnErf, .erf)] :
        List ((Who → VForm → Instr) × Sfn)), ready s r [.v f.vd.toNat, .m f.mm.toNat, .v f.va.toNat] = true →
      (∀ q ∈ ([(0, fF32), (1, fF16), (2, fBF16)] : List (Nat × FFmt)), f.ef.toNat = q.1 →
        runs (p.1 (.t r) f) s (vectorResult r f q.2.w (fun e => sfnElem p.2 q.2 (elem q.2.w (th.vreg f.va.toNat) e)) s)) ∧
      (f.ef.toNat = 3 → th.haltsOn stFormMismatch = false →
        runs (p.1 (.t r) f) s (onlyThread r (th.completed stFormMismatch 1 (th.pc + 8)) s)))

/-- Of a thread not on standby on a tile with nothing in progress, with the fields and descriptors valid and the operands' pages good and in
near memory: MMA.OPEN with a free handle and room in the pool opens the lowest free handle with the shape, formats, base and tally columns
fixed, no output yet, puts its number in RD, and enters the MMA at beat 0; without a handle or room it gives POOL_FULL, and RD, the
handles and the array stay. MMA.CONT on a handle of the same shape, formats and base with no RSC issued enters the MMA and
changes no output set. With invalid fields either gives FORM_MISMATCH. No byte of memory changes. -/
def Obligations.MmaIssue : Prop :=
  ∀ (r : TRef) (f : DForm) (x : W64) (s : State), f.x = some x → (s.thread r).stby = false →
    idleTile s r.tile → ready s r (mmaRegs f) = true →
    let th := s.thread r
    let T := s.tile r.tile
    let o := mmaOp f r T 0
    let mn := shapeMN f.shape.toNat
    let l := operandRanges o.da o.sa mn.1 0 o.k ++ operandRanges o.db o.sb mn.2 0 o.k
    let base := bitsOf x 29 20
    let set_ : OutSet := { shape := f.shape.toNat, fmtA := operandFmt o.da, fmtB := operandFmt o.db, rbase := base, th := r.th, reel := th.reel, slot := th.cueSlot, tcols := tallyCols T base mn.2 }
    let entered := fun (h : Nat) (t : State) => (∃ q, (t.tile r.tile).mmas = [q] ∧ q.h = h ∧ q.th = r.th ∧ q.da = th.dreg f.d1.toNat ∧ q.db = th.dreg f.d2.toNat ∧
      q.k = bitsOf x 19 0 ∧ q.at_ = 0 ∧ q.st = 0) ∧ (t.thread r).pc = th.pc + 16 ∧ (t.thread r).v = th.v ∧ (t.thread r).flags = th.flags ∧
      (∀ k, k ≠ r → t.thread k = s.thread k) ∧ sameBytes s t
    (mmaFormOk f th = false → th.haltsOn stFormMismatch = false → ∀ i ∈ ([.mmaOpen (.t r) f, .mmaCont (.t r) f] : List Instr),
      runs i s (onlyThread r (th.completed stFormMismatch 2 (th.pc + 16)) s)) ∧
    (∀ ps, mmaFormOk f th = true → checkAll s (some r.tile) .r (pagePieces l) = .ok ps → nearPages s (pagesOf ps) →
      (∀ h, h < 8 → mfind T.sets h = none → (∀ k, k < h → (mfind T.sets k).isSome = true) → poolOk (T.sets.map (fun x => x.2) ++ [set_]) = true →
        runs (.mmaOpen (.t r) f) s (fun t => mfind (t.tile r.tile).sets h = some set_ ∧ (∀ k, k ≠ h → mfind (t.tile r.tile).sets k = mfind T.sets k) ∧
          (t.thread r).s = (th.setS f.rd.toNat (BitVec.ofNat 64 h)).s ∧ entered h t)) ∧
      (((∀ k, k < 8 → (mfind T.sets k).isSome = true) ∨ poolOk (T.sets.map (fun x => x.2) ++ [set_]) = false) → th.haltsOn stPoolFull = false →
        runs (.mmaOpen (.t r) f) s (fun t => t.thread r = th.completed stPoolFull 2 (th.pc + 16) ∧ (t.tile r.tile).sets = T.sets ∧
          (t.tile r.tile).mmas = [] ∧ sameBytes s t)) ∧
      (contOk f r s = true → runs (.mmaCont (.t r) f) s (fun t => (t.tile r.tile).sets = T.sets ∧ (t.thread r).s = th.s ∧
        entered (th.sreg f.rd.toNat).toNat t)))

/-- When the array's choice is handle h, the duty is not 0 or a cue is admitted (R346), the tile is not in Retention, and the one MMA of the
tile has its remaining beats staged and is covered by no cue: one beat moves the MMA on by one beat and makes h the handle served last. Every
output (m, n) that both operands reach, of a column that is no tally column, takes the products of the beat's reduction indices in
ascending order into its ledger; every output that an operand does not reach stays, as do other handles, every
thread, every byte of memory and every other tile, counters and the trace apart. When the choice is another handle, nothing changes. -/
def Obligations.ArrayBeatAccumulates : Prop :=
  ∀ (n h : Nat) (s : State) (o : ArrOp) (S : OutSet),
    let T := s.tile n
    T.mmas = [o] → o.h = h → mfind T.sets h = some S → o.at_ < o.beats → s.cueIn S.reel S.slot = none →
    (∀ b, o.at_ ≤ b → b < o.beats → o.staged.any (fun x => x.beat == b) = true) →
    let N := (shapeMN S.shape).2
    let cb := fun k => mget (0 : Byte) (T.cbCopy (o.cb.getD T.cbActive)) k
    let rd := o.read (o.at_ / 4 * 4) (o.windowEnd o.at_)
    (pickHandle s n = some h → (s.pow.duty ≠ 0 ∨ s.admitted ≠ []) → s.sec.retention = false → runs (.arrayBeat n h) s (fun t =>
      (t.tile n).lastBeat = h ∧ (∃ q, (t.tile n).mmas = [q] ∧ q.at_ = o.at_ + 1 ∧ q.h = h ∧ q.k = o.k) ∧
      (∃ U, mfind (t.tile n).sets h = some U ∧ U.shape = S.shape ∧ U.tcols = S.tcols ∧
        (∀ i j, (i, j) ∈ o.cells S.shape → S.isTally (i * N + j) = false →
          mget {} U.outs (i * N + j) = (o.products rd cb i j (o.at_ * o.rate) ((o.at_ + 1) * o.rate)).foldl
            (addLedger (unitOf (dFmt o.da) + unitOf (dFmt o.db))) (mget {} S.outs (i * N + j))) ∧
        (∀ i j, j < N → (i, j) ∉ o.cells S.shape → mget {} U.outs (i * N + j) = mget {} S.outs (i * N + j))) ∧
      (∀ k, k ≠ h → mfind (t.tile n).sets k = mfind T.sets k) ∧ (t.tile n).threads = T.threads ∧ onlyTileCounted n s t ∧ sameBytes s t)) ∧
    (pickHandle s n ≠ some h → runs (.arrayBeat n h) s (fun t => t = s))

/-- MMA_COMPLETE of a handle whose oldest MMA has taken its last beat removes it and records success, or LEDGER_RANGE when a
range event fell in it, on its thread (a mask that does not halt on class 0x04); before its last beat nothing changes. RSC_COMPLETE of a
drain whose store is done frees the handle and its outputs and gives the drain's status to its token; CPYL_COMPLETE of the tile's only
copy, once written, gives its status to its token, and the copy that waited longest begins. No register, no byte of memory, no other
token or handle changes but by what goes on then; a cue is affected only when the status is UNCORRECTABLE. -/
def Obligations.ArrayCompletions : Prop :=
  (∀ (n h : Nat) (s : State) (o : ArrOp), (s.tile n).mmas.find? (fun q => q.h == h) = some o → o.st = 0 →
    let r : TRef := ⟨n, o.th⟩
    let th := s.thread r
    (o.at_ = o.beats → th.live = true → th.haltsOn stLedgerRange = false → runsWake (.mmaComplete n h) s (fun t =>
      t.thread r = th.record (if o.rangeEv then 0x0402 else 0) ∧ (t.tile n).mmas = (s.tile n).mmas.erase o ∧ (t.tile n).sets = (s.tile n).sets ∧
      (∀ k, k ≠ r → t.thread k = s.thread k) ∧ onlyTile n s t ∧ sameBytes s t)) ∧
    (o.at_ < o.beats → runsWake (.mmaComplete n h) s (fun t => t = s))) ∧
  (∀ (n h : Nat) (s : State) (o : RscOp),
    (s.tile n).rscs.find? (fun q => q.h == h) = some o → o.h = h → o.started = true → o.op = none →
    let r : TRef := ⟨n, o.th⟩
    (s.thread r).live = true → runsWake (.rscComplete n h) s (fun t =>
      mfind (t.tile n).sets h = none ∧ (∀ k, k ≠ h → mfind (t.tile n).sets k = mfind (s.tile n).sets k) ∧
      (t.tile n).rscs = (s.tile n).rscs.filter (fun q => q.h != h) ∧
      t.thread r = { s.thread r with toks := (s.thread r).toks.map (fun k => if k.n = o.tok then { k with done := some o.st } else k) } ∧
      (∀ k, k ≠ r → t.thread k = s.thread k) ∧ (o.st ≠ stUncorrectable → onlyTileCounted n s t) ∧ sameBytes s t)) ∧
  (∀ (n : Nat) (s : State) (o : CpylOp), (s.tile n).cpyl = some o → o.stored = true → o.op = none →
    let r : TRef := ⟨n, o.th⟩
    (s.thread r).live = true → runsWake (.cpylComplete n) s (fun t => sameBytes s t ∧
      ((s.tile n).cpylWait = [] → (t.tile n).cpyl = none ∧ (o.st ≠ stUncorrectable → onlyTile n s t) ∧ (∀ k, k ≠ r → t.thread k = s.thread k) ∧
        t.thread r = { s.thread r with toks := (s.thread r).toks.map (fun k => if k.n = o.tok then { k with done := some o.st } else k) }) ∧
      (∀ w ws, (s.tile n).cpylWait = w :: ws → (t.tile n).cpylWait = ws ∧ (t.thread r).s = (s.thread r).s ∧
        (t.thread r).toks = (s.thread r).toks.map (fun k => if k.n = o.tok then { k with done := some o.st } else k) ∧
        ∃ q, (t.tile n).cpyl = some q ∧ q.tok = w.tok ∧ q.th = w.th ∧ q.src = w.src ∧ q.dst = w.dst ∧ q.stored = w.stored))) ∧
  (∀ (n : Nat) (s : State) (o : CpylOp), quietThreads (s.setTile n { s.tile n with cpyl := none }) = true → s.reels = [] →
    (s.tile n).cpyl = some o → (s.tile n).cpylWait = [] → o.stored = true → o.op = none →
    let r : TRef := ⟨n, o.th⟩
    (s.thread r).live = true → runs (.cpylComplete n) s (fun t => (t.tile n).cpyl = none ∧
      t.thread r = { s.thread r with toks := (s.thread r).toks.map (fun k => if k.n = o.tok then { k with done := some o.st } else k) } ∧
      (∀ k, k ≠ r → t.thread k = s.thread k) ∧ onlyTile n s t ∧ sameBytes s t))

/-- Of a thread not on standby with a token free, on a tile with nothing in progress: RSC of a handle in flight with no RSC issued, a valid output
descriptor and start that is no I4 tensor and obeys the grouping rule, whose output pages grant W, takes the lowest free token into RD, marks
the handle and enters the drain under the active rescale table; of a handle not in flight it gives FORM_MISMATCH. CPYL of valid
descriptors that do not overlap takes a token and enters the copy. RSC_DRAIN_START of a handle whose MMAs have completed, with no other drain
under way, starts the drain: its store carries the bytes of the rescaled outputs, its flags join the thread's, and no byte of
memory is written yet. -/
def Obligations.RscAndCpyl : Prop :=
  (∀ (r : TRef) (f : DForm) (s : State) (S : OutSet), f.x = none → (s.thread r).stby = false → idleTile s r.tile →
    let th := s.thread r
    let T := s.tile r.tile
    let n := freeToken th
    let th1 : Thread := { th with toks := th.toks ++ [⟨n, none⟩] }
    let owned := (th1.setS f.rd.toNat (BitVec.ofNat 64 n)).completed 0 1 (th.pc + 8)
    (ready s r [.s f.rd.toNat, .s f.ra.toNat, .d f.d1.toNat, .s f.i10.toNat, .s f.i11.toNat] = true →
      let h := (th.sreg f.ra.toNat).toNat
      let d := th.dreg f.d1.toNat
      let st := starts d (th.sreg f.i10.toNat) (th.sreg f.i11.toNat)
      (∀ ps, mfind T.sets h = some S → S.rsc = false → descOk d = true → startsOk d st = true → dFmt d ≠ 9 → groupingOk d st S.shape = true →
        checkAll s (some r.tile) .w (pagePieces (outRanges d st S.shape)) = .ok ps → th.toks.length < 16 →
        runs (.rsc (.t r) f) s (fun t => t.thread r = owned ∧ mfind (t.tile r.tile).sets h = some { S with rsc := true } ∧
          (∃ q, (t.tile r.tile).rscs = [q] ∧ q.h = h ∧ q.th = r.th ∧ q.tok = n ∧ q.d = d ∧ q.start = st ∧ q.rt = T.rtActive ∧ q.started = false) ∧
          (∀ k, k ≠ r → t.thread k = s.thread k) ∧ sameBytes s t)) ∧
      (mfind T.sets h = none → th.haltsOn stFormMismatch = false →
        runs (.rsc (.t r) f) s (onlyThread r (th.completed stFormMismatch 1 (th.pc + 8)) s))) ∧
    (ready s r (mmaRegs f) = true →
      let src := th.dreg f.d1.toNat
      let dst := th.dreg f.d2.toNat
      let s0 := starts src (th.sreg f.i10.toNat) (th.sreg f.i11.toNat)
      let s1 := starts dst (th.sreg f.i20.toNat) (th.sreg f.i21.toNat)
      let o : CpylOp := { th := r.th, tok := 0, reel := th.reel, slot := th.cueSlot, src, dst, s0, s1 }
      ∀ ps qs, descOk src = true → descOk dst = true → startsOk src s0 = true → startsOk dst s1 = true → dFmt dst ≠ 9 →
        ((tensorSpan src).2 ≤ (tensorSpan dst).1 ∨ (tensorSpan dst).2 ≤ (tensorSpan src).1) →
        checkAll s (some r.tile) .r (pagePieces (cpylSource o)) = .ok ps → checkAll s (some r.tile) .w (pagePieces (cpylDest o)) = .ok qs →
        ps.all (fun p => (s.tile r.tile).xc.any (fun e => e.covers p.1.va)) = true → nearPages s (pagesOf ps) → th.toks.length < 16 →
        runs (.cpyl (.t r) f) s (fun t => t.thread r = owned ∧
          (∃ q, (t.tile r.tile).cpyl = some q ∧ q.th = r.th ∧ q.tok = n ∧ q.src = src ∧ q.dst = dst ∧ q.s0 = s0 ∧ q.s1 = s1 ∧ q.stored = false) ∧
          (∀ k, k ≠ r → t.thread k = s.thread k) ∧ sameBytes s t))) ∧
  (∀ (n h : Nat) (s : State) (o : RscOp) (S : OutSet),
    let T := s.tile n
    let r : TRef := ⟨n, o.th⟩
    T.rscs = [o] → o.h = h → o.started = false → T.mmas = [] → T.ra = [] → T.ops = [] → mfind T.sets h = some S → s.sec.retention = false →
    nearPages s o.pages → (s.thread r).live = true → (drain T n o S s).1 ≠ [] →
    runsWake (.rscDrainStart n h) s (fun t =>
      (∃ id, (t.tile n).rscs = [{ o with started := true, op := some id }] ∧ ∃ m, t.op n id = some m ∧ m.kind = .store ∧
        m.data = (joinBytes (drain T n o S s).1).flatMap (fun x => x.2)) ∧
      t.thread r = { s.thread r with flags := (s.thread r).flags ||| (drain T n o S s).2.1 } ∧ (t.tile n).sets = T.sets ∧ sameBytes s t))

/-- CUE of a sequence's thread that may issue it: with a cue open it gives CUE_OPEN, with an address not aligned to 8 bytes MISALIGNED, RD unchanged;
with a declaration of one device that can be read, the sequence's cue awaits admission and the thread waits. CUE_ADMISSION of an awaiting cue of one
device, no change of the admission mode pending: while admission is held it gives ADMIT_HELD, RD unchanged; with the quota passed or the device
shut down REJECT_CAPACITY, else with a deadline not after now REJECT_DEADLINE, RD 0 either way; where the test finds every bound met, the cue is
admitted with the next generation's number in RD, the floor ADM, and AHOLD added to USED. Where no cue awaits, or the Director has no core
to decide (R410), nothing changes. The mask does not halt on class 0x01. -/
def Obligations.CueAdmission : Prop :=
  (∀ (r : TRef) (f : SForm) (s : State), f.x = none → s.rep.fwSwitching = false → ready s r [.s f.rd.toNat, .s f.ra.toNat] = true →
    (s.thread r).helper = false →
    let th := s.thread r
    let va := (th.sreg f.ra.toNat).toNat
    ∀ q, s.seq th.reel th.slot = some q →
      (q.cue.isSome = true → th.haltsOn stCueOpen = false → runs (.cue (.t r) f) s (onlyThread r (th.completed stCueOpen 1 (th.pc + 8)) s)) ∧
      (q.cue = none → va % 8 ≠ 0 → th.haltsOn stMisaligned = false →
        runs (.cue (.t r) f) s (onlyThread r (th.completed stMisaligned 1 (th.pc + 8)) s)) ∧
      (∀ bs, q.cue = none → va % 8 = 0 → descHere s r .r va 168 bs →
        let w := wordsOf 21 bs
        (∀ n, n < 12 → Config.ports s.build ≤ n → w.getD (9 + n) 0 = 0) → bitOf (w.getD 6 0) 32 = false →
        runs (.cue (.t r) f) s (fun t => t = { s with tiles := t.tiles, reels := t.reels } ∧
          t.seq th.reel th.slot = some { q with cue := some { r, rd := f.rd.toNat, decl := w, deadline := (w.getD 0 0).toNat } } ∧
          t.thread r = { th with held := some ⟨.cue (.t r) f, .cue⟩ } ∧ onlySeq th.reel th.slot r s t))) ∧
  (∀ (reel slot : Nat) (s : State), (s.split 0).pend = false →
    (s.directorUp = false → runs (.cueAdmission reel slot) s (fun t => t = s)) ∧
    (((s.seq reel slot).bind (fun q => q.cue)).all (fun c => c.st != .awaiting) = true → runs (.cueAdmission reel slot) s (fun t => t = s)) ∧
    (∀ (q : Seq) (c : Cue), s.seq reel slot = some q → q.cue = some c → c.st = .awaiting → c.members = [] → s.directorUp = true →
      let th := s.thread c.r
      let R := s.reel reel
      let overQ := R.aqEn && decide (R.aqLimit < R.aqUsed + bitsOf (c.word 5) 47 24)
      let rejected := fun (st : Status) (t : State) => t.seq reel slot = some { q with cue := none } ∧
        t.thread c.r = (th.setS c.rd 0).completed st 1 (th.pc + 8) ∧ (t.reel reel).aqUsed = R.aqUsed ∧ (t.reel reel).qrej = (R.qrej || overQ) ∧ onlySeq reel slot c.r s t
      (s.admitHeld = true → th.haltsOn stAdmitHeld = false → runs (.cueAdmission reel slot) s (fun t =>
        t.seq reel slot = some { q with cue := none } ∧ t.thread c.r = th.completed stAdmitHeld 1 (th.pc + 8) ∧ t.reel reel = { R with seqs := (t.reel reel).seqs } ∧
        onlySeq reel slot c.r s t)) ∧
      (s.admitHeld = false → th.haltsOn stRejectCapacity = false → (overQ = true ∨ s.pow.shut = true) →
        runs (.cueAdmission reel slot) s (rejected stRejectCapacity)) ∧
      (s.admitHeld = false → th.haltsOn stRejectDeadline = false → overQ = false → s.pow.shut = false → c.deadline ≤ s.time.tmb.toNat →
        runs (.cueAdmission reel slot) s (rejected stRejectDeadline)) ∧
      (s.admitHeld = false → admitTest s reel slot { c with bkeOp := s.floor.adm } = stOk → runs (.cueAdmission reel slot) s (fun t =>
        let g := mget 0 R.gens slot
        let num := 8 * reel + slot + 128 * (if 511 ≤ g then 1 else g + 1)
        (∃ c', t.seq reel slot = some { q with cue := some c' } ∧ c'.st = .admitted ∧ c'.num = num ∧ c'.floor = s.floor.adm ∧ c'.aMode = s.aMode 0 ∧
          c'.decl = c.decl ∧ c'.deadline = c.deadline ∧ c'.servTicks = c.servTicks) ∧
        t.thread c.r = (th.setS c.rd (BitVec.ofNat 64 num)).completed 0 1 (th.pc + 8) ∧
        (t.reel reel).aqUsed = Nat.min (R.aqUsed + bitsOf (c.word 5) 47 24) 0xFFFFFF ∧ t.pow = s.pow.boundary ∧ obsCounted s t ∧
        t = { s with tiles := t.tiles, reels := t.reels, pow := t.pow, obs := t.obs, cueOrder := s.cueOrder + 1 } ∧ onlySeq reel slot c.r s t))))

/-- ENDCUE of a sequence's thread that names the sequence's open cue, which no other ENDCUE has named, waits; one that names
another number gives FORM_MISMATCH. CUE_END of a cue so named, whose thread holds its ENDCUE and no token still running, ends the cue: success by the
deadline, else LATE when an exception affected it, else OVERRUN; the tokens are freed, AFREE leaves USED, and a cue boundary passes; while a
token runs nothing changes. CUE_EXPIRE of an admitted cue after its deadline leaves the cue open and no longer admitted, and an event record is
placed or, without room, counted as dropped; up to its deadline, and for any other cue, nothing changes. The mask does not halt on class
0x02. -/
def Obligations.CueEnds : Prop :=
  (∀ (r : TRef) (f : SForm) (s : State) (q : Seq) (c : Cue), f.x = none → ready s r [.s f.ra.toNat] = true → (s.thread r).helper = false →
    let th := s.thread r
    s.seq th.reel th.slot = some q → q.cue = some c → c.st ≠ .awaiting →
    ((th.sreg f.ra.toNat).toNat = c.num → (c.ending = none ∨ c.ending = some r) → runs (.endcue (.t r) f) s (fun t =>
      t.seq th.reel th.slot = some { q with cue := some { c with ending := some r } } ∧ t.thread r = { th with held := some ⟨.endcue (.t r) f, .endcue⟩ } ∧
      t = { s with tiles := t.tiles, reels := t.reels } ∧ onlySeq th.reel th.slot r s t)) ∧
    ((th.sreg f.ra.toNat).toNat ≠ c.num → th.haltsOn stFormMismatch = false →
      runs (.endcue (.t r) f) s (onlyThread r (th.completed stFormMismatch 1 (th.pc + 8)) s))) ∧
  (∀ (reel slot : Nat) (s : State) (q : Seq) (c : Cue) (r : TRef) (i : Instr), s.seq reel slot = some q → q.cue = some c → c.st ≠ .awaiting → c.ending = some r →
    let th := s.thread r
    th.held = some ⟨i, .endcue⟩ →
    (th.toks.all (fun k => k.done.isSome) = true → (∀ st, statusClass st = 2 → th.haltsOn st = false) → runs (.cueEnd reel slot) s (fun t =>
      let st := if s.time.tmb.toNat ≤ c.deadline then stOk else if c.affected then stLate else stOverrun
      t.seq reel slot = some { q with cue := none } ∧ t.thread r = ({ th with toks := [] }).completed st 1 (th.pc + 8) ∧
      (t.reel reel).aqUsed = (s.reel reel).aqUsed - bitsOf (c.word 6) 23 0 ∧ t.pow = s.pow.boundary ∧ obsCounted s t ∧
      t = { s with tiles := t.tiles, reels := t.reels, pow := t.pow, obs := t.obs } ∧ onlySeq reel slot r s t)) ∧
    (th.toks.all (fun k => k.done.isSome) = false → runs (.cueEnd reel slot) s (fun t => t = s))) ∧
  (∀ (reel slot : Nat) (s : State),
    (s.cueIn reel slot = none → runs (.cueExpire reel slot) s (fun t => t = s)) ∧
    (∀ q c, s.seq reel slot = some q → q.cue = some c → c.st = .admitted → s.time.tmb.toNat ≤ c.deadline → runs (.cueExpire reel slot) s (fun t => t = s)) ∧
    (∀ q c, s.seq reel slot = some q → q.cue = some c → c.st = .admitted → c.deadline < s.time.tmb.toNat → runs (.cueExpire reel slot) s (fun t =>
      t.seq reel slot = some { q with cue := some { c with st := .expired } } ∧ t.cueIn reel slot = none ∧
      t.reel reel = { s.reel reel with seqs := (t.reel reel).seqs } ∧ (∀ n, n ≠ reel → t.reel n = s.reel n) ∧ t.tiles = s.tiles ∧
      t = { s with reels := t.reels, host := t.host } ∧ eventPlaced 0 0x0B reel slot 0 0 (BitVec.ofNat 64 c.num) 0 s t)))

/-- Outside SAFE, a write of DIR_FLOOR with REQ 0 or 3 changes nothing but REFUSED, which it sets; a lower REQ is taken by
ADM at once; a higher one leaves ADM and sets PEND when it exceeds ADM; RATE then goes to the members of open cross-device cues, and nothing goes
without one. A RATE that reaches its device records the sender's floor and point.
PHASE of 0 to 7 sets the reel's phase; a larger number gives FORM_MISMATCH. DBG_FRZ_REQ, and CLAP, with counting on: a tick not passed joins at most
four pending ones, a fifth distinct one is dropped and counted, and one already pending stays; a passed tick freezes at once and sets LATE; with
counting off neither freezes. Both flood CLAP along the spanning tree. FREEZE
takes the earliest pending tick once it has come: every counter's frozen copy takes its value, EPOCH counts and FTICK is the tick; before it, or with none
pending, nothing changes. No freeze changes a live counter. -/
def Obligations.FloorAndFreezes : Prop :=
  (∀ (s : State) (v : W64), s.start.phase ≠ .safe →
    let refused := s.floor.refused && !bitOf v 7
    runs (.floorWrite v) s (fun t =>
      (bitsOf v 1 0 = 0 ∨ bitsOf v 1 0 = 3 → t = { s with floor := { s.floor with refused := true } }) ∧
      (bitsOf v 1 0 = s.floor.req → bitsOf v 1 0 = 1 ∨ bitsOf v 1 0 = 2 → t = { s with floor := { s.floor with refused } }) ∧
      (bitsOf v 1 0 = 1 → s.floor.req = 2 → sent { s with floor := { s.floor with refused, req := 1, adm := 1, pend := false } } t) ∧
      (bitsOf v 1 0 = 2 → s.floor.req = 1 → sent { s with floor := { s.floor with refused, req := 2, pend := decide (s.floor.adm < 2) } } t) ∧
      (s.cues.all (fun c => c.2.2.members.isEmpty) = true → t = { s with floor := t.floor }))) ∧
  (∀ (s : State) (port : Nat) (m : Msg), portIsUp s port = true → s.links.claimed = true → m.dst = s.ownId →
    (m.mtype = mtRATE → runs (.rate port m) s (fun t =>
      t = { s with links := { s.links with announced := mput s.links.announced m.src (m.param % 4, m.param / 4 % 4) } })) ∧
    (m.mtype ≠ mtRATE → runs (.rate port m) s (fun t => t = s))) ∧
  (∀ (r : TRef) (f : SForm) (s : State), f.x = none → ready s r [] = true →
    let th := s.thread r
    (f.imm.toNat < 8 → runs (.phase (.t r) f) s (fun t => t.thread r = th.completed 0 1 (th.pc + 8) ∧
      t.reel th.reel = { s.reel th.reel with phase := f.imm.toNat } ∧ (∀ n, n ≠ th.reel → t.reel n = s.reel n) ∧ obsCounted s t ∧
      t = { s with tiles := t.tiles, reels := t.reels, obs := t.obs } ∧ (∀ k, k ≠ r → t.thread k = s.thread k) ∧ sameBytes s t)) ∧
    (8 ≤ f.imm.toNat → th.haltsOn stFormMismatch = false →
      runs (.phase (.t r) f) s (onlyThread r (th.completed stFormMismatch 1 (th.pc + 8)) s))) ∧
  (∀ (s : State) (tick : W64), s.start.phase ≠ .safe →
    let asked := fun (t : State) =>
      (s.obs.cntEn = false → t.obs = s.obs) ∧
      (s.obs.cntEn = true → tick.toNat ≤ s.time.tmb.toNat →
        t.obs.late = true ∧ t.obs.ftick = s.time.tmb.toNat % 2 ^ 32 ∧ t.obs.epoch = (s.obs.epoch + 1) % 65536 ∧ t.obs.pending = s.obs.pending) ∧
      (s.obs.cntEn = true → s.time.tmb.toNat < tick.toNat → t.obs.epoch = s.obs.epoch ∧
        (tick.toNat ∈ s.obs.pending → t.obs.pending = s.obs.pending ∧ t.obs.drop = s.obs.drop) ∧
        (tick.toNat ∉ s.obs.pending → s.obs.pending.length < 4 → t.obs.pending = s.obs.pending ++ [tick.toNat] ∧ t.obs.drop = s.obs.drop) ∧
        (tick.toNat ∉ s.obs.pending → 4 ≤ s.obs.pending.length → t.obs.pending = s.obs.pending ∧ t.obs.drop = Nat.min (s.obs.drop + 1) 0xFF))
    runs (.freezeRequest tick) s (fun t => asked t ∧ (∀ k, t.thread k = s.thread k) ∧ sameBytes s t) ∧
    (∀ (r : TRef) (f : SForm), f.x = none → ready s r [.s f.ra.toNat] = true → (s.thread r).sreg f.ra.toNat = tick → runs (.clap (.t r) f) s (fun t =>
      asked t ∧ t.thread r = (s.thread r).completed 0 1 ((s.thread r).pc + 8) ∧ (∀ k, k ≠ r → t.thread k = s.thread k) ∧ sameBytes s t)) ∧
    (s.links.claimed = false ∨ treePorts s = [] →
      (s.obs.cntEn = false → runs (.freezeRequest tick) s (fun t => t = s)) ∧
      (s.obs.cntEn = true → s.time.tmb.toNat < tick.toNat → runs (.freezeRequest tick) s (fun t =>
        (tick.toNat ∈ s.obs.pending → t = s) ∧
        (tick.toNat ∉ s.obs.pending → s.obs.pending.length < 4 → t = { s with obs := { s.obs with pending := s.obs.pending ++ [tick.toNat] } }) ∧
        (tick.toNat ∉ s.obs.pending → 4 ≤ s.obs.pending.length → t = { s with obs := { s.obs with drop := Nat.min (s.obs.drop + 1) 0xFF } }))) ∧
      (∀ (r : TRef) (f : SForm), f.x = none → ready s r [.s f.ra.toNat] = true → s.obs.cntEn = false →
        runs (.clap (.t r) f) s (onlyThread r ((s.thread r).completed 0 1 ((s.thread r).pc + 8)) s))) ∧
    (∀ n, s.links.claimed = true → treePorts s = [n] → linkReady s n 3 = true → s.obs.cntEn = false →
      runs (.freezeRequest tick) s (fun t => sent s t ∧
        flitSent n { mtype := mtCLAP, dst := (s.port n).peer, src := s.ownId, data := leBytes 8 tick.toNat } s t))) ∧
  (∀ (s : State),
    (s.obs.pending = [] → runs .freeze s (fun t => t = s)) ∧
    (∀ x ∈ s.obs.pending, (∀ y ∈ s.obs.pending, x ≤ y) →
      (s.time.tmb.toNat < x → runs .freeze s (fun t => t = s)) ∧
      (x ≤ s.time.tmb.toNat → runs .freeze s (fun t =>
        (∀ n, t.tile n = { s.tile n with fixF := (s.tile n).fix, pmcF := (s.tile n).pmc }) ∧ (∀ n, t.reel n = { s.reel n with cntF := (s.reel n).cnt }) ∧
        t.obs = { s.obs with pending := s.obs.pending.erase x, baseF := s.obs.base, epoch := (s.obs.epoch + 1) % 65536, ftick := s.time.tmb.toNat % 2 ^ 32, nalign := s.obs.nalign || !s.time.aligned, late := s.obs.late || decide (x < s.time.tmb.toNat), fifos := t.obs.fifos, trcLosses := t.obs.trcLosses } ∧
        t = { s with tiles := t.tiles, reels := t.reels, obs := t.obs } ∧ sameBytes s t))))

/-- Outside SAFE: CLR zeroes every live counter and no frozen copy. A write of the enables at no session level takes none of them, and STATUS says
DEBUG_DENIED when any was asked for; with CLR alone it succeeds. At D1, CNT_EN takes its bit and TRC_EN does not; at D2 with domain 94 ON and a
ring, TRC_EN takes its bit. DAILIES_SAMPLE with no enable set changes nothing; with sampling not possible after a start it notes a gap; before a
due tick it writes nothing; at or after it, with room in the ring, it writes one record at NEXT, counts the samples it skipped, and clears the
gap. TRACE_DRAIN of a source without a record, no change of mode pending, changes nothing; of the oldest record of a ring in
host memory with room before RD it sends the record's bytes, moves WR by its length and takes it from the FIFO; where the write fails it clears
TRC_EN. Nothing else changes. -/
def Obligations.CountersDailiesTrace : Prop :=
  (∀ (s : State), s.start.phase ≠ .safe → runs .clr s (fun t =>
    (∀ n, t.tile n = { s.tile n with fix := [], pmc := [] }) ∧ (∀ n, t.reel n = { s.reel n with cnt := [] }) ∧ t.obs = { s.obs with base := [] } ∧
    t = { s with tiles := t.tiles, reels := t.reels, obs := t.obs })) ∧
  (∀ (s : State) (v : W64), s.start.phase ≠ .safe → bitOf v 1 = false → runs (.obsEnableWrite v) s (fun t =>
    t = { s with obs := { s.obs with cntEn := t.obs.cntEn, trcEn := t.obs.trcEn, trcAddr := t.obs.trcAddr, dlyEn := t.obs.dlyEn, armWarm := t.obs.armWarm, status := t.obs.status, fifos := t.obs.fifos, dlyT0 := t.obs.dlyT0 } } ∧
    (s.sec.level = 0 → t.obs.cntEn = false ∧ t.obs.trcEn = false ∧ t.obs.trcAddr = false ∧ t.obs.dlyEn = false ∧ t.obs.armWarm = false ∧
      t.obs.status = (if bitOf v 0 || bitOf v 2 || bitOf v 3 || bitOf v 4 || bitOf v 5 then stDebugDenied else stOk)) ∧
    (s.sec.level = 1 → t.obs.cntEn = bitOf v 0 ∧ t.obs.trcEn = false ∧ t.obs.trcAddr = false ∧ t.obs.armWarm = bitOf v 5 ∧
      (bitOf v 2 = true → t.obs.status = stDebugDenied)) ∧
    (s.sec.level = 2 → s.sec.susp = false → t.obs.cntEn = bitOf v 0 ∧ t.obs.trcAddr = false ∧
      t.obs.trcEn = (bitOf v 2 && s.domOn 94 && s.obs.trcSize != 0) ∧
      (bitOf v 3 = false → bitOf v 2 = true → s.domOn 94 = false → t.obs.status = stDomainBusy)))) ∧
  (∀ (s : State),
    (s.obs.dlyEn = false → s.obs.armWarm = false → runs .dailiesSample s (fun t => t = s)) ∧
    ((s.obs.dlyEn = true ∨ s.obs.armWarm = true) → dlyMay s = false →
      (s.obs.dlyT0 = none → runs .dailiesSample s (fun t => t = s)) ∧
      (s.obs.dlyT0.isSome = true → runs .dailiesSample s (fun t => t = { s with obs := { s.obs with dlyGap := true } }))) ∧
    (∀ t0, dlyMay s = true → s.obs.dlyT0 = some t0 → s.obs.dlyGap = false →
      s.time.tmb.toNat < t0.toNat + s.obs.dlyJ * Nat.max 1000 (Nat.min s.obs.dlyInterval 1000000) → runs .dailiesSample s (fun t => t = s)) ∧
    (∀ t0, dlyMay s = true → s.obs.dlyT0 = some t0 →
      let now := s.time.tmb.toNat
      let k := (now - t0.toNat) / Nat.max 1000 (Nat.min s.obs.dlyInterval 1000000)
      let j := if s.obs.dlyGap then k else s.obs.dlyJ
      let n := (dlyRecord s j s.obs.dlyGap).length
      let size := s.obs.dlySize * 4096
      t0.toNat + j * Nat.max 1000 (Nat.min s.obs.dlyInterval 1000000) ≤ now → n ≤ size → (s.obs.dlyWrap = true ∨ s.obs.dlyNext + n ≤ size) →
      runs .dailiesSample s (fun t => t.obs.dlyJ = k + 1 ∧ t.obs.dlyNext = (s.obs.dlyNext + n) % size ∧ t.obs.dlyGap = false ∧
        t.obs.dlySkip = Nat.min (s.obs.dlySkip + (k - j)) 0xFFFF ∧ t.obs.dlyT0 = some t0))) ∧
  (∀ (s : State) (src : Nat) (e : HostEnd), (s.split 7).pend = false →
    let f : Fifo := mget {} s.obs.fifos src
    let size := s.obs.trcSize * 4096
    let used := (s.obs.trcWr + size - s.obs.trcRd % Nat.max 1 size) % Nat.max 1 size
    (f.recs = [] → runs (.traceDrain src e) s (fun t => t = s)) ∧
    (∀ rec rest, f.recs = rec :: rest → s.domOn 94 = true → s.obs.trcSize ≠ 0 → s.obs.trcWrap = false →
      (size ≤ used + 8 * rec.length → runs (.traceDrain src e) s (fun t => t = s)) ∧
      (used + 8 * rec.length < size → s.obs.trcDest = true →
        (e ≠ .abort → s.host.bme = true → s.host.degraded = false → s.obs.trcWr + 8 * rec.length ≤ size → runs (.traceDrain src e) s (fun t =>
          t.host = { s.host with out := s.host.out ++ [.write (s.obs.trcBase * 4096 + s.obs.trcWr) (bytesOfWords rec)] } ∧
          t.obs = { s.obs with fifos := mput s.obs.fifos src { f with recs := rest }, trcWr := (s.obs.trcWr + 8 * rec.length) % size } ∧
          t = { s with host := t.host, obs := t.obs })) ∧
        ((e = .abort ∨ s.host.bme = false ∨ s.host.degraded = true) → runs (.traceDrain src e) s (fun t =>
          t.obs = { s.obs with trcEn := false } ∧ t = { s with host := t.host, obs := t.obs, freeCtr := s.freeCtr + 1 })))))

/-- Of a thread not on standby that may issue it, with a token free, no firmware switch or mode change pending, and translations cached: UPD, RDW,
COLL and PERM of an unaligned descriptor give MISALIGNED. UPD whose descriptor can be read gives FORM_MISMATCH when a field breaks R242, and otherwise,
when every piece's page is good and every chunk lies contiguous in one scratch column, begins with its group's STEP as tag. RDW of a listed format,
N not 0, aligned bases and a destination in near memory or HBM begins with its group's STEP as tag. SCRUB of whole aligned pages that grant S, none of
them in a host window, begins when no SEM with ACQ is outstanding; a length or base not a multiple of 4 KiB gives MISALIGNED. TOLL of group 0 to 15 joins the gathering step, or the next while BUSY; a
larger RB gives FORM_MISMATCH. COLL in H mode and PERM of a valid descriptor and a member list with this device in it and none twice begin with the
digest. Each takes the lowest free token into RD and changes nothing else; a failed check takes none. -/
def Obligations.TokenOperationsIssue : Prop :=
  ∀ (r : TRef) (f : SForm) (s : State), f.x = none → (s.thread r).stby = false → s.rep.fwSwitching = false → (s.split 2).pend = false → (s.split 3).pend = false →
    (s.thread r).toks.length < 16 →
    let th := s.thread r
    let va := (th.sreg f.ra.toNat).toNat
    let fails := fun (i : Instr) (st : Status) => th.haltsOn st = false → runs i s (onlyThread r (th.completed st 1 (th.pc + 8)) s)
    let o : BOp := { id := s.bank.nextOp, tile := r.tile, th := r.th, tok := freeToken th, kind := .upd, reel := th.reel, slot := th.cueSlot, addr := va }
    (ready s r [.s f.rd.toNat, .s f.ra.toNat] = true →
      (va % 8 ≠ 0 → ∀ i ∈ ([.upd, .rdw, .coll, .perm] : List (Who → SForm → Instr)), fails (i (.t r) f) stMisaligned) ∧
      (∀ bs, va % 8 = 0 → descHere s r .r va 136 bs →
        let d : UpdDesc := wordsOf 17 bs
        let am := s.aMode 2 && d.op == 0
        (d.fieldsOk am = false → fails (.upd (.t r) f) stFormMismatch) ∧
        (∀ ps, d.fieldsOk am = true → checkMix s (some r.tile) (updChecks d am va) = .ok ps → pagesCached s r.tile ps = true →
          d.placed s am (updPages s r va ps) = true →
          runs (.upd (.t r) f) s (opQueued r f.rd.toNat { o with words := d, pages := updPages s r va ps, group := d.group, tag := (s.group d.group).step, aMode := am, idx := s.bank.updPc.toNat, alg := s.bank.updThreads } s))) ∧
      (∀ bs ps, va % 8 = 0 → descHere s r .r va 32 bs →
        let w := wordsOf 4 bs
        let n := bitsOf (w.getD 0 0) 47 16
        let db := bitsOf (w.getD 1 0) 51 0
        let sb := bitsOf (w.getD 2 0) 51 0
        let g := bitsOf (w.getD 0 0) 11 8
        let e := if bitsOf (w.getD 0 0) 3 0 = 0 then 4 else 2
        ((2 < bitsOf (w.getD 0 0) 3 0 ∨ n = 0) → fails (.rdw (.t r) f) stFormMismatch) ∧
        (bitsOf (w.getD 0 0) 3 0 ≤ 2 → n ≠ 0 → db % 4 = 0 → sb % e = 0 →
          checkMix s (some r.tile) ((pagePieces [(va, 32)]).map (fun q => (Need.rw, q)) ++ (pagePieces [(db, 4 * n)]).map (fun q => (Need.u, q)) ++
            (pagePieces [(sb, e * n)]).map (fun q => (Need.r, q))) = .ok ps → pagesCached s r.tile ps = true →
          (pagePieces [(db, 4 * n)]).all (fun q => addable s (paOf (pagesOf ps) q.va).1) = true →
          runs (.rdw (.t r) f) s (opQueued r f.rd.toNat { o with kind := .rdw, words := w, pages := pagesOf ps, group := g, tag := (s.group g).step } s))) ∧
      (∀ bs mbs ps, va % 8 = 0 → descHere s r .r va 64 bs → s.aMode 3 = false →
        let w := wordsOf 8 bs
        let n := bitsOf (w.getD 0 0) 25 13
        let ms := memberIds n mbs
        let q : BOp := { o with kind := .coll, words := w, group := bitsOf (w.getD 0 0) 11 8, members := ms, rank := rankIn s ms, pages := pagesOf ps }
        let dp := pagePieces [(q.cdst, q.delt * q.dstUnits)]
        q.cop ≤ 3 → (2 ≤ q.cop ∨ (q.csfmt ≤ 2 ∧ q.cdst % 4 = 0 ∧ q.csrc % q.celt = 0)) → q.cn ≠ 0 → 2 ≤ n → n ≤ 4096 →
        descHere s r .r (bitsOf (w.getD 4 0) 51 0) (2 * n) mbs → membersOk s ms = true →
        checkMix s (some r.tile) ((pagePieces [(va, 64)]).map (fun q => (Need.rw, q)) ++ dp.map (fun q => (Need.c, q)) ++
          (pagePieces [(q.csrc, q.celt * q.srcUnits)]).map (fun q => (Need.r, q))) = .ok ps → pagesCached s r.tile ps = true →
        dp.all (fun p => addable s (paOf (pagesOf ps) p.va).1) = true →
        runs (.coll (.t r) f) s (opQueued r f.rd.toNat { q with digest := collDigest q } s)) ∧
      (∀ bs mbs map ps, va % 8 = 0 → descHere s r .r va 64 bs →
        let w := wordsOf 8 bs
        let n := bitsOf (w.getD 0 0) 12 0
        let ms := memberIds n mbs
        let q : BOp := { o with kind := .perm, words := w, members := ms, rank := rankIn s ms, pages := pagesOf ps, sched := (elems 4 (bitsOf (w.getD 0 0) 35 16) map).map (BitVec.ofNat 64) }
        let bp := pagePieces [(q.pbuf, q.pq * q.pz)]
        let sp := pagePieces [(q.pstage, q.pq * q.pz / 8)]
        2 ≤ n → n ≤ 4096 → q.pq ≠ 0 → q.pq % 8 = 0 → q.pq % n = 0 → q.pz ≠ 0 → q.pz % 256 = 0 →
        descHere s r .r (bitsOf (w.getD 5 0) 51 0) (2 * n) mbs → membersOk s ms = true → descHere s r .r (bitsOf (w.getD 3 0) 51 0) (4 * q.pq) map →
        checkMix s (some r.tile) ((bp ++ sp).flatMap (fun p => [(Need.r, p), (Need.c, p)])) = .ok ps → pagesCached s r.tile ps = true →
        bp.all (fun p => addable s (paOf (pagesOf ps) p.va).1) = true →
        sp.all (fun p => s.isLocal (paOf (pagesOf ps) p.va).1 && s.scratch (paLocal (paOf (pagesOf ps) p.va).1)) = true →
        runs (.perm (.t r) f) s (opQueued r f.rd.toNat { q with digest := collDigest q } s))) ∧
    (ready s r [.s f.rd.toNat, .s f.ra.toNat, .s f.rb.toNat] = true →
      let len := (th.sreg f.rb.toNat).toNat
      (len ≠ 0 → (va % 4096 ≠ 0 ∨ len % 4096 ≠ 0) → fails (.scrub (.t r) f) stMisaligned) ∧
      (∀ ps, len ≠ 0 → va % 4096 = 0 → len % 4096 = 0 → va + len ≤ 2 ^ 52 → checkAll s (some r.tile) .s (pagePieces [(va, len)]) = .ok ps →
        pagesCached s r.tile ps = true → ps.all (fun p => winOf (paLocal p.2.1) != .host) = true → acqWaiting s r = false →
        runs (.scrub (.t r) f) s (opQueued r f.rd.toNat { o with kind := .scrub, count := len / 4096, pages := pagesOf ps } s)) ∧
      (16 ≤ len → fails (.toll (.t r) f) stFormMismatch) ∧
      (len < 16 →
        let flag := b2n (bitOf (th.sreg f.ra.toNat) 0)
        runs (.toll (.t r) f) s (fun t => opQueued r f.rd.toNat { o with kind := .toll, addr := 0, group := len, count := flag } s t ∧
          t.group len = (if (s.group len).busy then { s.group len with later := (s.group len).later ++ [s.bank.nextOp] }
            else { s.group len with joined := (s.group len).joined ++ [s.bank.nextOp], joinedFlag := (s.group len).joinedFlag || flag == 1 }) ∧
          (∀ k, k ≠ len → t.group k = s.group k))))

/-- Of an operation whose chunk, sector or page is not its last and whose engine's turn it is, with no piece held by the roll or
unreadable. The beats count for its sequence's cue, and outside a cue no reel changes. A precheck adds the squares of the chunk's gradients to the group's NS in element order, each rounded, and sets SRC
when a gradient is not finite or the arithmetic raises NV, OF or NF. A stage pass, with a free slot, no mirror and the step unresolved, fills a free slot of the chunk's column
with the new state, STAGED with the group and tag, and changes no byte of memory; of a step that resolved set it abandons the chunk with TOLL_SET. DERIVE
writes the working copy that rounds the masters, and nothing else; AUDIT writes nothing and counts a chunk that disagrees. An RDW sector adds its
source elements, each with one rounding, and changes no other byte. SCRUB zeroes its page and no other byte. A chunk out of its turn changes
nothing. -/
def Obligations.BankEngineWork : Prop :=
  ∀ (s : State) (o : BOp) (op k : Nat), s.bop op = some o → o.id = op →
    let d : UpdDesc := o.words
    let x := o.rc k
    let lc := o.chunkCol k
    let piece := fun j => (((d.parts x.1 x.2).getD j none).map (fun p => (o.at_ p.va, p.n))).getD (0, 0)
    let masters := elems 4 1024 (s.bytes (piece 0).1 4096)
    let went := fun (p : BOp) (t : State) => t = { s with bank := { s.bank with ops := t.bank.ops, groups := t.bank.groups }, reels := t.reels } ∧ (∀ n, t.reel n = { s.reel n with seqs := (t.reel n).seqs }) ∧
      (s.cueIn o.reel o.slot = none → t.reels = s.reels) ∧ t.bop op = some p
    (o.kind = .upd → engineTurn s o lc.1 lc.2 = false →
      ∀ i ∈ ([.updPrecheckChunk op k, .updStageChunk op k 0, .deriveChunk op k, .auditChunk op k] : List Instr), runs i s (fun t => t = s)) ∧
    (o.kind = .upd → engineTurn s o lc.1 lc.2 = true → o.free s k = true → o.chunkBad s o.aMode k = false →
      (o.updOp = 0 → o.nextIn k o.pre = true → o.aMode = false → runs (.updPrecheckChunk op k) s (fun t =>
        let gs := (List.range 1024).map (fun j => gradOf (d.hi 11) (leNat (s.bytes (o.at_ (d.grad x.1 x.2).va + 2 * j) 2)))
        let ns := normSum ((s.group o.group).ns.toNat, 0) gs
        went { o with pre := o.pre ++ [k], flags := o.flags ||| ns.2 ||| orFlags (gs.map (fun g => g.2)) } t ∧
        t.group o.group = { s.group o.group with ns := BitVec.ofNat 32 ns.1, src := (s.group o.group).src || srcFlags (ns.2 ||| orFlags (gs.map (fun g => g.2))) || gs.any gradBad } ∧
        (∀ g, g ≠ o.group → t.group g = s.group g))) ∧
      (o.done.length + 1 < o.chunks →
        (∀ pick, o.updOp = 0 → o.mayStage = true → o.nextIn k o.done = true →
          (o.resolved = none → masterWaits s o k = false → mirrorsOf s o.group = [] → freeSlots s lc ≠ [] →
            runs (.updStageChunk op k pick) s (fun t => sameBytes s t ∧ t.tiles = s.tiles ∧ t.poison = s.poison ∧
              (∃ slot ∈ freeSlots s lc, ∃ y, t.slotAt lc.1 lc.2 slot = some y ∧ y.mark = 1 ∧ y.query = false ∧ y.group = o.group ∧ y.step = o.tag ∧ y.wf = d.wf ∧
                y.second = d.second ∧ y.places = (List.range 7).map (fun j => (piece j).1) ∧
                y.payload.take (if o.aMode then (proposedChunk o k s).head else (updateChunk o k s).head).length =
                  (if o.aMode then (proposedChunk o k s).head else (updateChunk o k s).head) ∧
                ∀ z ∈ s.bank.roll, z.inCol lc.1 lc.2 = false ∨ z.slot ≠ slot → z ∈ t.bank.roll) ∧
              ∃ p, t.bop op = some p ∧ p.done = o.done ++ [k] ∧ p.count = o.count + 1 ∧ p.status = o.status)) ∧
          (o.resolved = some true → (s.group o.group).recorded o.tag ≠ some false → runs (.updStageChunk op k pick) s (fun t =>
            went { o with done := o.done ++ [k], status := if o.status = stUncorrectable then o.status else stTollSet } t ∧ t.bank.roll = s.bank.roll))) ∧
        (o.updOp = 1 → o.nextIn k o.done = true → rangesMeet (piece 5).1 (piece 5).2 (piece 6).1 32 = false → (piece 5).1 + (piece 5).2 ≤ storeBase →
          (piece 6).1 + 32 ≤ storeBase →
          let w := workCopy d lc o.reel masters s
          runs (.deriveChunk op k) s (fun t => t.bytes (piece 5).1 (piece 5).2 = w.1 ∧ t.bytes (piece 6).1 32 = w.2.1 ∧
            (∀ a, (a < (piece 5).1 ∨ (piece 5).1 + (piece 5).2 ≤ a) → (a < (piece 6).1 ∨ (piece 6).1 + 32 ≤ a) → t.byte a = s.byte a) ∧
            t.bop op = some { o with done := o.done ++ [k], count := o.count + 1, flags := o.flags ||| w.2.2.1 })) ∧
        (o.updOp = 2 → o.nextIn k o.done = true → runs (.auditChunk op k) s (fun t =>
          let ms := groups32 32 (masters.map f32)
          let es := groups32 32 (unpackElems (if d.wf then 4 else 8) 1024 (s.bytes (piece 5).1 (piece 5).2))
          let agree := (List.range 32).all (fun j => groupAgrees d.wf (ms.getD j []) (((s.bytes (piece 6).1 32).getD j 0).toNat) (es.getD j []))
          went { o with done := o.done ++ [k], count := o.count + b2n (!agree), first := if agree then o.first else some (Nat.min (o.first.getD k) k) } t)))) ∧
    (o.kind = .rdw →
      (o.phase = 1 → runs (.rdwSector op) s (fun t => t = s)) ∧
      (o.phase = 2 → rdwDirect s o = true → o.bad = [] → bitOf (o.words.getD 0 0) 12 = false → o.idx + o.sectorLen < o.rdwN →
        let dst := o.at_ (o.rdwDst + 4 * o.idx)
        let n := o.sectorLen
        let src := fun j => ((srcFmt o.rdwFmt).getD fF32).decode (leNat (((mget [] o.buf 0).drop (srcBytes o.rdwFmt * j)).take (srcBytes o.rdwFmt)))
        let sum := fun j => fAdd (leNat (s.bytes (dst + 4 * j) 4), 0) ((fF32.conv .rne false 0 (src j)).pat, (fF32.conv .rne false 0 (src j)).flags)
        s.poisoned dst (4 * n) = false → dst + 4 * n ≤ storeBase → runs (.rdwSector op) s (fun t =>
          (∀ j, j < n → leNat (t.bytes (dst + 4 * j) 4) = (sum j).1) ∧ bytesOutside dst (4 * n) s t ∧ t.poison = s.poison ∧ t.bank.groups = s.bank.groups ∧
          t.bop op = some { o with idx := o.idx + n, phase := 0, buf := [], bad := [], flags := o.flags ||| orFlags ((List.range n).map (fun j => (sum j).2)) }))) ∧
    (o.kind = .scrub →
      (k ∈ o.done → runs (.scrubZero op k) s (fun t => t = s)) ∧
      (let pa := (paOf o.pages (o.addr + 4096 * k)).1
       let a := paLocal pa
       k < o.count → k ∉ o.done → k ∉ o.pre → o.done.length + 1 < o.count → s.isLocal pa = true → zeroReady s a = true → s.populated a = true → s.bank.roll = [] →
       winOf a = .near → a + 4096 ≤ storeBase → engineTurn s o (nearLayer a) (nearCol a) = true →
       runs (.scrubZero op k) s (fun t => (∀ b, a ≤ b → b < a + 4096 → t.byte b = 0) ∧ bytesOutside a 4096 s t ∧
         t.bop op = some { o with done := o.done ++ [k] })))

/-- Of a COLL or PERM begun by a live thread that holds nothing, no early message waiting: COLL_ENGINE_START of a
waiting one opens it, sending COPEN to the other member over a ready port, while fewer than 8 run and none under a cue's demand waits, and with
8 running changes nothing. A COPEN that matches
no operation is kept; one from a member of a larger COLL is noted; the last one, of a COLL or PERM of two, with another digest or mode ends it with
COLL_SPLIT_MISMATCH. COLL_TIMEOUT of one whose openings are not all there ends it with COLL_TIMEOUT, and changes nothing of one past its opening.
CDATA of a running ALLGATHER or ALLTOALL lands its bytes where they belong and nowhere else; CDATA of a DIRECT reduction adds each
element with one rounding; PERM_PASS_ACKED with a request outstanding or a slice missing changes nothing, and after the last pass ends the PERM with its
status. PDATA and CDATA that no operation awaits are kept. -/
def Obligations.CollectiveEngine : Prop :=
  ∀ (s : State) (port : Nat) (m : Msg), s.links.early = [] →
    let from_ := mput s.links.from_ m.src port
    let kept := fun (t : State) => t = { s with links := { s.links with early := [m], from_ } }
    (∀ p ∈ ([(.copen port m, mtCOPEN), (.cdata port m, mtCDATA), (.pdata port m, mtPDATA)] : List (Instr × Nat)),
      (m.mtype ≠ p.2 → s.bank.ops = [] → runs p.1 s (fun t => t = s)) ∧
      (m.mtype = p.2 → s.bank.ops = [] → arrives s port m = true → runs p.1 s kept)) ∧
    (∀ (o : BOp) (op : Nat), s.bop op = some o → o.dead = false →
      (s.thread ⟨o.tile, o.th⟩).live = true → (s.thread ⟨o.tile, o.th⟩).held = none →
      let running := (s.bank.ops.filter (fun p => (p.kind == .coll || p.kind == .perm) && p.phase != 0)).length
      (∀ d n, (o.kind = .coll ∨ o.kind = .perm) → o.phase = 0 → o.farSource s = false → running < 8 → s.bank.ops.all (fun p => (p.portUrgency s).isNone) = true → o.members = [s.ownId, d] → d ≠ s.ownId →
        routePort s d = some n → (s.route d).dn = false → linkReady s n 3 = true → runs (.collEngineStart op) s (fun t =>
          t.bop op = some { o with phase := 3 } ∧ sent { s with bank := { s.bank with ops := t.bank.ops } } t ∧
          flitSent n { mtype := mtCOPEN, dst := d, src := s.ownId, tag := o.digest.toNat % 65536, data := leBytes 8 o.digest.toNat ++ [BitVec.ofNat 8 (b2n o.aMode)] } s t)) ∧
      (o.phase = 0 → 8 ≤ running → runs (.collEngineStart op) s (fun t => t = s)) ∧
      (o.kind ≠ .coll → o.kind ≠ .perm → runs (.collEngineStart op) s (fun t => t = s) ∧ runs (.collTimeout op) s (fun t => t = s) ∧
        runs (.permPassAcked op) s (fun t => t = s)) ∧
      (o.kind = .perm → o.phase = 3 → runs (.collTimeout op) s (fun t => opEnded o stCollTimeout s t ∧ sameBytes s t)) ∧
      (o.phase ≠ 3 → runs (.collTimeout op) s (fun t => t = s)) ∧
      (o.kind = .perm → (o.phase ≠ 7 ∨ s.links.reqs.any (fun q => q.owner == .msg op) = true ∨ o.count < (o.idx + 1) * (o.pq / 8) * o.pz) →
        runs (.permPassAcked op) s (fun t => t = s)) ∧
      (o.kind = .perm → o.phase = 7 → o.idx = 7 → s.links.reqs = [] → 8 * (o.pq / 8) * o.pz ≤ o.count → s.links.watches = [] →
        s.poison = [] → (o.settled s).isSome = true → runs (.permPassAcked op) s (fun t => opEnded o o.status s t)) ∧
      (s.bank.ops = [o] → arrives s port m = true → m.src ∈ o.members → m.src ∉ o.opens → m.mtype = mtCOPEN → m.param = 0 → o.phase = 3 →
        ((o.kind = .coll ∨ o.kind = .perm) → o.opens.length + 2 < o.members.length → leNat (m.data.take 8) = o.digest.toNat → (m.data.getD 8 0).toNat = b2n o.aMode →
          runs (.copen port m) s (fun t => t = { s with bank := { s.bank with ops := [{ o with opens := o.opens ++ [m.src] }] }, links := { s.links with from_ }, reels := t.reels } ∧
            (∀ n, t.reel n = { s.reel n with seqs := (t.reel n).seqs }) ∧ (s.cueIn o.reel o.slot = none → t.reels = s.reels))) ∧
        (o.kind = .perm → o.members.length ≤ o.opens.length + 2 → leNat (m.data.take 8) ≠ o.digest.toNat →
          runs (.copen port m) s (fun t => opEnded o stCollSplitMismatch s t ∧ sameBytes s t))) ∧
      (s.bank.ops = [o] → s.bank.roll = [] → o.settled s = some s → s.links.watches = [] → arrives s port m = true → m.mtype = mtCDATA → o.kind = .coll → o.phase = 4 → m.src ∈ o.members →
        m.tag = o.digest.toNat % 65536 → m.param / 8 = 0 → o.aMode = false → bitOf (o.cw 0) 12 = false → o.idx = 0 →
        (∀ a, 2 ≤ o.cop → (∀ j, j < m.data.length → o.at_ (o.cdst + m.addr + j) = a + j) → a + m.data.length ≤ storeBase → o.count + m.data.length < o.needFinal →
          runs (.cdata port m) s (fun t => t.bytes a m.data.length = m.data ∧ bytesOutside a m.data.length s t ∧
            ∃ p, t.bop op = some p ∧ p.count = o.count + m.data.length ∧ p.status = o.status)) ∧
        (o.cop < 2 → m.param = cmCONTRIB → o.alg = 0 → m.data.length = o.celt → o.dstFirst ≤ m.addr → o.acks + 1 < o.needAcks →
          let a := o.at_ (o.cdst + 4 * (m.addr - o.dstFirst))
          let c := fF32.conv .rne false 0 (((srcFmt o.csfmt).getD fF32).decode (leNat m.data))
          let sum := fAdd (leNat (s.bytes a 4), 0) (c.pat, c.flags)
          s.poisoned a 4 = false → a + 4 ≤ storeBase → runs (.cdata port m) s (fun t => leNat (t.bytes a 4) = sum.1 ∧ bytesOutside a 4 s t ∧
            t.bop op = some { o with acks := o.acks + 1, flags := o.flags ||| sum.2 }))))

/-- TOLL_CONTRIBUTION_SEND with no TOLL joined or a resolution awaited changes nothing; when everything it waits for is there it sends 0 or
1 and the step counts on. A group without a binding resolves at once as sent: DONE and RES are recorded, the step's STAGED slots become ROLLED or
FREE, and each joined TOLL completes; a bound one waits for its children, and with them sends their OR to its parent, or resolves at rank 0.
TOLL_UP of a child joins the OR, and completes it as the contribution would; one to a step that has resolved here is answered. TOLL_DOWN of the
step awaited resolves it. ROLL_COMMIT_CHUNK of a ROLLED slot that nothing holds back and no wanted slot of its column precedes writes its places and
no others and marks it DONE; any other slot stays. ROLL_RECOVERY acts only on a column that
awaits it. TOLL_UP and TOLL_DOWN of an unknown digest, and an answer to no query, change nothing; TOLL_QRY is answered from this device's records.
TOLL_QUERY_TIMEOUT frees the query's slots, sets SRC and writes no place; an answer of clear commits them; of a step that lost a member it
resolves set, and an answer as it says. TOLL_BIND asks for a binding, which TOLL_BIND_APPLY makes when the group is not BUSY and its list reads,
names this device and is no other group's. What the model chooses of a loss is in log 99. -/
def Obligations.TollAndRoll : Prop :=
  (∀ (s : State) (g : Nat), g < 16 → s.obs.cntEn = false → s.obs.trcEn = false → (s.split 9).pend = false → s.pairs.mir = [] →
    let x := s.group g
    ((x.joined = [] ∨ x.busy = true) → runs (.tollContributionSend g) s (fun t => t = s)) ∧
    (∀ (o : BOp), x.joined = [o.id] → x.busy = false → x.later = [] → x.valid = false → s.bank.ops = [o] → o.dead = false → o.kind = .toll → s.aMode 9 = false →
      (s.thread ⟨o.tile, o.th⟩).live = true → (s.thread ⟨o.tile, o.th⟩).held = none →
      let ns := fF32.decode x.ns.toNat
      let c := x.joinedFlag || x.src || (x.nrmEn && (ns.isNan || numLt (fF32.decode x.nb.toNat) ns))
      runs (.tollContributionSend g) s (fun t => opEnded o (if c then stTollSet else stOk) s t ∧
        t.group g = { x with busy := false, last := c, step := (x.step + 1) % 65536, ns := 0, src := false, joined := [], joinedFlag := false, later := [], resolving := [], contrib := false, kids := [], kidsOr := false, sentUp := false, lossAsk := false, leg := 0, history := ((x.step, c) :: x.history.filter (fun h => h.1 != x.step)).take 16 } ∧
        t.commitWord g = { sent := x.step, done := x.step, res := c, v := true } ∧
        t.bank.roll = s.bank.roll.map (fun y => if y.group = g ∧ y.step = x.step ∧ y.mark = 1 then { y with mark := if c then 0 else 2, query := false } else y) ∧
        (∀ k, k ≠ g → t.group k = s.group k) ∧ sameBytes s t))) ∧
  (∀ (s : State) (g : Nat), g < 16 → contribReady s g = true → (∀ r ∈ mirrorsOf s g, (s.mir r).sealed_ = some (s.group g).step ∧ (s.mir r).sacked = true) →
    let x := s.group g
    let c := x.joinedFlag || x.src || x.normFails
    let y : Group := { x with busy := true, src := false, ns := 0, step := (x.step + 1) % 65536, resolving := x.joined, joined := [], joinedFlag := false, contrib := c }
    let rank := x.rankOf s.ownId
    let all := (kidsOf x.members.length rank).all (fun k => x.kids.contains k)
    (x.valid = false → runs (.tollContributionSend g) s (resolved s g x.step c)) ∧
    (x.valid = true → x.memberLost s = true → runs (.tollContributionSend g) s (resolved s g x.step true)) ∧
    (x.valid = true → x.memberLost s = false → all = false → runs (.tollContributionSend g) s (fun t => t.group g = y ∧ sameBytes s t ∧
      t.commitWord g = { s.commitWord g with sent := x.step, v := true } ∧ t = { s with bank := { s.bank with groups := t.bank.groups, commit := t.bank.commit }, obs := t.obs })) ∧
    (x.valid = true → x.memberLost s = false → all = true → x.sentUp = false → (rank = 0 → runs (.tollContributionSend g) s (resolved s g (x.step % 65536) (c || x.kidsOr))) ∧
      (rank ≠ 0 → runs (.tollContributionSend g) s (fun t => t.group g = { y with sentUp := true } ∧ sameBytes s t ∧ wentUp s g rank (x.step % 65536) (c || x.kidsOr) x.leg t)))) ∧
  (∀ (s : State) (layer col slot : Nat) (y : RollSlot), s.slotAt layer col slot = some y →
    (y.mark ≠ 2 → runs (.rollCommitChunk layer col slot) s (fun t => t = s)) ∧
    (y.mark = 2 → s.start.recover.contains (layer, col) = false → exportHolds s y = false →
      (slotWanted s y = true ∨ s.bank.roll.all (fun z => !(z.inCol layer col && z.mark == 2 && slotWanted s z)) = true) → y.spans.all (fun p => p.1 + p.2 ≤ storeBase) = true → runs (.rollCommitChunk layer col slot) s (fun t =>
        (∀ a, (∀ p ∈ y.spans, a < p.1 ∨ p.1 + p.2 ≤ a) → t.byte a = s.byte a) ∧
        (∀ p ∈ y.parts, (∀ q ∈ y.spans, q.1 ≠ p.1 → rangesMeet q.1 q.2 p.1 p.2.length = false) → (y.parts.filter (fun q => q.1 == p.1)).length = 1 →
          t.bytes p.1 p.2.length = p.2) ∧
        t.bank.roll = s.bank.roll.map (fun z => if z.layer = y.layer ∧ z.col = y.col ∧ z.slot = y.slot then { z with mark := 3, query := false } else z) ∧
        t.bank.groups = s.bank.groups ∧ (s.links.watches = [] → t.tiles = s.tiles)))) ∧
  (∀ (s : State) (layer col : Nat),
    ((layer, col) ∉ s.start.recover → runs (.rollRecovery layer col) s (fun t => t = s)) ∧
    ((layer, col) ∈ s.start.recover → (∀ y ∈ s.bank.roll, y.layer = layer → y.col = col → y.mark = 0 ∨ y.mark = 3) → s.bank.roll.all (fun y => !y.query) = true →
      runs (.rollRecovery layer col) s (fun t => t.start = { s.start with recover := s.start.recover.filter (fun c => c != (layer, col)) } ∧
        (∀ g, g < 16 → t.group g = { s.group g with step := if (s.commitWord g).v then ((s.commitWord g).sent + 1) % 65536 else 0, busy := false, src := false }) ∧
        t.bank.roll = s.bank.roll ∧ sameBytes s t))) ∧
  (∀ (s : State) (digest : W64) (tag rank src leg : Nat) (b l : Bool) (ans : Option Bool), s.bank.groups.find? (fun x => x.2.valid && x.2.digest == digest) = none →
    (∀ i ∈ ([.tollUp digest tag rank b leg, .tollDown digest tag b l leg, .tollAns digest tag src ans] : List Instr), runs i s (fun t => t = s)) ∧
    (∀ n, routePort s src = some n → (s.route src).dn = false → linkReady s n 3 = true →
      runs (.tollQry digest tag src) s (fun t => sent s t ∧ flitSent n (tollMsg s mtTOLLANS src digest tag [0]) s t))) ∧
  (∀ (s : State) (g : Nat) (x : Group) (digest : W64) (tag rank src leg : Nat) (b l : Bool), s.links.claimed = true →
    s.bank.groups.find? (fun x => x.2.valid && x.2.digest == digest) = some (g, x) → s.group g = x →
    let own := x.rankOf s.ownId
    let z : Group := { x with kids := x.kids ++ [rank], kidsOr := x.kidsOr || b, leg := Nat.max x.leg leg }
    let all := (kidsOf x.members.length own).all (fun k => z.kids.contains k)
    ((x.tagNow ≠ tag → x.recorded tag = none → runs (.tollUp digest tag rank b leg) s (fun t => t = s)) ∧
      (x.tagNow ≠ tag ∨ x.busy = false → runs (.tollDown digest tag b l leg) s (fun t => t = s))) ∧
    (∀ set n, x.tagNow ≠ tag → x.recorded tag = some set → rank ∈ kidsOf x.members.length own → routePort s (x.members.getD rank 0) = some n →
      (s.route (x.members.getD rank 0)).dn = false → linkReady s n 3 = true → runs (.tollUp digest tag rank b leg) s (fun t => sent s t ∧
        flitSent n (tollMsg s mtTOLLDOWN (x.members.getD rank 0) x.digest tag [b2n set, 1, x.leg]) s t)) ∧
    (x.tagNow = tag → rank ∈ kidsOf x.members.length own → rank ∉ x.kids →
      ((x.busy = false ∨ x.sentUp = true ∨ all = false) → runs (.tollUp digest tag rank b leg) s (fun t =>
        t.group g = z ∧ (∀ k, k ≠ g → t.group k = s.group k) ∧ t = { s with bank := { s.bank with groups := t.bank.groups } })) ∧
      (x.busy = true → x.sentUp = false → all = true → (own = 0 → runs (.tollUp digest tag rank b leg) s (resolved s g tag (x.contrib || z.kidsOr))) ∧
        (own ≠ 0 → runs (.tollUp digest tag rank b leg) s (fun t => t.group g = { z with sentUp := true } ∧ sameBytes s t ∧
          wentUp s g own tag (x.contrib || z.kidsOr) z.leg t)))) ∧
    (x.tagNow = tag → x.busy = true → runs (.tollDown digest tag b l leg) s (fun t => resolved s g tag b t ∧ (t.group g).bound = (200 + 4 * leg + 9) / 10 % 65536)) ∧
    (x.tagNow = tag → x.busy = true → x.members = [src, s.ownId] → src ≠ s.ownId → s.obs.cntEn = false → s.obs.trcEn = false → (s.split 9).pend = false → s.pairs.mir = [] →
      x.resolving = [] → s.aMode 9 = false → runs (.tollDown digest tag b l leg) s (fun t => (t.group g).busy = false ∧ (t.group g).last = b ∧
        (t.group g).bound = (200 + 4 * leg + 9) / 10 % 65536 ∧ t.commitWord g = { s.commitWord g with done := tag, res := b, v := true } ∧ sameBytes s t)) ∧
    (∀ n, routePort s src = some n → (s.route src).dn = false → linkReady s n 3 = true →
      runs (.tollQry digest tag src) s (fun t => sent s t ∧
        flitSent n (tollMsg s mtTOLLANS src digest tag [if x.recorded tag = some false then 1 else if x.recorded tag = some true then 2 else 0]) s t)) ∧
    (x.busy = true → x.lossAsk = true → x.tagNow = tag → runs (.tollAns digest tag src (some b)) s (resolved s g tag b)) ∧
    (x.lossAsk = false → x.queryTag ≠ some tag → runs (.tollAns digest tag src (some b)) s (fun t =>
      t = { s with pairs := { s.pairs with pmir := t.pairs.pmir } } ∧ ∀ k, t.pmir k =
        (let p := s.pmir k
         if p.taking = true ∧ p.tgrp = g ∧ p.sealed_.any (fun q => q.1 == tag) = true ∧ p.ans = none then { p with ans := some b } else p))) ∧
    (x.lossAsk = false → x.queryTag = some tag → s.bank.roll = [] → runs (.tollAns digest tag src (some b)) s (fun t => (t.group g).queryTag = none ∧
      t.commitWord g = { s.commitWord g with done := tag, res := b, v := true } ∧ sameBytes s t))) ∧
  (∀ (s : State) (g : Nat),
    ((s.group g).busy = true → (s.group g).lossAsk = true → runs (.tollQueryTimeout g) s (resolved s g (s.group g).tagNow true)) ∧
    ((s.group g).lossAsk = false → (s.group g).queryTag = none → runs (.tollQueryTimeout g) s (fun t => t = s)) ∧
    (∀ q, (s.group g).lossAsk = false → (s.group g).queryTag = some q → s.gripRuns = true → runs (.tollQueryTimeout g) s (fun t =>
      (t.group g).queryTag = none ∧ (t.group g).src = true ∧ eventPlaced 0 0x06 0 0 0 0 (BitVec.ofNat 64 (g + q * 16)) 0 s t ∧ sameBytes s t ∧
      (∀ y ∈ t.bank.roll, y.query = true → y.group ≠ g ∨ y.step ≠ q))) ∧
    (∀ v mc, s.start.phase ≠ .safe → g < 16 → runs (.tollBind g v mc) s (fun t =>
      t.group g = { s.group g with mlist := BitVec.ofNat 64 (v.toNat % 2 ^ 52), mcount := mc.toNat, pend := (s.group g).pend || v.getLsbD 52 } ∧
      (∀ k, k ≠ g → t.group k = s.group k) ∧ t = { s with bank := { s.bank with groups := t.bank.groups } })) ∧
    (((s.group g).pend = false ∨ (s.group g).busy = true ∨ s.xl.flush = true) → runs (.tollBindApply g) s (fun t => t = s)) ∧
    (∀ bs, (s.group g).pend = true → (s.group g).busy = false → s.xl.flush = false → fwBytes s ((s.group g).mlist.toNat % 2 ^ 52) (2 * (s.group g).mcount) = some bs →
      let ids := (memberIds (s.group g).mcount bs).map (fun d => d % 4096)
      let dig := BitVec.ofNat 64 (leNat (Config.shake256 bs 8))
      (s.ownId ∈ ids → s.bank.groups.all (fun y => y.1 == g || !y.2.valid || y.2.digest != dig) = true → runs (.tollBindApply g) s (fun t =>
        t.group g = { s.group g with pend := false, valid := true, members := ids, digest := dig, kids := [], kidsOr := false } ∧ (∀ k, k ≠ g → t.group k = s.group k))) ∧
      (s.ownId ∉ ids → runs (.tollBindApply g) s (fun t => (t.group g).valid = false ∧ (t.group g).pend = false ∧
        eventPlaced 0 0x09 0 0 0 0 (BitVec.ofNat 64 (g * 2 ^ 16)) 0 s t))))

/-- Outside SAFE a write of DIR_REEL_CTL takes ALLOT; OPEN opens a free reel and pends on a closing one, CLOSE closes an open one and withdraws a
pending open, both or neither do no more. REEL_RELEASE of a closing reel without sequences or waiting records resets its registers and reopens it if an
open pends; of any other reel it changes nothing. A seed clears the reel's draws. LAUNCH_START of an empty queue, or out of its turn, changes nothing; in its turn, which then passes on, a record of a reel not
OPEN waits with REEL_CLOSED, an invalid one with LAUNCH_INVALID, a NOP with success; a valid one that fits starts its sequence in a free slot: t threads on
each tile with the state of Table 5.4 and no other thread changed; one that does not fit waits. HELPER_START starts a waiting helper's threads when they are
free, and waits otherwise; HELPER_REFUSED ends its UPD with HELPER_REFUSED and sets SRC. A completion record is written when the ring has room, which
frees its slot, and waits otherwise; a wait of 1 ms is told once. -/
def Obligations.ReelsAndLaunches : Prop :=
  (∀ (s : State) (n : Nat) (v : W64), s.start.phase ≠ .safe → n < 16 →
    let R : Reel := { s.reel n with allot := bitsOf v 9 5 }
    let only := fun (R : Reel) (t : State) => t.reel n = R ∧ (∀ k, k ≠ n → t.reel k = s.reel k) ∧ t = { s with reels := t.reels }
    (∀ i ∈ ([.openReq n v, .closeReq n v] : List Instr),
      (bitOf v 2 = true → bitOf v 3 = false → runs i s (only
        (if R.state = 0 then { R with state := 1, phase := 0 } else if R.state = 2 then { R with openPend := true } else R))) ∧
      (bitOf v 2 = false → bitOf v 3 = true → runs i s (only
        (if R.state = 1 then { R with state := 2 } else if R.state = 2 then { R with openPend := false } else R))) ∧
      (bitOf v 2 = bitOf v 3 → runs i s (only R))) ∧
    runs (.seedWrite n v) s (only { s.reel n with seed := v, draws := [] })) ∧
  (∀ (s : State) (n : Nat),
    let R := s.reel n
    ((R.state ≠ 2 ∨ R.seqs ≠ [] ∨ R.waiting ≠ []) → runs (.reelRelease n) s (fun t => t = s)) ∧
    (R.state = 2 → R.seqs = [] → R.waiting = [] → (s.mir n).st = 0 → runs (.reelRelease n) s (fun t =>
      t.reel n = { R with state := b2n R.openPend, openPend := false, allot := 0, seed := 0, draws := [], aqUsed := 0, qrej := false, phase := 0, sq0 := {}, sq1 := {}, cq := {}, cnt := [] } ∧
      (∀ k, k ≠ n → t.reel k = s.reel k) ∧ t = { s with reels := t.reels, pairs := t.pairs } ∧ (t.mir n).en = false))) ∧
  (∀ (s : State) (n q : Nat) (w : List W64) (picks : List Nat), n < 16 → q < 2 →
    let R := s.reel n
    let r := R.sq q
    (r.head = r.tail → runs (.launchStart n q w picks) s (fun t => t = s)) ∧
    (nextQueue s ≠ some (2 * n + q) → runs (.launchStart n q w picks) s (fun t => t = s)) ∧
    (r.head ≠ r.tail → r.en = true → nextQueue s = some (2 * n + q) → s.directorUp = true → s.rep.fwSwitching = false →
      let taken := fun (t : State) => ((t.reel n).sq q).head = (r.head + 1) % 2 ^ r.logn ∧ ((t.reel n).sq q).tail = r.tail ∧ (∀ k, k ≠ n → t.reel k = s.reel k)
      let rep' := { s.rep with dirQueue := 2 * n + q }
      let ended := fun (st : Status) => runs (.launchStart n q w picks) s (fun t => taken t ∧ t = { s with reels := t.reels, rep := rep' } ∧ (t.reel n).seqs = R.seqs ∧
        (t.reel n).waiting = R.waiting ++ [{ cid := recCid w, status := st, slot := none, q, tick := s.time.tmb }])
      let kind := bitsOf (w.getD 0 0) 7 0
      let t' := recThreads w
      let tiles := recTiles w
      let bad := 1 < kind ∨ recPc w % 8 ≠ 0 ∨ t' = 0 ∨ 24 < t' ∨ Nat.min R.allot 24 < t' ∨ tiles = [] ∨ ∃ x ∈ tiles, s.tileThere x = false
      (R.state ≠ 1 → ended stReelClosed) ∧ (R.state = 1 → kind = 0 → ended stOk) ∧ (R.state = 1 → kind ≠ 0 → bad → ended stLaunchInvalid) ∧
      (R.state = 1 → kind = 1 → ¬ bad → (freeSeqSlots R = [] ∨ launchFits s n w = false ∨ launchOpen s = false) → runs (.launchStart n q w picks) s (fun t => t = { s with rep := rep' })) ∧
      (R.state = 1 → kind = 1 → ¬ bad → freeSeqSlots R ≠ [] → launchFits s n w = true → launchOpen s = true → runs (.launchStart n q w picks) s (fun t => taken t ∧
        ∃ slot ∈ freeSeqSlots R, ∃ sq, t.seq n slot = some sq ∧ sq.cid = recCid w ∧ sq.q = q ∧ sq.t = t' ∧ sq.tiles = tiles ∧ sq.cue = none ∧ sq.ended = false ∧
          sq.live.length = t' * tiles.length ∧ sq.live.Nodup ∧ (∀ x ∈ sq.live, x.tile ∈ tiles ∧ x.th < 24 ∧ (s.thread x).live = false) ∧
          (∀ x ∈ sq.live, let y := t.thread x
            y.live = true ∧ y.reel = n ∧ y.slot = slot ∧ y.helper = false ∧ y.pc = BitVec.ofNat 64 (recPc w) ∧ y.sreg 1 = BitVec.ofNat 64 x.tile ∧ (y.sreg 2).toNat < t' ∧
            y.sreg 3 = BitVec.ofNat 64 (n + 16 * slot) ∧ (∀ k, k < 4 → y.sreg (4 + k) = w.getD (6 + k) 0) ∧ (∀ k, 8 ≤ k → y.sreg k = 0) ∧
            y.v = [] ∧ y.m = [] ∧ y.d = [] ∧ y.toks = [] ∧ y.haltm = 0x44 ∧ y.stby = false ∧ y.fv = false ∧ y.flags = 0) ∧
          (∀ x, x ∉ sq.live → t.thread x = s.thread x) ∧ sameBytes s t)))) ∧
  (∀ (s : State) (n : Nat) (picks : List Nat),
    (helperWaiting s n = none → runs (.helperStart n picks) s (fun t => t = s) ∧ runs (.helperRefused n) s (fun t => t = s)) ∧
    (∀ h o, helperWaiting s n = some (h, o) →
      ((freeThreads s o.tile).length < h.threads → runs (.helperStart n picks) s (fun t => t = s)) ∧
      (s.directorUp = true → h.threads ≤ (freeThreads s o.tile).length → runs (.helperStart n picks) s (fun t =>
        ∃ h', (t.reel n).helper = some h' ∧ h'.op = h.op ∧ h'.running.length = h.threads ∧
          (∀ x ∈ h'.running, x.tile = o.tile ∧ (t.thread x).live = true ∧ (t.thread x).helper = true ∧ (t.thread x).reel = n ∧ (t.thread x).pc = h.pc ∧
            (t.thread x).sreg 3 = BitVec.ofNat 64 (n + 128) ∧ (t.thread x).sreg 4 = BitVec.ofNat 64 o.addr ∧ (t.thread x).sreg 5 = BitVec.ofNat 64 o.chunks) ∧
          (∀ x, x ∉ h'.running → t.thread x = s.thread x))) ∧
      (o.dead = false → (s.thread ⟨o.tile, o.th⟩).live = true → (s.thread ⟨o.tile, o.th⟩).held = none → s.links.watches = [] → runsWake (.helperRefused n) s (fun t => opEnded o stHelperRefused s t ∧
        t.group o.group = { s.group o.group with src := true } ∧ (t.reel n).helper = (s.reel n).helperQ.head? ∧ (t.reel n).helperQ = (s.reel n).helperQ.tail)))) ∧
  (∀ (s : State) (n : Nat),
    let R := s.reel n
    ((R.waiting = [] ∨ R.cq.en = false ∨ R.cq.full = true) → runs (.completionRecordWrite n) s (fun t => t = s)) ∧
    (∀ c rest, R.waiting = c :: rest → R.cq.en = true → R.cq.full = false → R.cq.ien = false → runs (.completionRecordWrite n) s (fun t =>
      t.host.out = s.host.out ++ [.write (R.cq.base * 4096 + R.cq.tail * 16) (bytesOfWords [complWord c R.cq.phase, c.tick])] ∧
      (t.reel n).waiting = rest ∧ (t.reel n).cq.tail = (R.cq.tail + 1) % 2 ^ R.cq.logn ∧ (t.reel n).cq.head = R.cq.head ∧
      (∀ k, c.slot = some k → t.seq n k = none) ∧ (∀ k, c.slot ≠ some k → t.seq n k = s.seq n k) ∧ (∀ k, k ≠ n → t.reel k = s.reel k) ∧ t.tiles = s.tiles)) ∧
    (R.waiting.all (fun c => c.told) = true → runs (.completionWaitTimeout n) s (fun t => t = s)) ∧
    (∀ c rest, R.waiting = c :: rest → c.told = false → rest.contains c = false → runs (.completionWaitTimeout n) s (fun t =>
      (t.reel n).waiting = { c with told := true } :: rest ∧ eventPlaced stQueueInvalid 0x0D 0 0 0 0 (BitVec.ofNat 64 (n % 16 + 32)) 1 s t)))

/-- Outside SAFE a ring enable with LOGN 4 to 12 starts the ring at index 0 with PHASE 1; a clear disables it; an enable in force changes nothing; another
LOGN leaves it disabled and is reported. A doorbell in range of an enabled ring sets its index, another is reported. MSIX_DELAY_EXPIRE signals a ring that
owes a signal, and otherwise changes nothing. DMA_DESCRIPTOR_START changes nothing when the ring is disabled or empty or the engine works; without bus
mastering it ends the descriptor with HOST_ABORT, and toward local memory it sends the read of host memory; DMA_DESCRIPTOR_DONE ends the
descriptor. A configuration request is answered Retry before S11; then a read returns the register and a write of the command
register sets MSE and BME. A BAR2 request that cannot be served ends with UR; one of a piece of plain near memory reads or writes its bytes; poisoned data
are not written. A host completion of an unknown tag changes nothing; a core's request ends with its data, or with HOST_ABORT. A BAR0 write of a wrong form
ends with UR; in SAFE an offset that is not served, and elsewhere an unoccupied one, changes nothing; one of MEM_PKEY sets it. -/
def Obligations.RingsDmaAndHost : Prop :=
  (∀ (s : State) (i : RingId) (v : W64), s.start.phase ≠ .safe → ringThere i = true →
    let r := s.ring i
    let fresh : Ring := { r with logn := bitsOf v 4 1, base := bitsOf v 63 12 }
    let became := fun (x : Ring) (t : State) => t.ring i = x ∧ ∀ j, ringThere j = true → j ≠ i → t.ring j = s.ring j
    (bitOf v 0 = false → runs (.ringEnable i v) s (became { (if r.en then r else fresh) with en := false })) ∧
    (bitOf v 0 = true → r.en = true → runs (.ringEnable i v) s (fun t => t = s)) ∧
    (bitOf v 0 = true → r.en = false → 4 ≤ bitsOf v 4 1 → bitsOf v 4 1 ≤ 12 → runs (.ringEnable i v) s (became { fresh with en := true, head := 0, tail := 0, phase := true })) ∧
    (bitOf v 0 = true → r.en = false → (bitsOf v 4 1 < 4 ∨ 12 < bitsOf v 4 1) → runs (.ringEnable i v) s (ringReported i (s.setRing i fresh)))) ∧
  (∀ (s : State) (n q k : Nat) (v : W64), s.start.phase ≠ .safe → n < 16 → q < 2 → k < 4 →
    ∀ c ∈ ([(.sqTailDoorbell n q v, .sq n q, true), (.dmaTailDoorbell k v, .dma k, true), (.cqHeadDoorbell n v, .cq n, false), (.eqHeadDoorbell v, .eq, false)] : List (Instr × RingId × Bool)),
      let r := s.ring c.2.1
      let x := bitsOf v 11 0
      ((c.2.1 = .eq → s.host.eqOwed = 0 ∧ s.pairs.mlistOn = false) → r.en = true → x < 2 ^ r.logn → runs c.1 s (fun t => t = s.setRing c.2.1 (if c.2.2 then { r with tail := x } else { r with head := x }))) ∧
      ((r.en = false ∨ 2 ^ r.logn ≤ x) → runs c.1 s (ringReported c.2.1 s))) ∧
  (∀ (s : State) (i : RingId), ringThere i = true →
    let r := s.ring i
    ((r.ien = false ∨ r.unsig = 0 ∨ r.delay = 0) → runs (.msixDelayExpire i) s (fun t => t = s)) ∧
    (r.ien = true → r.unsig ≠ 0 → r.delay ≠ 0 →
      let s1 := s.setRing i { r with unsig := 0 }
      let masked := bitOf (mget (1 : W32) s.host.msix (4 * r.vec + 3)) 0 || bitOf (mget (0 : W32) s.host.cfg 0x14) 30
      (masked = false → runs (.msixDelayExpire i) s (fun t => t = s1.send (.msix r.vec))) ∧
      (masked = true → runs (.msixDelayExpire i) s (fun t => r.vec ∈ t.host.pba ∧ t = { s1 with host := { s1.host with pba := t.host.pba } })))) ∧
  (∀ (s : State) (k : Nat) (w : List W64), k < 4 →
    let d := s.dma k
    let r := d.ring
    let local_ := s.isLocal (dDev w)
    let span := dmaSpan s w
    let st := if local_ then dmaCheck s (paLocal (dDev w)) (dLen w) else stOk
    let ended := fun (h : Nat) (st : Status) (t : State) => (t.dma k).cur = none ∧ (t.dma k).hostDone = false ∧ t.tiles = s.tiles ∧ (∀ j, j ≠ k → t.dma j = s.dma j) ∧
      (bitOf (w.getD 0 0) 33 = false → t.host.out = s.host.out ++ [.write (r.base * 4096 + h * 32) (leBytes 8 (setBits (setBits (w.getD 0 0) 47 47 1) 63 48 st.toNat).toNat)])
    ((r.en = false ∨ r.head = r.tail ∨ d.cur.isSome = true) → runs (.dmaDescriptorStart k w) s (fun t => t = s)) ∧
    (r.en = true → r.head ≠ r.tail → r.head < 2 ^ r.logn → d.cur = none → dLen w ≠ 0 → (local_ = true → rangeServes s (paLocal (dDev w)) span = true) →
      ((s.host.bme = false ∨ s.host.degraded = true) → runs (.dmaDescriptorStart k w) s (fun t => ended r.head stHostAbort t ∧ (t.dma k).ring.head = (r.head + 1) % 2 ^ r.logn)) ∧
      (s.host.bme = true → s.host.degraded = false → span = 0 → runs (.dmaDescriptorStart k w) s (ended r.head st)) ∧
      (s.host.bme = true → s.host.degraded = false → dToHost w = false → span ≠ 0 →
        runs (.dmaDescriptorStart k w) s (fun t => t.dma k = { ring := { r with head := (r.head + 1) % 2 ^ r.logn }, cur := some w, status := st } ∧
          t.host.out = s.host.out ++ [.readReq (s.host.nextTag % 2 ^ 14) (dHost w) span] ∧ t.host.nextTag = s.host.nextTag + 1 ∧ onlyHost s t))) ∧
    (d.cur = none → ∀ e data, runs (.dmaDescriptorDone k e data) s (fun t => t = s)) ∧
    (d.cur = some w → r.head < 2 ^ r.logn →
      let h := (r.head + 2 ^ r.logn - 1) % 2 ^ r.logn
      (dToHost w = true → dmaOut s k = false → ∀ e data, runs (.dmaDescriptorDone k e data) s (ended h (if d.status = stOk then hostStatus e else d.status))) ∧
      (dToHost w = true → dmaOut s k = true → ∀ e data, runs (.dmaDescriptorDone k e data) s (fun t => t = s)) ∧
      (dToHost w = false → d.hostDone = false → ∀ data, runs (.dmaDescriptorDone k .abort data) s (ended h stHostAbort)))) ∧
  (∀ (s : State) (off : Nat),
    (s.start.phase ≠ .run → s.start.phase ≠ .safe → ∀ wr, runs (.configRequest off wr) s (fun t => t = s.send .retry)) ∧
    ((s.start.phase = .run ∨ s.start.phase = .safe) →
      runs (.configRequest off none) s (fun t => t = s.send (.data (leBytes 4 (cfgRead s (off % 4096 / 4))) false)) ∧
      ∀ v, runs (.configRequest 4 (some v)) s (fun t => onlyHost s t ∧ t.host = { s.host with mse := bitOf v 1, bme := bitOf v 2, out := s.host.out ++ [.data [] false] }))) ∧
  (∀ (s : State) (off n : Nat) (data : List Byte),
    let o := bar2Addr s off
    runs (.bar2Write off data true) s (fun t => t = s) ∧
    (bar2Ur s false off data.length = true → runs (.bar2Write off data false) s (turnedAway s)) ∧
    (bar2Ur s true off n = true → runs (.bar2Read off n) s (turnedAway s)) ∧
    (winOf o = .near → s.bank.roll = [] →
      (bar2Ur s true off n = false → bar2Waits s o n = false → n ≤ 256 - o % 256 → s.dbgThreads = false →
        runs (.bar2Read off n) s (fun t => t = s.send (.data (s.bytes o n) (s.poisoned o n)))) ∧
      (bar2Ur s false off data.length = false → bar2Waits s o data.length = false → data.length ≤ 256 - o % 256 →
        runs (.bar2Write off data false) s (fun t => t.bytes o data.length = data ∧ bytesOutside o data.length s t ∧ t.host = s.host ∧ t.bank = s.bank ∧
          (s.links.watches = [] → t.tiles = s.tiles ∧ t.reels = s.reels))))) ∧
  (∀ (s : State) (tag : Nat) (e : HostEnd) (data : List Byte),
    ((∀ q ∈ s.host.reqs, q.tag ≠ tag) → runs (.hostCompletion tag e data) s (fun t => t = s) ∧ runs (.hostCompletionTimeout tag) s (fun t => t = s)) ∧
    (∀ (a len p c rd n l : Nat) (rest : List HostReq), s.host.reqs = ⟨tag, .core p c rd n l, a, len⟩ :: rest →
      let k : Core := { s.core p c with busy := false }
      let s1 : State := { s with host := { s.host with reqs := rest } }
      runsWake (.hostCompletion tag .ok data) s (onlyCore p c { k.setS rd (BitVec.ofNat 64 (leNat (data.take n))) with pc := k.pc + BitVec.ofNat 64 (8 * l) } s1) ∧
      let gone := fun (s1 : State) => onlyCore p c (k.enter stHostAbort k.pc (if k.priv = 0 then 1 else 3)) s1
      runsWake (.hostCompletion tag .abort data) s (gone s1) ∧
      runsWake (.hostCompletionTimeout tag) s (gone { s1 with host := { s1.host with cfg := mput s.host.cfg 0x41 (mget 0 s.host.cfg 0x41 ||| 0x4000) } }))) ∧
  (∀ (s : State) (off size : Nat) (v : W64),
    (bar0Ok off size = false → runs (.registerWrite off size v) s (turnedAway s)) ∧
    (bar0Ok off size = true → s.start.phase = .safe → safeServes off = false → runs (.registerWrite off size v) s (fun t => t = s)) ∧
    (bar0Ok off size = true → (0x2000000 ≤ off ∨ (0x800000 ≤ off ∧ off < 0x800010 ∧ 8 ≤ off % 16)) → runs (.registerWrite off size v) s (fun t => t = s)) ∧
    (s.start.phase ≠ .safe → ∀ x ∈ [4, 8], runs (.registerWrite 0x800020 x v) s (fun t => t = { s with xl := { s.xl with pkey := v.setWidth 32 } })))

/-- INV_ALL and INV_RANGE empty the translation caches of their range, mark the walks that they meet, and are BUSY; a length of 0 or no multiple of 64 KiB
completes with FORM_MISMATCH; a GO while BUSY does nothing. The invalidation completes once no access of the range is left. LOAD installs a leaf, or completes
with FORM_MISMATCH; NACK refuses a page. A walk that ends installs its leaf, or gives its status; one that met an invalidation is made again; one in a range
being invalidated waits. AMISS_TMO ends an A-mode wait. What waited for a page is fetched again and goes on. A displaced entry leaves its cache and nothing
else changes. A write of a split register pends a changed mode, withdraws it when it returns to the active one, clears REFUSED by 1, and starts the flush for
address translation; the flush completes with empty caches and the mode switched. That of the start alternates is a permanent write, which a later write of
the register replaces while it waits for the window; the mode of the journal pends. -/
def Obligations.Translations : Prop :=
  let fetched := fun (p : Nat) (v : State) => (fetchWaiters v p).foldl (fun s r => fetchT r s) v
  let failed := fun (p : Nat) (st : Status) (v t : State) =>
    let u := fetched p { v with xl := { v.xl with bad := some (p, st), walks := v.xl.walks.filter (fun w => pageOf w.va != p) } }
    t = { wake u with xl := { (wake u).xl with bad := none } } ∧ (quietThreads u = true → wake u = u)
  let roomFor := fun (s : State) (e : XEntry) => (s.xl.base.filter (fun x => x.set == e.set)).length < 16
  (∀ (s : State), s.start.phase ≠ .safe →
    (s.xl.busy = true → (∀ x ∈ ([(.invAll, 0), (.invRange, 1), (.nack, 3)] : List (Instr × Nat)), runs x.1 s (fun t => t = { s with xl := { s.xl with op := x.2 } })) ∧
      ∀ k : BitVec 2, runs (.load k) s (fun t => t = { s with xl := { s.xl with op := 2, size := k.toNat } })) ∧
    (s.xl.busy = false →
      let began := fun (op lo hi : Nat) (t : State) =>
        (∀ k, t.tile k = { s.tile k with xc := (s.tile k).xc.filter (fun e => e.va + e.size ≤ lo || hi ≤ e.va) }) ∧
        t = { s with tiles := t.tiles, xl := { s.xl with op, busy := true, status := 0, invLo := lo, invHi := hi, base := s.xl.base.filter (fun e => e.va + e.size ≤ lo || hi ≤ e.va), walks := s.xl.walks.map (fun w => if w.aMode = false ∧ lo ≤ w.va ∧ w.va < hi then { w with again := true } else w) } }
      let n := s.xl.arg.toNat
      let a := bitsOf s.xl.addr 51 16 * 0x10000
      runs .invAll s (began 0 0 (2 ^ 52)) ∧
      ((n = 0 ∨ n % 0x10000 ≠ 0) → runs .invRange s (fun t => t = { s with xl := { s.xl with op := 1, status := stFormMismatch } })) ∧
      (n ≠ 0 → n % 0x10000 = 0 → runs .invRange s (began 1 a (a + n))) ∧
      (∀ k : BitVec 2,
        let bytes := match k.toNat with
          | 0 => 0x10000
          | 1 => 0x200000
          | _ => 0x40000000
        let va := bitsOf s.xl.addr 51 0 / bytes * bytes
        let bad := k = 3 ∨ bitOf s.xl.arg 0 = false ∨ bitOf s.xl.arg 1 = false ∨ frameOf s.xl.arg % bytes ≠ 0
        (bad → runs (.load k) s (fun t => t = { s with xl := { s.xl with op := 2, size := k.toNat, status := stFormMismatch } })) ∧
        let covered := s.xl.walks.filter (fun w => w.aMode && va ≤ w.va && w.va < va + bytes)
        let put := fun (b : List XEntry) => ∀ e, e ∈ b ↔ e = ⟨va, bytes, s.xl.arg⟩ ∨ (e ∈ s.xl.base ∧ (e.va ≠ va ∨ e.size ≠ bytes))
        let x := { s.xl with op := 2, size := k.toNat, status := 0 }
        (¬ bad → roomFor s ⟨va, bytes, s.xl.arg⟩ →
          (covered = [] → runs (.load k) s (fun t => put t.xl.base ∧ t = { s with xl := { x with base := t.xl.base } })) ∧
          (∀ w, covered = [w] → runsWake (.load k) s (fun t => ∃ b, put b ∧ t = fetched (pageOf w.va) { s with xl := { x with base := b, walks := s.xl.walks.filter (fun y => pageOf y.va != pageOf w.va) } })))) ∧
      (let p := bitsOf s.xl.addr 51 16
       ((∀ w ∈ s.xl.walks, w.aMode = false ∨ pageOf w.va ≠ p) → runs .nack s (fun t => t = { s with xl := { s.xl with op := 3, status := 0 } })) ∧
       ((∃ w ∈ s.xl.walks, w.aMode = true ∧ pageOf w.va = p) → runs .nack s (failed p stXlateFault { s with xl := { s.xl with op := 3, status := 0 } }))))) ∧
  (∀ (s : State),
    ((s.xl.busy = false ∨ usesRange s s.xl.invLo s.xl.invHi = true) → runs .xopInvalidateComplete s (fun t => t = s)) ∧
    (s.xl.busy = true → usesRange s s.xl.invLo s.xl.invHi = false → runsWake .xopInvalidateComplete s (fun t =>
      t.xl = { s.xl with busy := false, status := 0, base := t.xl.base } ∧ t = { s with tiles := t.tiles, xl := t.xl } ∧
      (∀ e ∈ t.xl.base, e.va + e.size ≤ s.xl.invLo ∨ s.xl.invHi ≤ e.va) ∧ ∀ k, ∀ e ∈ (t.tile k).xc, e.va + e.size ≤ s.xl.invLo ∨ s.xl.invHi ≤ e.va)) ∧
    ((s.xl.flush = false ∨ s.xl.walks ≠ [] ∨ usesRange s 0 (2 ^ 52) = true) → runs .xlateFlushComplete s (fun t => t = s)) ∧
    (s.xl.flush = true → s.xl.walks = [] → usesRange s 0 (2 ^ 52) = false → (∀ m ∈ s.pairs.mir, m.2.toOpen = false) → (s.pairs.expBusy = false ∨ s.pairs.expWords ≠ []) → runsWake .xlateFlushComplete s (fun t =>
      t.xl.flush = false ∧ (∀ e ∈ t.xl.base, e.va + e.size = 0 ∨ 2 ^ 52 ≤ e.va) ∧ (∀ k, ∀ e ∈ (t.tile k).xc, e.va + e.size = 0 ∨ 2 ^ 52 ≤ e.va) ∧
      t.split 1 = (if (s.split 1).pend then { s.split 1 with pend := false, act := (s.split 1).req } else s.split 1) ∧ (∀ f, f ≠ 1 → t.split f = s.split f) ∧ sameBytes s t))) ∧
  (∀ (s : State) (va : Nat),
    let p := pageOf va
    let gone := s.xl.walks.filter (fun w => pageOf w.va != p)
    ((∀ w ∈ s.xl.walks, w.aMode = true ∨ pageOf w.va ≠ pageOf va) → runs (.tableWalkComplete va) s (fun t => t = s)) ∧
    (∀ w, s.xl.walks.find? (fun w => pageOf w.va == pageOf va && !w.aMode) = some w →
      (s.invalidating w.va = true → runs (.tableWalkComplete va) s (fun t => t = s)) ∧
      (s.invalidating w.va = false → w.again = true → runs (.tableWalkComplete va) s (fun t =>
        t = { s with xl := { s.xl with walks := s.xl.walks.map (fun y => if y = w then { y with again := false, root := s.xl.root } else y) } })) ∧
      (s.invalidating w.va = false → w.again = false →
        (∀ e, walk { s with xl := { s.xl with root := w.root } } w.va = .ok e → roomFor s e → runsWake (.tableWalkComplete va) s (fun t =>
          ∃ b, e ∈ b ∧ t = fetched p { s with xl := { s.xl with walks := gone, base := b } })) ∧
        (∀ st, walk { s with xl := { s.xl with root := w.root } } w.va = .error st → runs (.tableWalkComplete va) s (failed p st s)))) ∧
    ((∀ w ∈ s.xl.walks, w.aMode = false ∨ pageOf w.va ≠ pageOf va) → runs (.amissTimeout va) s (fun t => t = s)) ∧
    ((∃ w ∈ s.xl.walks, w.aMode = true ∧ pageOf w.va = pageOf va) → runs (.amissTimeout va) s (failed p stXlateFault s))) ∧
  (∀ (s : State) (n va : Nat),
    runs (.translationDisplacement (some n) va) s (fun t => onlyTile n s t ∧ t.tile n = { s.tile n with xc := (s.tile n).xc.filter (fun e => !e.covers va) }) ∧
    runs (.translationDisplacement none va) s (fun t => t = { s with xl := { s.xl with base := s.xl.base.filter (fun e => !e.covers va) } })) ∧
  (∀ (s : State) (fn : Nat) (v : W64), s.start.phase ≠ .safe → fn ≠ 8 →
    let p := s.split fn
    let q : Split := { p with refused := p.refused && !bitOf v 3 }
    (10 < fn → runs (.splitModeWrite fn v) s (fun t => t = s)) ∧
    (fn ≤ 10 → runs (.splitModeWrite fn v) s (fun t =>
      t.split fn = { q with req := bitOf v 0, pend := decide (bitOf v 0 ≠ p.act) } ∧ (∀ f, f ≠ fn → t.split f = s.split f) ∧
      t = { s with host := { s.host with splits := t.host.splits }, xl := { s.xl with flush := s.xl.flush || (fn == 1 && (bitOf v 0 != p.act || p.pend)) } }))) ∧
  (∀ (s : State) (v : W64), s.start.phase ≠ .safe →
    let p := s.split 8
    let kept := s.pow.winQ.filter (fun w => w != .altmode true && w != .altmode false)
    let q : Split := { p with refused := p.refused && !bitOf v 3, status := if kept = s.pow.winQ then p.status else 0 }
    let others := fun (t : State) => ∀ f, f ≠ 8 → t.split f = s.split f
    ((bitOf v 0 = s.start.altmode ∨ s.windowOpen = true) → runs (.splitModeWrite 8 v) s (fun t =>
      t.split 8 = { q with req := bitOf v 0, pend := decide (bitOf v 0 ≠ p.act) } ∧ others t ∧
      t = { s with host := { s.host with splits := t.host.splits }, pow := { s.pow with winQ := kept }, start := { s.start with altmode := bitOf v 0 } })) ∧
    (bitOf v 0 ≠ s.start.altmode → s.windowOpen = false → runs (.splitModeWrite 8 v) s (fun t =>
      t.split 8 = { q with status := stWindowWait } ∧ others t ∧ t.pow = { s.pow with winQ := kept ++ [.altmode (bitOf v 0)] } ∧ t.start = s.start ∧
      eventPlaced stWindowWait 0x0A 0 0 0 0 6 0 s t)))

/-- A cache request while BUSY gives its fields alone; one of 0 lines completes with FORM_MISMATCH, one with a line out of its windows with that line's status before any
change, a pin that the cache cannot take with PIN_REFUSED and no pin. UNPIN, INVAL and FLUSH are BUSY until they complete: then pins go, lines are dropped,
or dirty bytes are written back, and lines outside the request stay. A pin of a present line pins it. A fill's sectors become valid, and the fill ends with its
last. A reduction's release frees its line, and a held line takes no second reduction. A stalled fill takes a way when one is free, and waits otherwise. A
write of MEM_QCFG pends; the quiet device takes it: no line, pin or fill is left, and every commit word is valid. A refresh notes its bank's tick. -/
def Obligations.CacheAndPartition : Prop :=
  let told := fun (c : Cache) (st : Status) (s t : State) => (c.runEvt = false → t.host = s.host) ∧ (c.runEvt = true → eventPlaced st 0x0C 0 0 0 0 c.runAddr 0 s t) ∧
    t.obs = { s.obs with base := t.obs.base } ∧ (s.obs.cntEn = false → t.obs = s.obs)
  (∀ (s : State) (k : Nat) (n : BitVec 16) (evt : Bool), s.start.phase ≠ .safe → k < 5 →
    let i : Instr := match k with
      | 0 => .pin n evt
      | 1 => .pinf n evt
      | 2 => .unpin n evt
      | 3 => .inval n evt
      | _ => .flush n evt
    let f : Cache := { s.cache with copOp := k, copN := n.toNat, copEvt := evt }
    let c : Cache := { f with runOp := k, runN := n.toNat, runEvt := evt, runAddr := s.cache.copAddr }
    let ls := (List.range n.toNat).map (fun j => bitsOf s.cache.copAddr 55 12 + j)
    let ended := fun (st : Status) => runs i s (fun t => t = { s with cache := { c with copBusy := false, copStatus := st }, host := t.host, obs := t.obs } ∧ told c st s t)
    (s.cache.copBusy = true → runs i s (fun t => t = { s with cache := f })) ∧
    (s.cache.copBusy = false →
      (n = 0 → ended stFormMismatch) ∧
      (∀ l a b, ls = a ++ l :: b → (∀ x ∈ a, copLineStatus s x = 0) → copLineStatus s l ≠ 0 → ended (copLineStatus s l)) ∧
      (n ≠ 0 → (∀ x ∈ ls, copLineStatus s x = 0) →
        (1 < k → runs i s (fun t => t = { s with cache := { c with copBusy := true, copStatus := 0 } })) ∧
        (k ≤ 1 → (s.cacheCols = 0 ∨ pinFits s ls = false) → ended stPinRefused) ∧
        (k = 0 → s.cacheCols ≠ 0 → pinFits s ls = true → (∀ l ∈ ls, (s.line l).isSome = true) →
          runs i s (fun t => (∀ l, t.line l = if l ∈ ls then (s.line l).map (fun x => { x with pinned := true }) else s.line l) ∧
            t = { s with cache := { c with copBusy := true, copStatus := 0, lines := t.cache.lines } }))))) ∧
  (∀ (s : State),
    let ls := (List.range s.cache.runN).map (fun j => bitsOf s.cache.runAddr 55 12 + j)
    let ended := fun (t : State) => t = { s with cache := { s.cache with copBusy := false, copStatus := 0, lines := t.cache.lines }, host := t.host, obs := t.obs } ∧ told s.cache 0 s t
    (s.cache.copBusy = false → runs .copComplete s (fun t => t = s)) ∧
    (s.cache.copBusy = true →
      (2 ≤ s.cache.runOp → runsWake .copComplete s (fun t => ended t ∧ (∀ l, l ∉ ls → t.line l = s.line l) ∧ ∀ l ∈ ls,
        (s.cache.runOp = 2 → t.line l = (s.line l).map (fun x => { x with pinned := false })) ∧
        (s.cache.runOp = 3 → t.line l = (s.line l).bind (fun x => if x.pinned then some { x with valid := 0, dirty := [], data := [] } else none)) ∧
        (4 ≤ s.cache.runOp → t.line l = (s.line l).map (fun x => { x with dirty := [] })))) ∧
      (s.cache.runOp = 0 → (∀ l ∈ ls, (s.line l).any (fun x => x.pinned) = true) → runs .copComplete s (fun t => ended t ∧ ∀ l, t.line l = s.line l)))) ∧
  (∀ (s : State) (l : Nat) (sec : BitVec 16) (data : List Byte),
    let here := s.isLocal (l * 4096) = true ∧ winOf (paLocal (l * 4096)) = .hbm
    let counts := fun (t : State) => t.obs = { s.obs with base := t.obs.base } ∧ (s.obs.cntEn = false → t.obs = s.obs)
    ((∀ f ∈ s.cache.fills, f.line ≠ l ∨ f.stalled = true) → runsWake (.cacheFillReturn l sec data) s (fun t => t = s)) ∧
    (∀ f, s.cache.fills.find? (fun f => f.line == l && !f.stalled) = some f → here →
      let left := f.sectors &&& ~~~sec
      runsWake (.cacheFillReturn l sec data) s (fun t => ∃ u, t = (fetchFillers l (f.sectors &&& sec) u).foldl (fun s r => fetchT r s) u ∧ counts u ∧
        u.cache.fills = (if left = 0 then s.cache.fills.filter (fun g => g.line != l) else s.cache.fills.map (fun g => if g.line = l then { g with sectors := left } else g)) ∧
        u.line l = (s.line l).map (fun x => { x with valid := x.valid ||| (f.sectors &&& sec) }) ∧ (∀ k, k ≠ l → u.line k = s.line k) ∧
        u = { s with cache := { s.cache with lines := u.cache.lines, fills := u.cache.fills }, obs := u.obs })) ∧
    (let served := s.cacheCols ≠ 0 ∧ here
     (¬ served → ∀ w, runsWake (.cacheReduction l w) s (fun t => t = s)) ∧
     (served → runsWake (.cacheReduction l .release) s (fun t => (∀ k, k ≠ l → t.line k = s.line k) ∧ t = { s with cache := { s.cache with lines := t.cache.lines } } ∧
       ((s.line l).any (fun x => x.held) = false → t = s) ∧
       ∀ x, s.line l = some x → x.held = true → ∃ v, t.line l = some { x with held := false, victim := v } ∧ ((x.pinned = true ∨ ∀ f ∈ s.cache.fills, f.stalled = false) → v = false))) ∧
     (served → (s.line l).any (fun x => x.held || x.victim) = true → ∀ w, w ≠ .release → runsWake (.cacheReduction l w) s (fun t => t = s))) ∧
    ((∀ f ∈ s.cache.fills, f.line ≠ l ∨ f.stalled = false) → runsWake (.evictionStallEnd l) s (fun t => t = s)) ∧
    (∀ f, s.cache.fills.find? (fun f => f.line == l && f.stalled) = some f →
      let s0 := match (s.setLinesOf l).find? (fun x => x.victim) with
        | some x => s.evict x.line
        | none => s
      (s0.allocLine l f.alloc = none → runsWake (.evictionStallEnd l) s (fun t => t = s)) ∧
      (∀ s1, s0.allocLine l f.alloc = some s1 → here → runsWake (.evictionStallEnd l) s (fun t => t = { s1 with cache := { s1.cache with
        fills := (s1.cache.fills.map (fun g => if g.line = l then { g with stalled := false } else g)).filter (fun g => g.sectors != 0) } })))) ∧
  (∀ (s : State) (v : W64), s.start.phase ≠ .safe → runs (.qcfgWrite v) s (fun t =>
    t = { s with cache := { s.cache with qpend := some (if s.build = .t then v.setWidth 20 else (v.setWidth 8).setWidth 20) } })) ∧
  (∀ (s : State),
    (s.cache.qpend = none → runs .qcfgSwitch s (fun t => t = s)) ∧
    (∀ new, s.cache.qpend = some new →
      ((s.quiet = false ∨ ∃ x ∈ s.bank.roll, x.query = true) → runs .qcfgSwitch s (fun t => t = s)) ∧
      (s.quiet = true → s.bank.roll = [] → (s.cache.copBusy = true → 1 < s.cache.runOp) → s.cache.quarters &&& ~~~new = 0 → runsWake .qcfgSwitch s (fun t =>
        (∀ g, g < 16 → t.commitWord g = { s.commitWord g with v := true }) ∧
        t = { s with cache := { s.cache with quarters := new, qpend := none, lines := [], plru := [], fills := [] }, bank := { s.bank with commit := t.bank.commit }, obs := { s.obs with base := t.obs.base } })))) ∧
  (∀ (s : State) (layer col bank : Nat),
    let on := layer < Config.mlayers s.build ∧ col < 64 ∧ bank < 32 ∧ (s.dom (64 + layer)).st = 2
    (¬ on → runs (.bankRefresh layer col bank) s (fun t => t = s)) ∧
    (on → runs (.bankRefresh layer col bank) s (fun t => t = { s with pow := { s.pow with refreshed := mput s.pow.refreshed (layer * 2048 + col * 32 + bank) s.time.ref } })))

/-- A patrol read without a finding of its column changes nothing; one that finds an unknown uncorrectable word of near memory poisons it, and repairs its row
in H mode. SOFT and RETIRE complete with FORM_MISMATCH in H mode and NO_TARGET outside repairable memory; else the repair or retirement begins, or is refused
with REPAIR_EXHAUSTED. FUSE waits for the window, and completes when nothing is left to fuse. A switched row is recorded; in A mode no fuse is asked for. A
retirement moves one line at a time and is recorded after the last. ROWS is taken only while the device is quiet. Staged records persist inside the writing
window. A swap begins with its domain and RETIRING, or makes its tile absent. A failed Director core is replaced by a standby core, which is recorded and
reported, or is not. A waiting write runs only inside the writing window, oldest first; what another cause holds back there goes to the end of the line. -/
def Obligations.RepairAndWaitingWrites : Prop :=
  (∀ (s : State) (layer col : Nat) (ecc : List Ecc) (w : Nat),
    let here := fun (w : Nat) => winOf (w * 32) = .near ∧ nearLayer (w * 32) = layer ∧ nearCol (w * 32) = col
    ((columnBusy s layer col = true ∨ ∀ e ∈ ecc, ¬ here e.word) → runs (.patrolScrub layer col ecc) s (fun t => t = s)) ∧
    (columnBusy s layer col = false → here w → w ∉ s.poison → s.populated (w * 32) = true → (s.split 6).pend = false → runs (.patrolScrub layer col [⟨w, true⟩]) s (fun t =>
      t.poison = s.poison ++ [w] ∧ (s.links.watches = [] → t.tiles = s.tiles ∧ t.reels = s.reels) ∧ t.bank = s.bank ∧ (s.aMode 6 = true → t.rep = s.rep) ∧
      (s.aMode 6 = false → rowBusy s (rowBase (w * 32)) = false → usedSpares s (w * 32 / 0x600000) < 24 →
        t.rep = { s.rep with rows := s.rep.rows ++ [{ addr := rowBase (w * 32), spare := usedSpares s (w * 32 / 0x600000) }] })))) ∧
  (∀ (s : State), s.start.phase ≠ .safe →
    let o := bitsOf s.rep.rprAddr 43 0
    let r := fun (op : Nat) => { s.rep with rprOp := op, runOp := op, runAddr := s.rep.rprAddr }
    let ended := fun (op : Nat) (st : Status) (t : State) => t = { s with rep := { r op with rprBusy := false, rprStatus := st } }
    (s.rep.rprBusy = true → ∀ x ∈ ([(.soft, 0), (.fuse, 1), (.retire, 2)] : List (Instr × Nat)), runs x.1 s (fun t => t = { s with rep := { s.rep with rprOp := x.2 } })) ∧
    (s.rep.rprBusy = false →
      (s.aMode 6 = false → runs .soft s (ended 0 stFormMismatch) ∧ runs .retire s (ended 2 stFormMismatch)) ∧
      (s.aMode 6 = true → repairable s o = false → runs .soft s (ended 0 stNoTarget) ∧ runs .retire s (ended 2 stNoTarget)) ∧
      (s.aMode 6 = true → repairable s o = true → rowBusy s (rowBase o) = false → usedSpares s (rowUnit s (rowBase o)) < spareRows (rowUnit s (rowBase o)) → runs .soft s (fun t =>
        t = { s with rep := { r 0 with rprBusy := true, rprStatus := 0, rows := s.rep.rows ++ [{ addr := rowBase o, spare := usedSpares s (rowUnit s (rowBase o)) }] } })) ∧
      (s.aMode 6 = true → winOf o = .hbm → s.populated o = true → s.rep.retiring = none →
        let p := hbmPcOf s.build (o - hbmBase)
        let room := s.rep.retired.length < maxRetire s.build ∧ reserveFor s.build (s.rep.retired.length + 1) ≤ s.rep.rsvRows ∧ s.rep.pfull = false
        (p ∉ s.rep.retired → room → runs .retire s (fun t => t = { s with rep := { r 2 with rprBusy := true, rprStatus := 0, retiring := some p, retNext := 0, retPoison := 0 } })) ∧
        (p ∉ s.rep.retired → ¬ room → runs .retire s (fun t => t = { s with rep := { r 2 with rprBusy := false, rprStatus := stRepairExhausted, rsvStatus := stRepairExhausted } }))) ∧
      (s.windowOpen = true → s.rep.pfull = true → runs .fuse s (ended 1 stRepairExhausted)) ∧
      (s.windowOpen = true → s.rep.pfull = false → (∀ r ∈ s.rep.rows, r.switched = false ∨ r.fused = true) → runs .fuse s (ended 1 stOk)) ∧
      (s.windowOpen = false → WinWrite.fuse ∈ s.pow.winQ → runs .fuse s (fun t => t = { s with rep := { r 1 with rprBusy := true, rprStatus := stWindowWait } })) ∧
      (s.windowOpen = false → WinWrite.fuse ∉ s.pow.winQ → runs .fuse s (fun t => t.rep = { r 1 with rprBusy := true, rprStatus := stWindowWait } ∧
        t.pow = { s.pow with winQ := s.pow.winQ ++ [.fuse], winLater := s.pow.winLater.filter (fun x => x != .fuse) } ∧ eventPlaced stWindowWait 0x0A 0 0 0 0 6 0 s t)))) ∧
  (∀ (s : State) (addr : Nat),
    ((∀ r ∈ s.rep.rows, r.addr ≠ addr ∨ r.switched = true) → runs (.rowRepairSwitch addr) s (fun t => t = s)) ∧
    (∀ r, s.rep.rows.find? (fun r => r.addr == addr && !r.switched) = some r → s.aMode 6 = true → runs (.rowRepairSwitch addr) s (fun t =>
      t = { s with rep := t.rep } ∧ t.rep.rows = s.rep.rows.map (fun x => if x = r then { x with switched := true } else x) ∧ hlogged 0x05 false 0 (BitVec.ofNat 64 addr) (BitVec.ofNat 64 r.spare) s t ∧
      t.rep.rprBusy = (s.rep.rprBusy && !(s.rep.runOp == 0 && rowBase (bitsOf s.rep.runAddr 43 0) == addr))))) ∧
  (∀ (s : State) (bad : Bool),
    (s.rep.retiring = none → runs (.pcRetireLineMove bad) s (fun t => t = s)) ∧
    (∀ p, s.rep.retiring = some p →
      (s.rep.retNext < 137329 - s.rep.rsvRows → runs (.pcRetireLineMove bad) s (fun t => t.rep.retNext = s.rep.retNext + 1 ∧ t.rep.retPoison = s.rep.retPoison + b2n bad ∧ t.rep.retiring = some p ∧
        t.rep.retired = s.rep.retired ∧ (bad = false → t.poison = s.poison) ∧ (bad = true → t.poison = (s.mark (hbmBase + lineInRow s.build p s.rep.retNext * 4096) 4096).poison) ∧ t.tiles = s.tiles ∧ sameBytes s t)) ∧
      (137329 - s.rep.rsvRows ≤ s.rep.retNext → s.permWait = true → runs (.pcRetireLineMove bad) s (fun t => t = s)) ∧
      (137329 - s.rep.rsvRows ≤ s.rep.retNext → s.permWait = false → runs (.pcRetireLineMove bad) s (fun t => t = { s with rep := t.rep } ∧ t.rep.retired = s.rep.retired ++ [p] ∧ t.rep.moved = s.rep.moved ∧
        (s.aMode 6 = true → (s.rep.rprBusy = true → s.rep.runOp = 2 → hbmPcOf s.build (bitsOf s.rep.runAddr 43 0 - hbmBase) = p) →
          t.rep.retiring = none ∧ t.rep.rsvStatus = 0 ∧ t.rep.rprBusy = (s.rep.rprBusy && s.rep.runOp != 2)) ∧ hlogged 0x08 true 0 (BitVec.ofNat 64 (p / 64 + p % 64 * 8)) (BitVec.ofNat 64 s.rep.retPoison) s t)))) ∧
  (∀ (s : State) (v : W64), s.start.phase ≠ .safe →
    let k := bitsOf v 11 0
    ((s.quiet = false ∨ s.rep.retiring.isSome = true ∨ k < reserveFor s.build s.rep.retired.length) → runs (.hbmRsvWrite v) s (fun t => t = s)) ∧
    (s.quiet = true → s.rep.retiring = none → reserveFor s.build s.rep.retired.length ≤ k → s.rep.pfull = false → s.rep.moved = [] → runs (.hbmRsvWrite v) s (fun t =>
      t.rep.rsvRows = k ∧ t.rep.rsvStatus = 0 ∧ t.rep.moved = [] ∧ bytesOutside hbmBase (Config.hbmTop s.build) s t ∧ hlogged 0x09 true 0 (BitVec.ofNat 64 k) 0 s t ∧ t.tiles = s.tiles ∧ t.host = s.host))) ∧
  (∀ (s : State),
    let due := ∀ x, s.rep.persistAt = some x → x + 1000000000 ≤ s.time.ref
    ((s.windowOpen = false ∨ ¬ due) → runs .hlogPersist s (fun t => t = s)) ∧ (s.windowOpen = false → runs .windowWriteStart s (fun t => t = s)) ∧
    (s.windowOpen = true → due → s.rep.hlog.length + s.rep.staged.length < 4096 → s.rep.laneWait = [] → s.rep.stageWait.length ≤ 256 → runs .hlogPersist s (fun t =>
      t = { s with rep := { s.rep with hlog := s.rep.hlog ++ s.rep.staged, pfull := false, persistAt := some s.time.ref, stageWait := [], nextSeq := s.rep.nextSeq + s.rep.stageWait.length, staged := (s.rep.stageWait.zipIdx s.rep.nextSeq).map (fun x => { x.1 with seq := x.2 % 2 ^ 32 }) } })) ∧
    (s.pow.winQ = [] → s.pow.winLater = [] → runs .windowWriteStart s (fun t => t = s)) ∧
    (∀ w qs ls, s.windowOpen = true → ((s.pow.winQ = w :: qs ∧ s.pow.winLater = ls) ∨ (s.pow.winQ = [] ∧ qs = [] ∧ s.pow.winLater = w :: ls)) → runs .windowWriteStart s (fun t =>
      let q : Power := { s.pow with winQ := qs, winLater := ls }
      t.pow.winQ = qs ∧ t.tiles = s.tiles ∧ sameBytes s t ∧ (w ≠ .fuse → t.pow.winLater = ls) ∧
      (w = .fuse → s.rep.pfull = false → s.hbmCued = true → (∃ r ∈ s.rep.rows, r.switched = true ∧ r.fused = false ∧ winOf r.addr = .hbm) → t.pow.winLater = ls ++ [.fuse]) ∧
      (∀ v, w = .svn v → t.sec = { s.sec with minSvn := Nat.max s.sec.minSvn v }) ∧ (w = .life → t.pow = { q with eqhMram := s.pow.eqh, pohMram := s.pow.poh }) ∧
      (w = .clrsel → t.start = { s.start with sel := [], counts := [] }) ∧ (∀ k, w = .fwslot k → t.start = { s.start with slot := k } ∧ t.rep = { s.rep with fwJpend := false }) ∧
      (w = .journal → t.start = { s.start.ahead with staged := [] }) ∧ (∀ c, w = .certify c → t.sec = { s.sec with chain := c, lcBusy := false, lcStatus := 0 }) ∧
      (∀ v, w = .altmode v → t.start = { s.start with altmode := v } ∧ t.split 8 = { s.split 8 with req := v, pend := decide (v ≠ (s.split 8).act), status := 0 }) ∧
      (∀ off v, w = .plan off v → let m := bytePut s.start.plan off (leBytes 8 v.toNat); t.start = { s.start with plan := m, planv := planOk m }) ∧
      (∀ op arg x, w = .lc op arg x → t = lcWrite op arg x { s with pow := q })))) ∧
  (∀ (s : State) (v : W64) (pass : Bool), s.start.phase ≠ .safe →
    let n := bitsOf v 7 0
    let ask := bitOf v 8 = true ∧ s.rep.tspBusy = false ∧ s.tileThere n = true
    (¬ ask → runs (.tspareGo v) s (fun t => t = { s with rep := { s.rep with tspTile := n } })) ∧
    (ask → s.rep.pfull = true → runs (.tspareGo v) s (fun t => t = { s with rep := { s.rep with tspTile := n, tspStatus := stRepairExhausted } })) ∧
    (ask → s.rep.pfull = false → runs (.tspareGo v) s (fun t => t = { s with rep := { s.rep with tspTile := n, tspQueue := s.rep.tspQueue ++ [n], tspBusy := true, tspStatus := 0 } })) ∧
    ((s.rep.tspQueue = [] ∨ s.rep.tspRetiring = true) → runs (.tileSwapStart pass) s (fun t => t = s)) ∧
    (∀ x rest, s.rep.tspQueue = x :: rest → s.rep.tspRetiring = false →
      let free := (∀ y ∈ s.rep.spareOf, y.1 / 16 ≠ x / 16) ∧ x / 16 ∉ s.rep.usedSpare
      (pass = true → free → runs (.tileSwapStart pass) s (fun t => let d := 4 * (x / 16) + 3
        t = { s with rep := { s.rep with tspRetiring := true }, pow := t.pow } ∧ ((s.dom d).st ≠ 0 → t.pow = s.pow) ∧ ((s.dom d).st = 0 → t.dom d = { s.dom d with st := 2 }))) ∧
      ((pass = false ∨ ¬ free) → s.permWait = false → runs (.tileSwapStart pass) s (fun t => t.rep.absent = s.rep.absent ++ [x] ∧ t.rep.tspQueue = rest ∧ t.rep.tspBusy = !rest.isEmpty ∧ t.rep.tspRetiring = false ∧
        t.rep.tspStatus = stRepairExhausted ∧ t = { s with rep := t.rep } ∧ hlogged 0x02 true stRepairExhausted (BitVec.ofNat 64 x) 0 s t)))) ∧
  (∀ (s : State) (c : Nat),
    (c ∉ s.rep.dirActive → runs (.directorWatchdogExpiry c) s (fun t => t = s)) ∧
    (c ∈ s.rep.dirActive → s.rep.dirFailed.length < s.rep.dirStandby.length → runs (.directorWatchdogExpiry c) s (fun t =>
      t = { s with rep := { s.rep with dirActive := s.rep.dirActive.filter (fun x => x != c), dirFailed := s.rep.dirFailed ++ [c] } })) ∧
    (c ∈ s.rep.dirActive → s.rep.dirStandby.length ≤ s.rep.dirFailed.length → runs (.directorWatchdogExpiry c) s (fun t => t.rep.dirActive = s.rep.dirActive.filter (fun x => x != c) ∧ t.rep.dirFailed = s.rep.dirFailed ∧
      t.start.alert = (s.start.alert || ((s.rep.dirActive.filter (fun x => x != c)).isEmpty && s.rep.dirFailed.isEmpty)) ∧ eventPlaced 0 0x0E 0 0 0 0 (BitVec.ofNat 64 c) 0xF s t)) ∧
    ((s.rep.dirFailed = [] ∨ s.rep.dirStandby = [] ∨ s.permWait = true) → runs .directorTakeoverComplete s (fun t => t = s)) ∧
    (∀ f fs k ks, s.rep.dirFailed = f :: fs → s.rep.dirStandby = k :: ks → s.permWait = false → runs .directorTakeoverComplete s (fun t =>
      t.rep.dirFailed = fs ∧ t.rep.dirStandby = ks ∧ t.rep.dirActive = s.rep.dirActive ++ [k] ∧ hlogged 0x0A true 0 (BitVec.ofNat 64 (f + 16 * k)) 0 s t ∧
      eventPlaced 0 0x0E 0 0 0 0 (BitVec.ofNat 64 f) (BitVec.ofNat 64 k) s t)))

/-- A write of GAF_DOM_CTL of a domain that the build has sets EVT and takes one request as Table 11.7 gives, two requests as none; no other domain changes.
A start completes into ON, or goes on to a stop that pended and whose domain is not busy; a stop completes into OFF, or goes on to a start that pended, and a
memory layer loses its bytes and no other. GAF_RST_CTL while BUSY is ignored, a target that the build lacks ends with NO_TARGET. A tile reset halts the
tile's threads and clears its array, handles, tables and caches, or waits for a swap; a reel reset halts its sequences' threads; a domain reset stops and starts
the domain; an I/O reset cuts the ports that were UP, and a hot reset while another reset runs waits. After the release an interface that is back leaves the
waiting set, and the last ends the reset; the limit of 1 s ends it with IO_RESET. A swap switches once its tile is idle and is recorded. PCIE_LINK_UP sets the
link's fields. A start that ends a domain's reset begins the hot reset that waited for it. -/
def Obligations.DomainsAndResets : Prop :=
  (∀ (s : State) (n : Nat) (v : W64), s.start.phase ≠ .safe →
    let d : Dom := { s.dom n with evt := bitOf v 6 }
    let one := fun (x : Dom) (t : State) => t = { s with pow := { s.pow with doms := t.pow.doms } } ∧ t.dom n = x ∧ ∀ k, k ≠ n → t.dom k = s.dom k
    ∀ i ∈ ([.enReq n v, .disReq n v] : List Instr),
      (domThere s.build n = false → runs i s (fun t => t = s)) ∧
      (domThere s.build n = true →
        (bitOf v 0 = bitOf v 1 → runs i s (one d)) ∧
        (bitOf v 0 = true → bitOf v 1 = false → runs i s (one (
          if d.pendOn then { d with status := stDeferred }
          else if d.pendOff then { d with pendOff := false, status := 0 }
          else if d.st = 0 then { d with st := 1, status := 0 }
          else if d.st = 3 then { d with pendOn := true, status := stDeferred }
          else { d with status := 0 }))) ∧
        (bitOf v 0 = false → bitOf v 1 = true → runs i s (one (
          if d.pendOff then { d with status := stDeferred }
          else if d.pendOn then { d with pendOn := false, status := 0 }
          else if d.st = 1 then { d with pendOff := true, status := stDeferred }
          else if d.st = 2 then (if domBusy s n then { d with status := stDomainBusy } else { d with st := 3, status := 0 })
          else { d with status := 0 }))))) ∧
  (∀ (s : State) (n : Nat), s.start.ioPend = false →
    let d := s.dom n
    let ends := s.start.rstBusy && s.start.runKind == 0 && s.start.runTarget == n
    let told := fun (t : State) => (d.evt = false → t.host = s.host) ∧ (d.evt = true → eventPlaced d.status 0x0A 0 0 0 0 3 (BitVec.ofNat 64 n) s t)
    let one := fun (x : Dom) (t : State) => t = { s with pow := { s.pow with doms := t.pow.doms }, host := t.host, start := t.start } ∧ t.dom n = x ∧ (∀ k, k ≠ n → t.dom k = s.dom k) ∧ told t
    let started := fun (x : Dom) (t : State) => one x t ∧ t.start = (if ends then { s.start with rstBusy := false, rstStatus := 0 } else s.start)
    let off := { d with st := b2n d.pendOn, pendOn := false, pendOff := false }
    (d.st ≠ 1 → runsWake (.domainStartComplete n) s (fun t => t = s)) ∧
    (d.st = 1 → d.pendOff = false → runsWake (.domainStartComplete n) s (started { d with st := 2 })) ∧
    (d.st = 1 → d.pendOff = true → runsWake (.domainStartComplete n) s (started (if domBusy s n then { d with st := 2, pendOff := false, status := stDomainBusy } else { d with st := 3, pendOn := false, pendOff := false }))) ∧
    (d.st ≠ 3 → runsWake (.domainStopComplete n) s (fun t => t = s)) ∧
    (d.st = 3 → 81 ≤ n → (∀ c, anchorCol s = some c → c.1 + 64 ≠ n) → runsWake (.domainStopComplete n) s (fun t => one off t ∧ t.start = s.start)) ∧
    (d.st = 3 → n < 64 → runsWake (.domainStopComplete n) s (fun t => t.dom n = off ∧ (∀ k, k ≠ n → t.dom k = s.dom k) ∧ told t ∧ (∀ x, servingDom s x ≠ n → t.tile x = s.tile x) ∧
      ∀ a, (∀ x, x < Config.tiles s.build → servingDom s x = n → (a < storeBase + x * 0x200000 ∨ storeBase + (x + 1) * 0x200000 ≤ a) ∧ (a < tableBase + x * 0x10000 ∨ tableBase + (x + 1) * 0x10000 ≤ a)) → t.byte a = s.byte a)) ∧
    (d.st = 3 → 64 ≤ n → n < 69 → runsWake (.domainStopComplete n) s (fun t => t.dom n = off ∧ bytesOutside ((n - 64) * 0x300000000) 0x300000000 s t ∧ t.tiles = s.tiles ∧
      (∀ x ∈ t.bank.roll, x.layer ≠ n - 64) ∧ (∀ k, k ≠ n → t.dom k = s.dom k) ∧ told t)) ∧
    (d.st = 3 → 69 ≤ n → n < 81 → d.evt = false → runsWake (.domainStopComplete n) s (fun t =>
      let u : State := (domOff n s).modPort (n - 69) (fun x => { x with st := 0, retraining := false })
      let v := if portIsUp s (n - 69) || (s.port (n - 69)).retraining then portGone (n - 69) u else u
      t = if d.pendOn then domStart n v else v))) ∧
  (∀ (s : State) (n : Nat), s.start.ioPend = true → s.start.rstBusy = true → s.start.runKind = 0 → s.start.runTarget = n → (s.dom n).st = 1 → (s.dom n).pendOff = false →
    runsWake (.domainStartComplete n) s (fun t => t.start.ioPend = false ∧ t.start.rstBusy = true ∧ t.start.runKind = 3 ∧ t.start.ioAssert = true ∧ (t.dom n).st = 2)) ∧
  (∀ (s : State), s.start.phase ≠ .safe →
    let run := fun (k n : Nat) => { s.start with rstKind := k, rstTarget := n, runKind := k, runTarget := n, rstStatus := 0 }
    let status := fun (k n : Nat) (st : Status) (t : State) => t = { s with start := { run k n with rstStatus := st } }
    (s.start.rstBusy = true → (∀ n, ∀ x ∈ ([(.resetDomain n, 0), (.resetTile n, 1), (.resetReel n, 2), (.resetIo, 3)] : List (Instr × Nat)),
      runs x.1 s (fun t => t = { s with start := { s.start with rstKind := x.2, rstTarget := if x.2 = 3 then s.start.rstTarget else n } }))) ∧
    (s.start.rstBusy = false → ∀ n,
      (domThere s.build n = false → runs (.resetDomain n) s (status 0 n stNoTarget)) ∧ (s.tileThere n = false → runs (.resetTile n) s (status 1 n stNoTarget)) ∧
      (16 ≤ n → runs (.resetReel n) s (status 2 n stNoTarget)) ∧
      (domThere s.build n = true → runsWake (.resetDomain n) s (fun t => t.dom n = { s.dom n with st := 3, pendOn := true, pendOff := false } ∧ (∀ k, k ≠ n → t.dom k = s.dom k) ∧
        t.start = { run 0 n with rstBusy := true } ∧ (64 ≤ n → t.tiles = s.tiles) ∧
        (n < 64 → ∀ x, x < Config.tiles s.build → servingDom s x = n → ∀ k, (t.thread ⟨x, k⟩).live = true → (t.thread ⟨x, k⟩).halted = true))) ∧
      (s.tileThere n = true → swapping s n = true → runs (.resetTile n) s (fun t => t = { s with start := { run 1 n with rstBusy := true, tileWait := some n } })) ∧
      (s.tileThere n = true → swapping s n = false →
        runsWake (.resetTile n) s (fun t => (t.tile n).sets = [] ∧ (t.tile n).mmas = [] ∧ (t.tile n).rscs = [] ∧ (t.tile n).rt0 = [] ∧ (t.tile n).rt1 = [] ∧ (t.tile n).cb0 = [] ∧ (t.tile n).cb1 = [] ∧ (t.tile n).ra = [] ∧ (t.tile n).xc = [] ∧
          (∀ k, (t.thread ⟨n, k⟩).live = true → (t.thread ⟨n, k⟩).halted = true) ∧ t.start = run 1 n ∧
          (s.cues = [] → liveOn s n = [] → onlyTiles { s with start := t.start } t ∧ ∀ k, k ≠ n → t.tile k = s.tile k))) ∧
      (n < 16 → runsWake (.resetReel n) s (fun t => (∀ r, (t.thread r).live = true → (t.thread r).helper = false → (t.thread r).reel = n → (t.thread r).halted = true) ∧
        (s.cues = [] → reelThreads s n = [] → status 2 n stOk t)))) ∧
    (s.start.rstBusy = false →
      let ps := (List.range (Config.ports s.build)).filter (fun n => portIsUp s n || (s.port n).retraining)
      let cut := fun (t : State) => t.start = { s.start with rstKind := 3, runKind := 3, runTarget := t.start.runTarget, rstBusy := true, rstStatus := 0, ioAssert := true, ioDown := ps ++ [12, 13] } ∧
        t = { s with start := t.start, links := { s.links with ports := t.links.ports, reqs := t.links.reqs }, reels := t.reels, host := t.host } ∧ (s.cues = [] → t.reels = s.reels ∧ t.host = s.host) ∧
        t.links.reqs = s.links.reqs.map (fun q => if q.port ∈ ps then { q with again := true } else q) ∧
        (∀ n, n ∉ ps → t.port n = s.port n) ∧ ∀ n ∈ ps, (t.port n).st = 1 ∧ (t.port n).replay = [] ∧ (t.port n).txSeq = 0 ∧ (t.port n).rxSeq = 4095 ∧ (t.port n).credits = fullCredits ∧ (t.port n).owed = [0, 0, 0, 0] ∧
          (t.port n).cur = [] ∧ (t.port n).queue = ((s.port n).replay.flatMap (fun f => f.msgs) ++ (s.port n).cur.map (fun c => c.2.1) ++ (s.port n).queue).filter (fun m => !(m.src == s.ownId && isRequest m.mtype))
      (∀ q ∈ s.links.reqs, q.port ∈ ps → q.mtype ≠ mtSEM) → runs .resetIo s cut ∧ runs .pcieHotReset s cut)) ∧
  (∀ (s : State),
    let left := fun (k : Nat) => s.start.ioDown.filter (fun x => x != k)
    let done := fun (k : Nat) => (left k).isEmpty && s.start.rstBusy && s.start.runKind == 3
    let link := fun (rate width : Nat) (flit : Bool) => { s.host with rate := rate % 8, width := width % 32, flit, degraded := decide (rate % 8 < 5) || decide (width % 32 < 4) }
    (s.start.rstBusy = true → runs .pcieHotReset s (fun t => t = { s with start := { s.start with ioPend := true } })) ∧
    runs .ioResetRelease s (fun t => t = { s with start := { s.start with ioAssert := false } }) ∧
    (∀ rate width flit, 13 ∉ s.start.ioDown → runs (.pcieLinkUp rate width flit) s (fun t => t = { s with host := link rate width flit })) ∧
    (s.start.ioPend = false →
      (∀ k, (s.start.ioAssert = true ∨ (k ∉ s.start.ioDown ∧ portIsUp s k = false)) → runsWake (.interfaceRetrained k) s (fun t => t = s)) ∧
      (s.start.ioAssert = false → 12 ∈ s.start.ioDown → runsWake (.interfaceRetrained 12) s (fun t =>
        t = { s with start := { s.start with ioDown := left 12, rstBusy := s.start.rstBusy && !done 12, rstStatus := if done 12 then 0 else s.start.rstStatus } })) ∧
      (∀ k, k < 12 → s.start.ioAssert = false → k ∈ s.start.ioDown → runsWake (.interfaceRetrained k) s (fun t =>
        (t.port k).st = 2 ∧ t.start = { s.start with ioDown := left k, rstBusy := s.start.rstBusy && !done k, rstStatus := if done k then 0 else s.start.rstStatus })) ∧
      (∀ rate width flit, s.start.ioAssert = false → 13 ∈ s.start.ioDown → s.host.reqs = [] → (∀ k, (s.dma k).cur = none) → runsWake (.pcieLinkUp rate width flit) s (fun t =>
        t = { s with host := link rate width flit, start := { s.start with ioDown := left 13, rstBusy := s.start.rstBusy && !done 13, rstStatus := if done 13 then 0 else s.start.rstStatus } })) ∧
      ((s.start.ioAssert = true ∨ s.start.ioDown = [] ∨ s.start.rstBusy = false ∨ s.start.runKind ≠ 3) → runsWake .ioResetLimit s (fun t => t = s)) ∧
      (s.start.ioAssert = false → s.start.ioDown = [13] → s.start.rstBusy = true → s.start.runKind = 3 → s.host.reqs = [] → (∀ k, (s.dma k).cur = none) → runsWake .ioResetLimit s (fun t =>
        t = { s with start := { s.start with rstBusy := false, rstStatus := stIoReset } })) ∧
      ((s.rep.tspQueue = [] ∨ s.rep.tspRetiring = false ∨ s.permWait = true) → runsWake .tileSwapSwitch s (fun t => t = s)) ∧
      (∀ x rest, s.rep.tspQueue = x :: rest →
        let switched := fun (t : State) => mfind t.rep.spareOf x = some (17 * (x / 16) + 16) ∧ (∀ y, y ≠ x → mfind t.rep.spareOf y = mfind s.rep.spareOf y) ∧ t.rep.tspQueue = rest ∧ t.rep.tspBusy = !rest.isEmpty ∧
          t.rep.tspRetiring = false ∧ t.rep.tspStatus = 0 ∧
          hlogged 0x01 true 0 (BitVec.ofNat 64 (x + physOf s x * 2 ^ 8 + (17 * (x / 16) + 16) * 2 ^ 17)) (BitVec.ofNat 64 (s.tile x).unc.length) s t
        (tileIdle s x = false → runsWake .tileSwapSwitch s (fun t => t = s)) ∧
        (s.rep.tspRetiring = true → tileIdle s x = true → s.permWait = false →
          (s.start.tileWait ≠ some x → runsWake .tileSwapSwitch s (fun t => switched t ∧ onlyTile x { s with rep := t.rep } t ∧ t.tile x = { s.tile x with unc := [], ra := [], xc := [] })) ∧
          (s.start.tileWait = some x → runsWake .tileSwapSwitch s (fun t => switched t ∧ (t.tile x).sets = [] ∧ (t.tile x).rt0 = [] ∧
            t.start = { s.start with tileWait := none, rstBusy := false, rstStatus := 0 }))))))

/-- Over a port that is not UP no flit, heartbeat, HELLO, CLAIM, route or loss changes anything. An invalid flit, or one out of sequence that a replay does not
explain, is discarded with a request for replay, and the ninth in vain makes the port retrain; a reserved kind is counted as discarded. A DATA flit in sequence
is acknowledged, its credit owed, and each message that ends in it does what the row of its type does. A heartbeat carries the port's three counts. A trained
port is UP with full credit and sends HELLO; HELLO_REPEAT sends it again; a HELLO is recorded. A failing lane is replaced by the spare and recorded, or waits
for room in the log; the next takes the port DOWN. A completed retrain sends the unacknowledged flits again. A lost port is LOST with LOSS set and its queues
empty. A claim of this device's ID by a lower tag sets CONFLICT, before VALID or after; another new claim is remembered and relayed. VALID sets the provisional
ID, CLAIMED makes it the ID. ROUTE and WITHDRAW change what the port announces; LOST remembers a device without a route. An IDLE flit brings the far end's
counts, and that of no parent changes no time; ALIGNED follows 1 ms of good offsets. -/
def Obligations.NeottePorts : Prop :=
  let counts := fun (s t : State) => t.obs = { s.obs with base := t.obs.base }
  (∀ (s : State) (n : Nat) (rx : RxFlit) (f : Flit) (x y z tag : W64) (a b c d : Nat) (bd : Build) (lg dn : Bool), portIsUp s n = false →
    ∀ i ∈ ([.dataFlit n rx, .idleFlit n f x y z, .heartbeat n, .hello n a b c d bd lg tag, .helloRepeat n, .claim n a b tag, .route n a b dn, .withdraw n a, .portLost n] : List Instr), runs i s (fun t => t = s)) ∧
  (∀ (s : State) (n : Nat) (rx : RxFlit) (h : Flit) (x y z : W64), portIsUp s n = true →
    let p := s.port n
    let only := fun (t : State) => (∀ k, k ≠ n → t.port k = s.port k) ∧ counts s t ∧ t = { s with links := { s.links with ports := t.links.ports, tx := t.links.tx, idle := t.links.idle }, obs := t.obs }
    let asked := fun (t : State) => only t ∧ (t.port n).nakWait = true ∧ (t.port n).naks = p.naks + 1 ∧ (t.port n).retry = Nat.min 0xFFFF (p.retry + 1) ∧ (t.port n).rxSeq = p.rxSeq ∧
      ∃ g, t.links.tx = s.links.tx ++ [(n, g)] ∧ g.kind = 1 ∧ g.nak = true ∧ g.ack = p.rxSeq
    let retrains := fun (t : State) => only t ∧ (t.port n).st = 1 ∧ (t.port n).retraining = true ∧ t.links.tx = s.links.tx
    let kept := fun (f : Flit) => p.replay.dropWhile (fun g => (f.ack + 4096 - g.seq) % 4096 < 2048)
    let idle := fun (f : Flit) (c0 c1 c2 : W64) (i : Instr) => f.nak = false → p.queue = [] → p.cur = [] →
      runs i s (fun t => (t.port n).txEcho = c0 ∧ (t.port n).rxCount = s.time.tmb ∧ (t.port n).replay = kept f ∧ (∀ k, k ≠ n → t.port k = s.port k) ∧
        ((s.time.root = true ∨ p.peer ≠ s.time.parent) → only t) ∧
        (s.time.root = false → p.peer = s.time.parent → let th := (((c2.toNat : Int) - c1.toNat) + ((c0.toNat : Int) - s.time.tmb.toNat)).tdiv 2
          t.time.offset = (if th > 32767 then 32767 else if th < -32768 then -32768 else th) ∧
          (s.time.hadAlign = false → (∀ x ∈ s.cues, x.2.2.st = .awaiting) → t.time.tmb = BitVec.ofInt 64 ((s.time.tmb.toNat : Int) + th) ∧ t.time.stepped = true ∧ t.time.aligned = false) ∧
          (s.time.hadAlign = true → t.time.tmb = s.time.tmb ∧ t.time.slew = th)))
    let i : Instr := .dataFlit n rx
    idle h x y z (.idleFlit n h x y z) ∧
      (flitOf rx.lanes rx.codewords = none → runs i s (if p.naks < 8 then asked else retrains)) ∧
      (∀ f, flitOf rx.lanes rx.codewords = some f →
        (2 ≤ f.kind → runs i s (fun t => t = { s with links := { s.links with discarded := s.links.discarded + 1 }, obs := t.obs } ∧ counts s t)) ∧
        (f.kind = 0 → f.nak = false → f.seq ≠ (p.rxSeq + 1) % 4096 →
          (p.nakWait = false → runs i s (if p.naks < 8 then asked else retrains)) ∧
          (p.nakWait = true → (∀ y, p.seen = some y → f.seq ≠ y ∧ (f.seq + 4096 - y) % 4096 < 2048) → runs i s (fun t => only t ∧ t.links.tx = s.links.tx ∧ (t.port n).nakWait = true))) ∧
        (f.kind = 0 → f.nak = false → f.seq = (p.rxSeq + 1) % 4096 → runs i s (fun t => ∃ u, only u ∧ u.links.tx = s.links.tx ∧ (u.port n).rxSeq = f.seq ∧ (u.port n).nakWait = false ∧
          (u.port n).naks = 0 ∧ (u.port n).replay = kept f ∧ (u.port n).owed = p.owed.set f.vc (p.owed.getD f.vc 0 + 1) ∧
          let w := pump n ((flitMsgs n f u).1.foldl (fun s m => (deliverMsg n m s).state s) (flitMsgs n f u).2)
          t = if (w.links.tx.drop s.links.tx.length).any (fun x => x.1 == n) || !portIsUp w n then w else sendIdle n false w)) ∧
        (f.kind = 1 → let at_ := fun (k : Nat) => BitVec.ofNat 64 (leNat ((f.slots.drop (8 * k)).take 8))
          idle f (at_ 0) (at_ 1) (at_ 2) i)) ∧
    runs (.heartbeat n) s (fun t => only t ∧ t.links.idle = s.links.idle ++ [(n, s.time.tmb, p.txEcho, p.rxCount)] ∧ ∃ g, t.links.tx = s.links.tx ++ [(n, g)] ∧ g.kind = 1 ∧ g.ack = p.rxSeq) ∧
    (linkReady s n 3 = true → runs (.helloRepeat n) s (flitSent n (helloMsg s n) s))) ∧
  (∀ (s : State) (n : Nat) (m : Msg),
    (∀ i ∈ ([(mtRD, .rd n m), (mtWR, .wr n m), (mtSEM, .sem n m), (mtWATCH, .watch n m), (mtZERO, .zero n m), (mtRDATA, .rdata n m), (mtACK, .ack n m), (mtNOTIFY, .notify n m), (mtCDATA, .cdata n m),
      (mtPDATA, .pdata n m), (mtCOPEN, .copen n m), (mtCLAIM, .claim n m.src m.hops (BitVec.ofNat 64 (leNat (m.data.take 8)))), (mtROUTE, .route n m.addr (m.param % 16) (m.param / 16 % 2 == 1)),
      (mtWITHDRAW, .withdraw n m.addr)] : List (Nat × Instr)), m.mtype = i.1 → deliverMsg n m s = exec i.2 s) ∧
    (m.mtype = mtLOST → portIsUp s n = true → s.links.claimed = true → m.dst = s.ownId → deliverMsg n m s = exec (.lost m.param) (noteFrom n m.src s)) ∧
    (m.mtype ∈ [0, 0x06, 0x10, 0x14, 0x20, 0x24, 0x2F, 0x3D, 0xFF] → deliverMsg n m s = .next (discardMsg n s))) ∧
  (∀ (s : State) (n half : Nat),
    let may := n < Config.ports s.build ∧ (s.port n).st ≠ 2 ∧ (s.port n).retraining = false ∧ n ∉ s.rep.failedPorts ∧ (s.dom (69 + n)).st = 2
    (¬ may → runs (.portUp n half) s (fun t => t = s)) ∧
    (may → runs (.portUp n half) s (fun t => (t.port n).st = 2 ∧ (t.port n).halfRtt = half ∧ (t.port n).rxSeq = 4095 ∧ (t.port n).nakWait = false ∧ (t.port n).adv = [] ∧
      (∃ f, t.links.tx = s.links.tx ++ [(n, f)] ∧ f.kind = 0 ∧ f.vc = 3 ∧ f.seq = 0 ∧ f.msgs = [helloMsg s n]) ∧ ∀ k, k ≠ n → t.port k = s.port k))) ∧
  (∀ (s : State) (n a b c d : Nat) (bd : Build) (lg : Bool) (tag : W64), portIsUp s n = true → runsWake (.hello n a b c d bd lg tag) s (fun t =>
    (t.port n).peer = a ∧ (t.port n).peerPort = b ∧ (t.port n).peerV = true ∧ (t.port n).peerBpos = c ∧ (t.port n).peerPair = d ∧ (t.port n).peerLegacy = lg ∧ (t.port n).peerTag = tag ∧
    (s.links.claimed = false → ∀ k, k ≠ n → t.port k = s.port k))) ∧
  (∀ (s : State) (n lane cws : Nat),
    let known := Config.ports s.build ≤ n ∨ 8 < lane ∨ n ∈ s.rep.failedPorts ∨ (n, lane) ∈ s.rep.deadLanes ∨ ∃ x ∈ s.rep.laneWait, x.1 = n ∧ x.2.1 = lane
    let spent := (∃ x ∈ s.rep.deadLanes, x.1 = n) ∨ s.rep.pfull = true
    let down := fun (u : State) => u.rep.failedPorts = s.rep.failedPorts ++ [n] ∧ (u.port n).st = 0 ∧ (u.port n).retraining = false ∧ counts s u ∧
      u = { s with rep := u.rep, links := { s.links with ports := u.links.ports }, obs := u.obs } ∧ hlogged 0x04 true 0 (BitVec.ofNat 64 n) 0 s u
    (known → runs (.laneFailure n lane cws) s (fun t => t = s)) ∧
    (¬ known → s.permWait = true → runs (.laneFailure n lane cws) s (fun t => counts s t ∧ t = { s with rep := { s.rep with laneWait := s.rep.laneWait ++ [(n, lane, cws)] }, obs := t.obs })) ∧
    (¬ known → s.permWait = false → ¬ spent → lane = 8 → runs (.laneFailure n lane cws) s (fun t => counts s t ∧ t = { s with rep := { s.rep with deadLanes := s.rep.deadLanes ++ [(n, 8)] }, obs := t.obs })) ∧
    (¬ known → s.permWait = false → ¬ spent → lane < 8 → runs (.laneFailure n lane cws) s (fun t => t.rep.deadLanes = s.rep.deadLanes ++ [(n, lane)] ∧ (t.port n).spare = lane ∧
      (t.port n).st = (if portIsUp s n then 1 else (s.port n).st) ∧ (t.port n).replay = (s.port n).replay ∧ (∀ k, k ≠ n → t.port k = s.port k) ∧
      hlogged 0x03 true 0 (BitVec.ofNat 64 (n + lane * 16 + lane * 256)) (BitVec.ofNat 64 cws) s t)) ∧
    (¬ known → s.permWait = false → spent → portIsUp s n = false → (s.port n).retraining = false → runs (.laneFailure n lane cws) s down) ∧
    (¬ known → s.permWait = false → spent → (portIsUp s n = true ∨ (s.port n).retraining = true) → runsWake (.laneFailure n lane cws) s (fun t => ∃ u, down u ∧ t = portGone n u)) ∧
    ((s.port n).retraining = false → runs (.portRetrainComplete n) s (fun t => t = s)) ∧
    ((s.port n).retraining = true → (s.port n).queue = [] → (s.port n).cur = [] → runs (.portRetrainComplete n) s (fun t => (t.port n).st = 2 ∧ (t.port n).retraining = false ∧ (∀ k, k ≠ n → t.port k = s.port k) ∧
      t.links.tx = s.links.tx ++ (s.port n).replay.map (fun f => (n, { f with ack := (s.port n).rxSeq })))) ∧
    (portIsUp s n = true → runsWake (.portLost n) s (fun t => t = portGone n (s.modPort n (fun p => { p with st := 3, loss := true })) ∧
      (s.links.reqs = [] → s.bank.ops = [] → s.bank.groups = [] → s.pairs.mir = [] → s.pairs.pmir = [] → s.cues = [] → (s.split 4).pend = false →
        (t.port n).st = 3 ∧ (t.port n).loss = true ∧ (t.port n).peerV = false ∧ (t.port n).queue = [] ∧ (t.port n).replay = [] ∧ t.tiles = s.tiles ∧ t.reels = s.reels ∧ sameBytes s t)))) ∧
  (∀ (s : State) (n id hops : Nat) (tag : W64), portIsUp s n = true →
    let mine := (if s.links.claimed then id = s.links.devid else s.links.idValid = true ∧ s.links.conflict = false ∧ id = s.provisional) ∧ tag.toNat < s.tag.toNat
    let new := (id, tag.toNat) ∉ s.links.claims
    let heard := { s.links with claims := s.links.claims ++ [(id, tag.toNat)] }
    (¬ mine → ¬ new → runs (.claim n id hops tag) s (fun t => t = s)) ∧
    (¬ mine → new → (14 ≤ hops ∨ ∀ k, portIsUp s k = true → k = n) → runs (.claim n id hops tag) s (fun t => t = { s with links := heard })) ∧
    (∀ j, ¬ mine → new → hops < 14 → j ≠ n → (∀ k, portIsUp s k = true → k = n ∨ k = j) → linkReady s j 3 = true → runs (.claim n id hops tag) s (fun t => t.links.claims = heard.claims ∧
      flitSent j (claimMsg id (hops + 1) tag) s t)) ∧
    (mine → (∀ k, portIsUp s k = true → k = n) → runs (.claim n id hops tag) s (fun t => t.links.conflict = true ∧ t.links.claimed = false ∧ t.links.devid = 0xFFF ∧
      eventPlaced stIdConflict 0x09 0 0 0 0 (BitVec.ofNat 64 (n + id * 16)) 0 s t))) ∧
  (∀ (s : State) (v : W64), s.start.phase ≠ .safe →
    let cfg : Links := { s.links with board := bitsOf v 8 0, idValid := bitOf v 9, conflict := s.links.conflict && !bitOf v 23 }
    let id := 8 * bitsOf v 8 0 + s.pins.bpos
    let rival := ∃ c ∈ s.links.claims, c.1 = id ∧ c.2 < s.tag.toNat
    ((bitOf v 9 = false ∨ s.links.idValid = true ∨ s.links.claimed = true) → runs (.idCfgWrite v) s (fun t => t = { s with links := cfg })) ∧
    (bitOf v 9 = true → s.links.idValid = false → s.links.claimed = false → upPorts s = [] →
      (¬ rival → runs (.idCfgWrite v) s (fun t => t = { s with links := { cfg with claims := s.links.claims ++ [(id, s.tag.toNat)] } })) ∧
      (rival → runs (.idCfgWrite v) s (fun t => t.links = { cfg with claims := s.links.claims ++ [(id, s.tag.toNat)], conflict := true, claimed := false, devid := 0xFFF } ∧
        eventPlaced stIdConflict 0x09 0 0 0 0 (BitVec.ofNat 64 (15 + id * 16)) 0 s t)))) ∧
  (∀ (s : State),
    ((s.links.idValid = false ∨ s.links.claimed = true ∨ s.links.conflict = true) → runs .claimed s (fun t => t = s)) ∧
    (s.links.idValid = true → s.links.claimed = false → s.links.conflict = false → runsWake .claimed s (fun t => t.links.claimed = true ∧ t.links.devid = s.provisional ∧ t.ownId = s.ownId)) ∧
    runs .alignedSet s (fun t => t = { s with time := { s.time with aligned := s.time.aligned || (s.time.goodSince != 0 && decide (s.time.goodSince - 1 + 1000000 ≤ s.time.ref)) } })) ∧
  (∀ (s : State) (n dst hops : Nat) (dn : Bool),
    (s.links.claimed = false → (portIsUp s n = true → runs (.route n dst hops dn) s (fun t => t = s) ∧ runs (.withdraw n dst) s (fun t => t = s)) ∧ runs (.lost dst) s (fun t => t = s)) ∧
    (s.links.claimed = true → portIsUp s n = true → runsWake (.withdraw n dst) s (fun t => mfind (t.port n).adv dst = none) ∧
      runsWake (.route n dst hops dn) s (fun t => let r := (mfind (s.port n).adv dst).getD (none, none)
        mfind (t.port n).adv dst = some (if dn then (r.1, some hops) else (some hops, r.2)))) ∧
    (s.links.claimed = true → dst = s.ownId → runsWake (.lost dst) s (fun t => t = s)) ∧
    (s.links.claimed = true → dst ≠ s.ownId → s.bank.ops = [] → s.bank.groups = [] → s.pairs.mir = [] → s.pairs.pmir = [] → (s.split 4).pend = false →
      (∀ q ∈ s.links.reqs, q.dst ≠ dst) → (∀ c ∈ s.cues, dst ∉ c.2.2.members) →
      ((routePort s dst).isSome = true → runsWake (.lost dst) s (fun t => t = s)) ∧
      (routePort s dst = none → runsWake (.lost dst) s (fun t => t = { s with links := { s.links with lost := if dst ∈ s.links.lost then s.links.lost else s.links.lost ++ [dst] } }))))

/-- A message of another device goes on over its route with one hop more. A request whose home cannot take it is answered with the home's status and changes
no byte; one that must wait, or that comes after one of its source that waits, waits at its home in the order of arrival. On plain near memory RD answers with
the bytes, WR writes them and acknowledges, SEM combines the word and answers with the old value, WATCH registers and reports the word, ZERO clears the page and
acknowledges; no other byte changes. An answer to no request is counted as discarded. RDATA ends a core's request with its data, ACK of a failure and the
timeout end it with an exception; NOTIFY hands the word to the WAIT that watches it and ends its request's limit. A freeze already pending is not taken again; a
new one goes on along the tree and joins the pending freezes. -/
def Obligations.RemoteMemory : Prop :=
  (∀ (s : State) (p : Nat) (m : Msg), portIsUp s p = true → s.links.claimed = true → m.dst ≠ s.ownId → (s.route m.dst).v = true → m.hops < 15 → linkReady s (s.route m.dst).port (vcOf m.mtype) = true →
    ∀ i ∈ ([(mtRD, .rd p m), (mtWR, .wr p m), (mtSEM, .sem p m), (mtWATCH, .watch p m), (mtZERO, .zero p m), (mtRDATA, .rdata p m), (mtACK, .ack p m), (mtNOTIFY, .notify p m)] : List (Nat × Instr)),
      m.mtype = i.1 → runs i.2 s (fun t => sent s t ∧ flitSent (s.route m.dst).port { m with hops := m.hops + 1, dn := m.dn || (s.route m.dst).dn } s t)) ∧
  (∀ (s : State) (p : Nat) (m : Msg), arrives s p m = true →
    let first := ∀ x ∈ s.links.homeQ, x.2.src ≠ m.src
    let reply := fun (a : Msg) (t : State) => ∀ n, routePort s m.src = some n → linkReady s n 1 = true → flitSent n { a with dn := (s.route m.src).dn } s t
    let ack := fun (st : Status) => ({ mtype := mtACK, dst := m.src, src := s.ownId, tag := m.tag, addr := 0, param := st.toNat } : Msg)
    let data := fun (k param : Nat) (bs : List Byte) => ({ mtype := k, dst := m.src, src := s.ownId, tag := m.tag, param, data := bs } : Msg)
    let waits := fun (n : Nat) => homeWaits s m.addr n (m.mtype == mtSEM)
    let ok := fun (n : Nat) => first ∧ homeStatus s m.addr n = 0 ∧ waits n = false
    (∀ i ∈ ([(mtRD, .rd p m, m.len), (mtWR, .wr p m, m.data.length), (mtSEM, .sem p m, 8), (mtWATCH, .watch p m, 8), (mtZERO, .zero p m, 4096 * m.param)] : List (Nat × Instr × Nat)), m.mtype = i.1 →
      (winOf m.addr ≠ .host → first → homeStatus s m.addr i.2.2 ≠ 0 → runsWake i.2.1 s (fun t => sent s t ∧ reply (ack (homeStatus s m.addr i.2.2)) t)) ∧
      ((waits i.2.2 = true ∨ ¬ first) → runsWake i.2.1 s (fun t => t = { s with links := { s.links with homeQ := s.links.homeQ ++ [(p, m)] } }))) ∧
    (winOf m.addr = .near → s.bank.roll = [] → (∀ x ∈ s.poison, x * 32 + 32 ≤ m.addr ∨ m.addr + 4096 ≤ x * 32) →
      (m.mtype = mtRD → ok m.len → m.len ≤ 256 - m.addr % 256 → runsWake (.rd p m) s (fun t => sent s t ∧ reply (data mtRDATA 0 (s.bytes m.addr m.len)) t)) ∧
      (m.mtype = mtWR → ok m.data.length → m.data.length ≤ 256 - m.addr % 256 →
        runsWake (.wr p m) s (fun t => t.bytes m.addr m.data.length = m.data ∧ bytesOutside m.addr m.data.length s t ∧ (s.links.watches = [] → t.tiles = s.tiles ∧ reply (ack 0) t))) ∧
      (m.addr % 8 = 0 → ok 8 →
        (m.mtype = mtSEM → let w := wordsOf 2 m.data
          runsWake (.sem p m) s (fun t => t.word m.addr = (if m.param % 4 = 3 then s.word m.addr else semNew (m.param % 4) (s.word m.addr) (w.getD 0 0) (w.getD 1 0)) ∧
            bytesOutside m.addr 8 s t ∧ (s.links.watches = [] → t.tiles = s.tiles ∧ reply (data mtRDATA 0 (leBytes 8 (s.word m.addr).toNat)) t))) ∧
        (m.mtype = mtWATCH → runsWake (.watch p m) s (fun t => sameBytes s t ∧ t.tiles = s.tiles ∧ t.bank = s.bank ∧
          t.links.watches = s.links.watches.filter (fun w => !(w.owner.isNone && w.src == m.src && w.tag == m.tag)) ++ [{ addr := m.addr, src := m.src, tag := m.tag, owner := none }] ∧
          reply (data mtNOTIFY 0 (leBytes 8 (s.word m.addr).toNat)) t))) ∧
      (m.mtype = mtZERO → m.param = 1 → m.addr % 4096 = 0 → ok 4096 →
        runsWake (.zero p m) s (fun t => (∀ a, m.addr ≤ a → a < m.addr + 4096 → t.byte a = 0) ∧ bytesOutside m.addr 4096 s t ∧ (s.links.watches = [] → t.tiles = s.tiles ∧ reply (ack 0) t))))) ∧
  (∀ (s : State) (p : Nat) (m : Msg), arrives s p m = true →
    (answered s m = none → ∀ i ∈ ([(mtRDATA, .rdata p m), (mtACK, .ack p m), (mtNOTIFY, .notify p m)] : List (Nat × Instr)), m.mtype = i.1 →
      runsWake i.2 s (fun t => t = { s with links := { s.links with discarded := s.links.discarded + 1 }, obs := { s.obs with base := t.obs.base } })) ∧
    (∀ q pr c rd n l, answered s m = some q → q.owner = .core pr c rd n l → (∀ x ∈ s.links.reqs, x.waiting = false) →
      let k : Core := { s.core pr c with busy := false }
      let s1 : State := { s with links := { s.links with reqs := s.links.reqs.filter (fun x => x.tag != m.tag) } }
      let fails := fun (st : Status) => onlyCore pr c (k.enter st k.pc (if k.priv = 0 then 1 else 3)) s1
      (m.mtype = mtRDATA → runsWake (.rdata p m) s (onlyCore pr c { k.setS rd (BitVec.ofNat 64 (leNat (m.data.take n))) with pc := k.pc + BitVec.ofNat 64 (8 * l) } s1)) ∧
      (m.mtype = mtACK → m.param % 65536 ≠ 0 → runsWake (.ack p m) s (fails (BitVec.ofNat 16 m.param))) ∧
      (s.links.reqs.find? (fun x => x.tag == m.tag && x.mtype != 0) = some q → runsWake (.remoteRequestTimeout m.tag) s (fails stLinkLost))) ∧
    (∀ q r w, answered s m = some q → q.owner = .watch r → (s.thread r).wait = some w → m.mtype = mtNOTIFY → runsWake (.notify p m) s (fun t =>
      (t.thread r).wait = some (if w.reported then w else { w with seen := some (BitVec.ofNat 64 (leNat (m.data.take 8))), poisoned := decide (m.param % 65536 ≠ 0) }) ∧ (∀ k, k ≠ r → t.thread k = s.thread k) ∧
      t.links.reqs = s.links.reqs.map (fun x => if x.tag = q.tag then { x with mtype := 0 } else x) ∧ sameBytes s t))) ∧
  (∀ (s : State) (tag : Nat), (∀ q ∈ s.links.reqs, q.tag ≠ tag ∨ q.mtype = 0) → runs (.remoteRequestTimeout tag) s (fun t => t = s)) ∧
  (∀ (s : State) (p : Nat) (tick : W64),
    let next := (treePorts s).filter (fun n => n != p)
    ((portIsUp s p = false ∨ s.links.claimed = false ∨ tick.toNat ∈ s.obs.pending) → runs (.clapMsg p tick) s (fun t => t = s)) ∧
    (portIsUp s p = true → s.links.claimed = true → tick.toNat ∉ s.obs.pending →
      (s.obs.cntEn = false → next = [] → runs (.clapMsg p tick) s (fun t => t = s)) ∧
      (∀ j, s.obs.cntEn = false → next = [j] → linkReady s j 3 = true → runs (.clapMsg p tick) s (fun t => sent s t ∧
        flitSent j { mtype := mtCLAP, dst := (s.port j).peer, src := s.ownId, hops := 1, data := leBytes 8 tick.toNat } s t)) ∧
      (s.obs.cntEn = true → s.time.tmb.toNat < tick.toNat → s.obs.pending.length < 4 → runs (.clapMsg p tick) s (fun t => t.obs.pending = s.obs.pending ++ [tick.toNat] ∧ t.obs.drop = s.obs.drop ∧
        (next = [] → t = { s with obs := { s.obs with pending := s.obs.pending ++ [tick.toNat] } }))) ∧
      (s.obs.cntEn = true → s.time.tmb.toNat < tick.toNat → 4 ≤ s.obs.pending.length → runs (.clapMsg p tick) s (fun t => t.obs.pending = s.obs.pending ∧ t.obs.drop = Nat.min (s.obs.drop + 1) 0xFF))))

/-- A write that sets EN of a mirror opens it, with OPEN to the partner, or is refused where its regions do not translate; one that clears EN closes it. ACCEPT
starts mirroring with every region stale, REFUSED ends it, SACK and CACK answer the seal and the frame. An ARM write arms, disarms or clears a slot, and
tells the primary of a relationship by CLOSE, which ends it there. Until this device is CLAIMED no message of these does anything. OPEN takes
an armed slot with room, or is refused. A record joins the frame, a seal is answered once its records are there, a commit applies once its are, a drop discards
them, CLOSE clears. TAKE begins a takeover, which ends in HELD with its event: unsealed work is discarded, sealed work goes by the answer, and without one the
status is MIRROR_BEHIND. A cleared slot is free or armed. An export starts at the next commit and ends with what the host answered. A live switch needs a
verified image, begins at a switch point, times out under LIMIT, and ends with the new images or the old ones. -/
def Obligations.PairsExportAndSwitch : Prop :=
  (∀ (s : State) (r : Nat) (v : W64), s.start.phase ≠ .safe → r < 16 →
    let m := s.mir r
    let x : Mirror := { m with refused := m.refused && !bitOf v 19, partner := bitsOf v 12 1, tgrp := bitsOf v 16 13 }
    let y : Mirror := { x with en := true, peer := x.partner, grp := x.tgrp, toOpen := false }
    let blocks := (regionEntries s m.list.toNat m.count).bind (regionBlocks s none)
    (bitOf v 0 = m.en → runs (.mirrorEnWrite r v) s (fun t => onlyMir r x s t ∧ t = { s with pairs := t.pairs })) ∧
    (bitOf v 0 = true → m.en = false → s.xl.flush = true → runs (.mirrorEnWrite r v) s (fun t => onlyMir r { y with st := 1, toOpen := true } s t ∧ t = { s with pairs := t.pairs })) ∧
    (bitOf v 0 = true → m.en = false → s.xl.flush = false → (blocks = none ∨ x.partner = s.ownId) → runs (.mirrorEnWrite r v) s (fun t => onlyMir r { y with st := 0, refused := true } s t ∧
      eventPlaced stPairRefused 0x08 0 0 0 0 (BitVec.ofNat 64 (x.partner + r * 2 ^ 12)) 0 s t)) ∧
    (∀ bs, bitOf v 0 = true → m.en = false → s.xl.flush = false → blocks = some bs → x.partner ≠ s.ownId → runs (.mirrorEnWrite r v) s (fun t =>
      onlyMir r { y with st := 1, regions := bs, stale := [], records := 0, sealed_ := none, sacked := false, unacked := false } s t ∧ onlyPairs s t ∧
      mctlSent x.partner mcOPEN r [x.tgrp, bs.length, b2n s.pins.legacy, s.pins.pair] s t)) ∧
    (bitOf v 0 = false → m.en = true → runs (.mirrorEnWrite r v) s (fun t => onlyMir r { x with en := false, st := 0, toOpen := false, sealed_ := none, sacked := false, unacked := false, stale := [], records := 0 } s t ∧
      onlyPairs s t ∧ (m.st ≠ 0 → mctlSent m.peer mcCLOSE r [0] s t)))) ∧
  (∀ (s : State) (r tag : Nat),
    let m := s.mir r
    ((m.st ≠ 1 ∨ s.links.claimed = false) → runs (.mctlAccept r) s (fun t => t = s) ∧ runs (.mctlRefused r) s (fun t => t = s)) ∧
    (m.st = 1 → s.links.claimed = true → runs (.mctlAccept r) s (fun t => onlyMir r { m with st := 2, stale := List.range m.regions.length, host := s.aMode 9 } s t ∧ t = { s with pairs := t.pairs }) ∧
      runs (.mctlRefused r) s (fun t => onlyMir r { m with st := 0, refused := true } s t ∧ eventPlaced stPairRefused 0x08 0 0 0 0 (BitVec.ofNat 64 (m.peer + r * 2 ^ 12)) 0 s t)) ∧
    ((m.sealed_ ≠ some tag ∨ s.links.claimed = false) → runs (.mctlSack r tag) s (fun t => t = s)) ∧
    (m.sealed_ = some tag → s.links.claimed = true → runs (.mctlSack r tag) s (fun t => onlyMir r { m with sacked := true } s t ∧ t = { s with pairs := t.pairs })) ∧
    ((m.st ≠ 2 ∨ m.unacked = false ∨ s.links.claimed = false) → runs (.mctlCack r tag) s (fun t => t = s)) ∧
    (m.st = 2 → m.unacked = true → s.links.claimed = true → runs (.mctlCack r tag) s (fun t =>
      onlyMir r { m with unacked := false, step := if (s.group m.grp).recorded tag = some true then m.step else tag, host := s.aMode 9 } s t ∧ t = { s with pairs := t.pairs })) ∧
    (∀ dev, let bound := s.links.claimed = true ∧ m.peer = dev ∧ (m.st = 1 ∨ m.st = 2)
      (¬ bound → runs (.mctlClose (.partner dev) r) s (fun t => t = s)) ∧
      (bound → runs (.mctlClose (.partner dev) r) s (fun t => onlyMir r { m with st := 0, toOpen := false, sealed_ := none, sacked := false, unacked := false, stale := [], records := 0 } s t ∧
        onlyPairs s t ∧ mctlSent dev mcCLOSE r [0] s t)))) ∧
  (∀ (s : State) (k : Nat) (v : W64), s.start.phase ≠ .safe → k < 16 →
    let p := s.pmir k
    let x : PMirror := { p with arm := bitOf v 0, auto := bitOf v 13, primary := bitsOf v 12 1 }
    runs (.pmirArmWrite k v) s (fun t => onlyPairs s t ∧ ((p.st ≠ 2 ∨ bitOf v 0 = true) → t = { s with pairs := t.pairs }) ∧ (p.st = 2 → bitOf v 0 = false → mctlSent p.from_ mcCLOSE p.reel [1] s t) ∧ onlyPmir k (
      if bitOf v 0 then (if p.st = 0 then { x with st := 1 } else x)
      else if p.st = 0 ∨ p.st = 4 then x
      else if p.st = 1 then { x with st := 0 }
      else { x with st := 4, taking := false, sealed_ := none, due := none, frame := [] }) s t)) ∧
  (∀ (s : State) (pr r tg n pair : Nat) (lg : Bool),
    let slot := (List.range 16).find? (fun k => (s.pmir k).st == 1 && (s.pmir k).arm && (s.pmir k).primary == pr)
    let no := fun (k : Nat) => (s.pmir k).size < reserveNeed n ∨ pr = s.ownId ∨ ((lg = true ∨ s.pins.legacy = true) ∧ pair = s.pins.pair)
    (s.links.claimed = false → runs (.mctlOpen pr r tg n lg pair) s (fun t => t = s)) ∧
    (s.links.claimed = true →
      (slot = none → runs (.mctlOpen pr r tg n lg pair) s (fun t => t.pairs = s.pairs ∧ onlyPairs s t ∧ mctlSent pr mcREFUSED r [] s t)) ∧
      (∀ k, slot = some k → no k → runs (.mctlOpen pr r tg n lg pair) s (fun t => t.pairs = s.pairs ∧ onlyPairs s t ∧ mctlSent pr mcREFUSED r [] s t)) ∧
      (∀ k, slot = some k → ¬ no k → runs (.mctlOpen pr r tg n lg pair) s (fun t => onlyPairs s t ∧ mctlSent pr mcACCEPT r [] s t ∧
        onlyPmir k { s.pmir k with st := 2, from_ := pr, reel := r, tgrp := tg, image := n, step := 0, frame := [], sealed_ := none, sacked := false, taking := false, ans := none, due := none, stopping := false } s t)))) ∧
  (∀ (s : State) (pr r kind tag a n w : Nat) (data : List Byte),
    ((s.links.claimed = false ∨ ∀ k, slotOfReel s pr r = some k → (s.pmir k).taking = true) → ∀ i ∈ ([.mrec pr r kind tag a data, .mctlSeal pr r tag n w, .mctlCommit pr r tag n, .mctlDrop pr r tag, .mctlClose (.primary pr) r] : List Instr), runs i s (fun t => t = s)) ∧
    (∀ k, s.links.claimed = true → slotOfReel s pr r = some k → (s.pmir k).taking = false →
      let p := s.pmir k
      let rec_ : MRec := ⟨kind, tag, a, data⟩
      (p.sealed_ = none → p.due = none → runs (.mrec pr r kind tag a data) s (fun t => t = { s with pairs := t.pairs } ∧ onlyPmir k { p with frame := p.frame ++ [rec_] } s t)) ∧
      (∀ st c x, p.sealed_ = some (st, c, x) → p.sacked = false → p.due = none → c ≤ p.frame.length + 1 → runs (.mrec pr r kind tag a data) s (fun t => onlyPairs s t ∧
        onlyPmir k { p with frame := p.frame ++ [rec_], sacked := true } s t ∧ mctlSent p.from_ mcSACK p.reel [st] s t)) ∧
      (p.due = none → p.frame.length < n → runs (.mctlSeal pr r tag n w) s (fun t => t = { s with pairs := t.pairs } ∧ onlyPmir k { p with sealed_ := some (tag, n, w), sacked := false } s t)) ∧
      (p.due = none → n ≤ p.frame.length → runs (.mctlSeal pr r tag n w) s (fun t => onlyPairs s t ∧ onlyPmir k { p with sealed_ := some (tag, n, w), sacked := true } s t ∧ mctlSent p.from_ mcSACK p.reel [tag] s t)) ∧
      (p.sealed_ = none → p.frame.length < n → runs (.mctlCommit pr r tag n) s (fun t => t = { s with pairs := t.pairs } ∧ onlyPmir k { p with due := some (tag, n) } s t)) ∧
      (p.sealed_ = none → p.frame = [] → n = 0 → runs (.mctlCommit pr r tag n) s (fun t => onlyPairs s t ∧ onlyPmir k { p with step := tag, frame := [], sealed_ := none, sacked := false, due := none } s t ∧ mctlSent p.from_ mcCACK p.reel [tag] s t)) ∧
      (n ≤ p.frame.length → runs (.mctlCommit pr r tag n) s (fun t => (t.pmir k).step = tag ∧ (t.pmir k).frame = [] ∧ (t.pmir k).due = none ∧ (t.pmir k).st = 2 ∧ ∀ j, j ≠ k → t.pmir j = s.pmir j)) ∧
      runs (.mctlDrop pr r tag) s (fun t => onlyPairs s t ∧ onlyPmir k { p with frame := [], sealed_ := none, sacked := false, due := none } s t ∧ mctlSent pr mcCACK r [tag] s t) ∧
      runs (.mctlClose (.primary pr) r) s (fun t => t = { s with pairs := t.pairs } ∧ onlyPmir k { p with st := 4, frame := [], sealed_ := none, sacked := false, due := none } s t)) ∧
    runs (.mctlStopping pr) s (fun t => t = { s with pairs := t.pairs } ∧ t.pairs = { s.pairs with pmir := t.pairs.pmir } ∧
      ∀ k, t.pmir k = if k < 16 ∧ s.links.claimed = true ∧ (s.pmir k).st = 2 ∧ (s.pmir k).from_ = pr then { s.pmir k with stopping := true } else s.pmir k)) ∧
  (∀ (s : State) (k : Nat) (late : Bool),
    let p := s.pmir k
    let own := p.sealed_.bind (fun x => (s.group p.tgrp).recorded x.1)
    let held := fun (st : Status) (t : State) => onlyPmir k { p with st := 3, taking := false, sealed_ := none, sacked := false, due := none, frame := [] } s t ∧ sameBytes s t ∧
      eventPlaced st 0x07 0 0 0 0 (BitVec.ofNat 64 (p.from_ + p.reel * 2 ^ 12 + p.step * 2 ^ 16)) (BitVec.ofNat 64 k) s t
    (s.start.phase ≠ .safe → (p.st ≠ 2 ∨ p.taking = true) → runs (.take k) s (fun t => t = s)) ∧
    (s.start.phase ≠ .safe → p.st = 2 → p.taking = false → runs (.take k) s (fun t => onlyPairs s t ∧ onlyPmir k { p with taking := true, ans := own } s t ∧
      ((p.sealed_ = none ∨ own ≠ none ∨ (s.group p.tgrp).valid = false) → t = { s with pairs := t.pairs }))) ∧
    ((p.taking = false ∨ (p.sealed_ ≠ none ∧ p.ans = none ∧ late = false)) → runs (.partnerTakeover k late) s (fun t => t = s)) ∧
    (p.taking = true → (p.sealed_ = none ∨ p.ans = some true) → runs (.partnerTakeover k late) s (held 0)) ∧
    (∀ tag n w, p.taking = true → p.sealed_ = some (tag, n, w) →
      ((p.ans = none ∧ late = true) ∨ (p.ans = some false ∧ w ≠ 0) → runs (.partnerTakeover k late) s (held stMirrorBehind)) ∧
      (p.ans = some false → w = 0 → runs (.partnerTakeover k late) s (fun t => (t.pmir k).st = 3 ∧ (t.pmir k).step = tag ∧ (t.pmir k).frame = [] ∧ (t.pmir k).taking = false))) ∧
    (p.st ≠ 4 → runs (.mirrorClearComplete k) s (fun t => t = s)) ∧
    (p.st = 4 → runs (.mirrorClearComplete k) s (fun t => onlyPmir k { p with st := b2n p.arm, image := 0, step := 0, frame := [] } s t ∧
      bytesOutside (p.base * 0x10000) (ceilDiv (13 * p.image) 4 * 0x10000) s t ∧ t.tiles = s.tiles))) ∧
  (∀ (s : State), s.start.phase ≠ .safe →
    let begun := { s.pairs with expBusy := true, expRun := false, expStatus := 0, expWords := [] }
    let ended := fun (p : Pairs) (st : Status) (t : State) => t = { s with pairs := { p with expBusy := false, expRun := false, expPlaces := [], expStatus := st } }
    (s.pairs.expBusy = true → runs .exportGo s (fun t => t = s)) ∧
    (s.pairs.expBusy = false → s.xl.flush = true → runs .exportGo s (fun t => t = { s with pairs := begun })) ∧
    (s.pairs.expBusy = false → s.xl.flush = false → fwBytes s (s.pairs.expDesc.toNat % 2 ^ 52) 24 = none → runs .exportGo s (ended begun stXlateFault)) ∧
    (∀ bs, s.pairs.expBusy = false → s.xl.flush = false → fwBytes s (s.pairs.expDesc.toNat % 2 ^ 52) 24 = some bs →
      let w := wordsOf 3 bs
      let bad := expCount w = 0 ∨ 64 < expCount w
      (bad → runs .exportGo s (ended begun stFormMismatch)) ∧ (¬ bad → expBlocks s none w = none → runs .exportGo s (ended begun stXlateFault)) ∧
      (¬ bad → expBlocks s none w ≠ none → expBlocks s (some .r) w = none → runs .exportGo s (ended begun stPermFault)) ∧
      (¬ bad → expBlocks s none w ≠ none → expBlocks s (some .r) w ≠ none → runs .exportGo s (fun t => t = { s with pairs := { begun with
        expWords := w, expTag := if (s.commitWord (expGroup w)).v then (s.commitWord (expGroup w)).done else 0x10000 } }))) ∧
    (let g := expGroup s.pairs.expWords
     let c := s.commitWord g
     let ready := s.pairs.expBusy = true ∧ s.pairs.expRun = false ∧ s.xl.flush = false ∧ c.v = true ∧ c.res = false ∧ c.done ≠ s.pairs.expTag ∧ ∀ x ∈ s.bank.roll, ¬ (x.mark = 2 ∧ x.group = g ∧ x.step = c.done)
     (s.pairs.expBusy = true → s.pairs.expWords = [] → runs .exportStart s (fun t => t = exportRead s)) ∧
     ((s.pairs.expBusy = false ∨ s.pairs.expWords ≠ []) → ¬ ready → runs .exportStart s (fun t => t = s)) ∧
     (s.pairs.expWords ≠ [] → ready → runs .exportStart s (fun t => t = { s with pairs := { s.pairs with expRun := true, expTag := c.done, expPlaces := (expBlocks s none s.pairs.expWords).getD [] } }))) ∧
    ((s.pairs.expRun = false ∨ s.xl.flush = true) → ∀ e, runs (.exportComplete e) s (fun t => t = s)) ∧
    (s.pairs.expRun = true → s.xl.flush = false → (∀ e, (e ≠ .ok ∨ s.host.bme = false ∨ s.host.degraded = true) → runs (.exportComplete e) s (ended s.pairs stHostAbort)) ∧
      (s.host.bme = true → s.host.degraded = false → expBlocks s (some .r) s.pairs.expWords = none →
        runs (.exportComplete .ok) s (ended s.pairs (if expBlocks s none s.pairs.expWords = none then stXlateFault else stPermFault))) ∧
      (∀ bs, s.host.bme = true → s.host.degraded = false → expBlocks s (some .r) s.pairs.expWords = some bs → runs (.exportComplete .ok) s (fun t =>
        t = { s with host := { s.host with out := s.host.out ++ [.write (s.pairs.expWords.getD 2 0).toNat (exportBytes s s.pairs.expWords bs)] }, pairs := { s.pairs with expBusy := false, expRun := false, expPlaces := [], expStatus := 0 } })))) ∧
  (∀ (s : State) (v : W64) (p : Nat), s.start.phase ≠ .safe →
    let r : Repair := { s.rep with fwLimit := bitsOf v 47 32 }
    runs (.fwSwitchGo v) s (fun t => t = { s with rep := if bitOf v 0 = false ∨ s.rep.fwBusy = true then r else if s.rep.fwVerified = false then { r with fwStatus := stFwNotVerified } else { r with fwBusy := true, fwSwitching := false, fwStatus := 0 } }) ∧
    runs .fwSwitchPoint s (fun t => t = if s.rep.fwBusy && !s.rep.fwSwitching && switchPoint s then { s with rep := { s.rep with fwSwitching := true } } else s) ∧
    runs .fwSwitchTimeout s (fun t => t = if s.rep.fwBusy && !s.rep.fwSwitching && s.rep.fwLimit != 0 then { s with rep := { s.rep with fwBusy := false, fwSwitching := false, fwStatus := stFwSwitchTimeout } } else s) ∧
    (s.rep.fwSwitching = false → ∀ f, runs (.fwSelfCheckComplete f) s (fun t => t = s)) ∧
    (s.rep.fwSwitching = true →
      runsWake (.fwSelfCheckComplete (some p)) s (fun t => t = { s with rep := t.rep } ∧ t.rep.fwBusy = false ∧ t.rep.fwSwitching = false ∧ t.rep.fwStatus = stFwReverted ∧ t.rep.fwActive = s.rep.fwActive ∧
        hlogged 0x0D true stFwReverted (BitVec.ofNat 64 s.rep.fwActive) (BitVec.ofNat 64 p) s t) ∧
      runsWake (.fwSelfCheckComplete none) s (fun t => t.rep.fwBusy = false ∧ (s.rep.dirStandby ≠ [] → t.rep.dirActive = s.rep.dirStandby ∧ t.rep.dirStandby = s.rep.dirActive) ∧ t.rep.fwSwitching = false ∧ t.rep.fwStatus = 0 ∧ t.rep.fwActive = 1 - s.rep.fwActive ∧
        hlogged 0x0C true 0 (BitVec.ofNat 64 (1 - s.rep.fwActive)) (imgWord (imgSlot s (1 - s.rep.fwActive)) 1) s t ∧ (s.windowOpen = true → t.start.slot = 1 - s.rep.fwActive ∧ t.rep.fwJpend = false))))

/-- While the always-on island is up a Gaffer period forms the estimate of the counted events and of the static power, advances the model's temperatures by it
and takes the sensors' readings; the governing temperature is the highest of the model's nodes and the sensors that are not suspect; the warning, throttle and
shutdown thresholds set and clear by it; due caps and a written Foley enable act; the point chosen is at most one above the point in force when no cue is
admitted and no urgent cap applies. THROTTLE_STEP lowers the throttle point to the floor, no further, and never raises it. k follows the measured power over the
mean estimate between 4/5 and 6/5. VARR complete sets the point in force. The third missing acknowledgement sets AVSF, and an acknowledged transaction clears
it. A mismatch restarts the Gaffer cores and is counted and recorded, and the second within 1 s starts the orderly stop. A sensor that has differed for 1 ms
becomes suspect once, with its event, and one that has agreed for 1 s is trusted again. A cap is written and waits; PWR_LIMIT_N is latched. A tile that waits
enters Foley when it is enabled. VALID holds only for a set of finite words above zero. -/
def Obligations.GafferAndPower : Prop :=
  (∀ (s : State) (o : GafferIn),
    (s.islandUp = false → runs (.gafferPeriod o) s (fun t => t = s)) ∧
    (s.islandUp = true → runs (.gafferPeriod o) s (fun t =>
      t.pow.dyn = sumN ((nodesOf s).map (dynOf o.counts)) ∧ t.pow.stat = sumN ((nodesOf s).map (statOf s)) ∧ t.pow.kSum = s.pow.kSum + t.pow.dyn + t.pow.stat ∧ t.pow.kCount = s.pow.kCount + 1 ∧
      t.pow.temps = (nodesOf s).map (nodeStep o.counts s) ∧ t.pow.sensors = o.sensors ∧
      (∀ x ∈ t.pow.temps, x / 2 ^ 30 ≤ t.pow.tg) ∧ (∀ (i : Nat) (x : Int), i ∉ s.pow.suspect → o.sensors[i]? = some x → x ≤ t.pow.tg) ∧
      ((∃ x ∈ t.pow.temps, t.pow.tg = x / 2 ^ 30) ∨ ∃ i : Nat, i ∉ s.pow.suspect ∧ o.sensors[i]? = some t.pow.tg) ∧
      (380 ≤ t.pow.tg → t.pow.warn = true) ∧ (t.pow.tg < 360 → t.pow.warn = false) ∧ (360 ≤ t.pow.tg → t.pow.tg < 380 → t.pow.warn = s.pow.warn) ∧
      (420 ≤ t.pow.tg → t.pow.thr = true) ∧ (t.pow.tg < 400 → t.pow.thr = false) ∧ (400 ≤ t.pow.tg → t.pow.tg < 420 → t.pow.thr = s.pow.thr) ∧
      (460 ≤ t.pow.tg → t.pow.shut = true ∧ t.pow.shutThr = true) ∧ (t.pow.tg < 460 → t.pow.shut = s.pow.shut) ∧ (t.pow.tg < 440 → t.pow.shutThr = false) ∧
      (440 ≤ t.pow.tg → t.pow.tg < 460 → t.pow.shutThr = s.pow.shutThr) ∧ t.pow.foleyEn = s.pow.foleyEnDue.getD s.pow.foleyEn ∧ t.pow.foleyEnDue = none ∧ t.pow.urgentLatch = false ∧
      t.pow.urgent = (s.pins.plim || s.pow.urgentLatch) ∧ t.pow.op = s.pow.op ∧ sameBytes s t ∧
      (s.cues = [] → (s.pow.capDue = true → t.pow.effCap = s.pow.cap ∧ t.pow.capDue = false) ∧ (t.pow.urgent = false → t.pow.target ≤ s.pow.op + 1) ∧ counted s t)))) ∧
  (∀ (s : State),
    (let floor := if s.admitted = [] then 0 else s.heldFloor
     runs .throttleStep s (fun t => t = if s.pow.thr = true ∧ 420 ≤ s.pow.tg then { s with pow := { s.pow with thrPoint := if floor < s.pow.thrPoint then s.pow.thrPoint - 1 else s.pow.thrPoint } } else s)) ∧
    (s.pow.req = none → runs .varrRequestComplete s (fun t => t = s)) ∧
    (∀ mv, s.pow.req = some mv → s.cues = [] → runs .varrRequestComplete s (fun t => counted s t ∧
      t = { s with pow := { s.pow with req := none, avsNak := 0, op := mvPoint mv, comp := mv == pointMv (mvPoint mv) + 20 }, obs := t.obs, reels := t.reels })) ∧
    (let n := s.pow.avsNak + 1
     let lost : State := { s with pow := { s.pow with avsNak := n } }
     ((n < 3 ∨ s.pow.avsf = true) → runs .avsNoAcknowledge s (fun t => t = lost)) ∧
     (3 ≤ n → s.pow.avsf = false → s.cues = [] → runs .avsNoAcknowledge s (fun t => t.pow = { s.pow with avsNak := n, avsf := true, req := none, avsHit := false } ∧
       eventPlaced stAvsFault 0x0A 0 0 0 0 2 0 s t ∧ onlyHost { s with pow := t.pow } t)) ∧
     (s.pow.avsf = false → ∀ a, runs (.avsRetry a) s (fun t => t = s)) ∧
     (s.pow.avsf = true → runs (.avsRetry true) s (fun t => t = { s with pow := { s.pow with avsf := false, avsNak := 0 } }) ∧ runs (.avsRetry false) s (fun t => t = lost)))) ∧
  (∀ (s : State) (ma mv : Nat), runs (.kCorrection ma mv) s (fun t =>
    t = { s with pow := { s.pow with kNum := t.pow.kNum, kDen := t.pow.kDen, railMw := none, kSum := 0, kCount := 0, avsf := false, avsNak := 0 } } ∧
    ((s.pow.railMw = none ∨ s.pow.kSum = 0) → t.pow.kNum = s.pow.kNum ∧ t.pow.kDen = s.pow.kDen) ∧
    (∀ r, s.pow.railMw = some r → s.pow.kSum ≠ 0 → let p := (ma * mv + r * 1000) * s.pow.kCount
      t.pow.kDen ≠ 0 ∧ 4 * t.pow.kDen ≤ 5 * t.pow.kNum ∧ 5 * t.pow.kNum ≤ 6 * t.pow.kDen ∧ (4 * s.pow.kSum ≤ 5 * p → 5 * p ≤ 6 * s.pow.kSum → t.pow.kNum * s.pow.kSum = p * t.pow.kDen) ∧
      (5 * p < 4 * s.pow.kSum → 5 * t.pow.kNum = 4 * t.pow.kDen) ∧ (6 * s.pow.kSum < 5 * p → 5 * t.pow.kNum = 6 * t.pow.kDen)))) ∧
  (∀ (s : State) (r0 r1 : W32),
    (s.islandUp = false → runs (.gafMismatch r0 r1) s (fun t => t = s)) ∧
    (s.islandUp = true → runs (.gafMismatch r0 r1) s (fun t => t.pow.mismatches = s.pow.mismatches + 1 ∧ t.pow.lastMismatch = some s.time.ref ∧ (s.cues = [] → t = { s with pow := t.pow, rep := t.rep, cores := t.cores }) ∧
      (t.pow.shut = true ↔ s.pow.shut = true ∨ ∃ k, s.pow.lastMismatch = some k ∧ s.time.ref ≤ k + 1000000000) ∧
      (mfind s.sec.secDig 4 = none → t.core 4 0 = {}) ∧ (∀ k, k ≠ 64 → mget {} t.cores k = mget {} s.cores k) ∧
      hlogged 0x0B false 0 (BitVec.ofNat 64 (s.pow.mismatches + 1)) (BitVec.ofNat 64 (r0.toNat + r1.toNat * 2 ^ 32)) s t))) ∧
  (∀ (s : State) (i : Nat),
    let n := match s.build with
      | .t => 80
      | .s => 32
    ((n ≤ i ∨ i ∈ s.pow.suspect ∨ s.pow.senseOff.getD i 0 < 500) → runs (.sensorSuspect i) s (fun t => t = s)) ∧
    (i < n → i ∉ s.pow.suspect → 500 ≤ s.pow.senseOff.getD i 0 → runs (.sensorSuspect i) s (fun t => t.pow = { s.pow with suspect := s.pow.suspect ++ [i] } ∧ eventPlaced 0 0x0A 0 0 0 0 4 (BitVec.ofNat 64 i) s t)) ∧
    runs (.sensorTrusted i) s (fun t => t = { s with pow := { s.pow with suspect := if s.pow.senseOn.getD i 0 < 500000 then s.pow.suspect else s.pow.suspect.filter (fun j => j != i) } }) ∧
    (let T := s.tile i
     let may := s.pow.foleyEn = true ∧ T.foley = false ∧ waitsForFoley T = true
     (¬ may → runs (.foleyEnter i) s (fun t => t = s)) ∧ (may → runs (.foleyEnter i) s (fun t => onlyTileCounted i s t ∧ t.tile i = { T with foley := true })))) ∧
  (∀ (s : State) (v : W64) (b : Bool),
    (s.start.phase ≠ .safe → runs (.hostCapWrite v) s (fun t => t = { s with pow := { s.pow with cap := bitsOf v 15 0, urgentCap := bitsOf v 31 16, capDue := true } }) ∧
      runs (.tcoefValid b) s (fun t => t = { s with pow := { s.pow with tcoefValid := b && (List.range (if s.build = .t then 576 else 240)).all (fun k => coefOk (mget 0 s.pow.tcoef k)) } })) ∧
    runs .pwrLimitAssert s (fun t => t = { s with pins := { s.pins with plim := true, plimSeen := true }, pow := { s.pow with urgentLatch := true } }) ∧
    runs .pwrLimitRelease s (fun t => t = { s with pins := { s.pins with plim := false } }))

/-- Power-on samples the straps and begins a cold take at S0 with the next number, or holds on TRIP_N. A stage that may not end yet changes nothing; a pass goes
on to the next stage, and S11 puts the device in service with FAULT_N and ALERT released; a failed S0 holds, another failure waits for the next cold take or
enters SAFE, in A mode always. A failed take is retried, SAFE is left by TAKE, both by a cold take at S0. A cold reset clears all but MRAM, fuses and pins, a
warm one from service keeps near memory and begins at S3; neither starts a device that may not start. The loss of a rail or of REFCLK leaves the device
off or held. The stop's last step, a trip and a power-off take VARR to 0 with every domain off and the device held; a trip needs the strap, and the
device starts again once it has cooled and the net is released. CLRSEL and the plan are written inside the writing window, and wait outside it. -/
def Obligations.TakesAndTrips : Prop :=
  (∀ (s : State) (b p : Nat) (lg tr : Bool),
    (s.start.phase ≠ .off → runs (.alwaysOnStart b p lg tr) s (fun t => t = s)) ∧
    (s.start.phase = .off → runs (.alwaysOnStart b p lg tr) s (fun t => t.pins.bpos = b % 8 ∧ t.pins.pair = p % 16 ∧ t.pins.legacy = lg ∧ t.pins.tripIn = tr ∧ t.start.faultN = true ∧ t.start.alert = true ∧
      t.time.tmb = 0 ∧ t.tiles = [] ∧ t.reels = [] ∧ t.sec.lc = s.sec.lc ∧ t.sec.chain = s.sec.chain ∧ t.rep.hlog = s.rep.hlog ∧ t.start.cause = 6 ∧ t.pins.clkreq = true ∧
      (lg = true → tr = true → t.start.phase = .tripHold) ∧
      ((lg = false ∨ tr = false) → t.start.phase = .take ∧ t.start.stage = 0 ∧ t.start.warm = false ∧ t.start.takeNo = (s.start.takes + 1) % 2 ^ 32)))) ∧
  (∀ (s : State) (st : Status) (x : StageFound),
    let n := s.start.stage
    let left := stillFail x.failing s (spareTiles x.failing s)
    (stageMay s = false → runs (.stageEnd st x) s (fun t => t = s) ∧ runs .stageTimeout s (fun t => t = s)) ∧
    (stageMay s = true →
      (n < 11 → n ≠ 7 → (n = 3 → s.sec.lc ≠ 4) → (n = 9 → left = [] ∨ stagePath s 9 = 1) → runs (.stageEnd 0 x) s (fun t => t.start.phase = .take ∧ t.start.stage = n + 1 ∧ t.start.takeNo = s.start.takeNo ∧ t.start.warm = s.start.warm)) ∧
      (n = 9 → left ≠ [] → stagePath s 9 ≠ 1 → runs (.stageEnd 0 x) s (fun t => t.start.jstatus = stRepairExhausted ∧ (t.start.phase = .safe ∨ t.start.phase = .failed))) ∧
      (n = 11 → runs (.stageEnd 0 x) s (fun t => t.start.phase = .run ∧ t.start.faultN = false ∧ t.start.alert = false ∧ t.start.rstBusy = false)) ∧
      (∀ i st', (i, st') ∈ ([(.stageEnd st x, st), (.stageTimeout, stStageTimeout)] : List (Instr × Status)) → st' ≠ 0 →
        (n = 0 → runs i s (fun t => t.start.phase = .down ∧ t.start.jstatus = st' ∧ t.start.staged = [] ∧ t.start.faultN = true ∧ t.start.ring = s.start.ring)) ∧
        (n ≠ 0 → s.aMode 8 = true → runs i s (fun t => t.start.phase = .safe ∧ t.start.jstatus = st' ∧ t.start.faultN = true ∧ t.start.alert = true ∧ (t.dom 89).st = 2 ∧ (∀ k, k ≠ 89 → (t.dom k).st = 0) ∧ t.tiles = [])) ∧
        (n = 8 → s.aMode 8 = false → runs i s (fun t => t.start.phase = .failed ∧ t.start.jstatus = st' ∧ t.start.stage = 8)) ∧
        (n ≠ 0 → runs i s (fun t => t.start.jstatus = st' ∧ (t.start.phase = .safe ∨ t.start.phase = .failed)))))) ∧
  (∀ (s : State),
    let begun := fun (safe : Bool) (t : State) => t.start.phase = .take ∧ t.start.stage = 0 ∧ t.start.warm = false ∧ t.start.fromSafe = safe ∧ t.start.faultN = true ∧ t.tiles = [] ∧ t.reels = [] ∧ t.sec.lc = s.sec.lc ∧ ∀ k, (t.dom k).st = 0
    (¬ (s.start.phase = .failed ∧ startAllowed s = true) → runs .takeRetry s (fun t => t = s)) ∧ (s.start.phase = .failed → startAllowed s = true → runs .takeRetry s (begun s.start.fromSafe)) ∧
    (¬ (s.start.phase = .safe ∧ startAllowed s = true) → runs .jnlTake s (fun t => t = s)) ∧ (s.start.phase = .safe → startAllowed s = true → runs .jnlTake s (begun true)) ∧
    (∀ i k, (i, k) ∈ ([(.resetCold, 5), (.resetWarm, 4)] : List (Instr × Nat)) →
      (s.start.phase = .safe → runs i s (fun t => t = s)) ∧
      (s.start.phase ≠ .safe → s.start.rstBusy = true → runs i s (fun t => t = { s with start := { s.start with rstKind := k } })) ∧
      (s.start.phase ≠ .safe → s.start.rstBusy = false → startAllowed s = false → runs i s (fun t =>
        t = { s with start := { s.start with rstKind := k, runKind := k, runTarget := s.start.rstTarget, rstStatus := 0 } }))) ∧
    (s.start.phase ≠ .safe → s.start.rstBusy = false → startAllowed s = true → (s.pins.legacy = false ∨ s.pins.tripIn = false) →
      runs .resetCold s (fun t => begun false t ∧ t.time.tmb = 0 ∧ t.pins.legacy = s.pins.legacy ∧ t.start.cause = 5)) ∧
    (s.start.phase = .run → s.start.rstBusy = false → startAllowed s = true →
      (runs .resetWarm s (fun t => t.start.phase = .take ∧ t.start.stage = 3 ∧ t.start.warm = true ∧ t.start.rstKind = 4 ∧ t.start.rstBusy = true ∧ t.tiles = [] ∧ t.reels = [] ∧ t.time.tmb = s.time.tmb ∧
        (∀ k, (k < 64 ∨ 69 ≤ k) → (t.dom k).st = 0) ∧ (∀ k, 64 ≤ k → k < 69 → (t.dom k).st = (s.dom k).st) ∧ (s.cache.quarters = 0 → ∀ a, winOf a = .near → t.byte a = s.byte a))) ∧
      (s.start.perst = false → runs .perstAssert s (fun t => t.start.perst = true ∧ t.start.phase = .take ∧ t.start.stage = 3 ∧ t.start.warm = true ∧ t.tiles = []))) ∧
    (s.start.perst = true → runs .perstAssert s (fun t => t = s)) ∧
    runs .perstDeassert s (fun t => t = { s with start := { s.start with perst := false }, pins := { s.pins with jtagMode := 0 } }) ∧
    runs .railsInRange s (fun t => t = if s.islandUp then { s with start := { s.start with railsOk := true } } else s)) ∧
  (∀ (s : State) (rail : Nat),
    let gone := fun (p : Phase) (t : State) => t.start.phase = p ∧ t.start.faultN = true ∧ t.start.alert = true ∧ t.tiles = [] ∧ t.reels = [] ∧ t.sec.lc = s.sec.lc ∧ (∀ k, (t.dom k).st = 0)
    ((s.start.phase = .off ∨ (s.start.railsOk = false ∧ rail ≠ 6 ∧ rail ≠ 8)) → runs (.railOutOfRange rail) s (fun t => t = s)) ∧
    (s.start.phase ≠ .off → (s.start.railsOk = true ∨ rail = 6 ∨ rail = 8) → runs (.railOutOfRange rail) s (fun t => gone .off t ∧ t.pins.clkreq = (rail != 6 && s.pins.clkreq))) ∧
    ((s.start.phase = .off ∨ s.start.phase = .clockHold) → runs .refclkLoss s (fun t => t = s)) ∧
    (s.start.phase ≠ .off → s.start.phase ≠ .clockHold → runs .refclkLoss s (gone .clockHold)) ∧
    (s.start.phase ≠ .clockHold → runs .refclkReturn s (fun t => t = s)) ∧
    (s.start.phase = .clockHold → (s.pins.legacy = false ∨ s.pins.tripIn = false) → runs .refclkReturn s (fun t => t.start.phase = .take ∧ t.start.stage = 0 ∧ t.start.cause = 5 ∧ t.tiles = []))) ∧
  (∀ (s : State) (raw : Int) (n : Nat) (b : Bool),
    let held := fun (t : State) => t.start.phase = .down ∧ t.start.stage = 11 ∧ t.start.faultN = true ∧ t.start.alert = true ∧ t.pow.varrMv = 0 ∧ Out.avs 0 ∈ t.host.out ∧ t.tiles = [] ∧ t.reels = [] ∧ ∀ k, (t.dom k).st = 0
    ((s.pow.shut = false ∨ s.started = false) → runs (.orderlyStopFinal b) s (fun t => t = s)) ∧
    (s.pow.shut = true → s.started = true → runs (.orderlyStopFinal b) s held) ∧
    ((s.sec.offPend = false ∨ s.admitted ≠ [] ∨ s.started = false) → runs .offEnter s (fun t => t = s)) ∧
    (s.sec.offPend = true → s.admitted = [] → s.started = true → runs .offEnter s held) ∧
    ((s.pins.legacy = false ∨ raw < 480) → runs (.legacyTrip n raw) s (fun t => t = s)) ∧
    (s.pins.legacy = false → runs .tripNAsserted s (fun t => t = { s with pins := { s.pins with tripIn := true } })) ∧
    (s.pins.legacy = true →
      (480 ≤ raw → (s.started = true ∨ s.start.phase = .tripHold) → runs (.legacyTrip n raw) s (fun t => held t ∧ t.pow.tripped = true ∧ t.pow.tripDrive = true ∧ t.pow.shut = false ∧ t.pins.tripIn = true)) ∧
      (s.started = true → runs .tripNAsserted s (fun t => held t ∧ t.pow.tripped = true ∧ t.pow.tripDrive = s.pow.tripDrive ∧ t.pow.shut = false ∧ t.pins.tripIn = true))) ∧
    runs .tripRelease s (fun t => t = if s.pow.tripped then { s with pow := { s.pow with tripDrive := false, tripCool := true } } else s) ∧
    (let ready := s.pow.tripped = true ∧ s.pow.tripCool = true ∧ s.pow.tripDrive = false ∧ s.islandUp = true
     (¬ ready → runs .tripRestart s (fun t => t = { s with pins := { s.pins with tripIn := false } })) ∧
     (ready → runs .tripRestart s (fun t => t.start.phase = .take ∧ t.start.stage = 0 ∧ t.start.cause = 7 ∧ t.pow.tripped = false ∧ t.pins.tripIn = false ∧ t.tiles = []))) ∧
    (s.start.phase ≠ .tripHold → runs .tripNHigh10s s (fun t => t = { s with pins := { s.pins with tripIn := false } })) ∧
    (s.start.phase = .tripHold → runs .tripNHigh10s s (fun t => t.start.phase = .take ∧ t.start.stage = 0 ∧ t.pins.tripIn = false))) ∧
  (∀ (s : State) (off : Nat) (v : W64),
    (off ≠ 0x40 → off ≠ 0x48 → runs (.journalPlanWrite off v) s (fun t => t = s)) ∧
    (s.windowOpen = true → runs .clrsel s (fun t => t = { s with start := { s.start with sel := [], counts := [] } }) ∧
      (∀ b ∈ [0, 8], runs (.journalPlanWrite (0x40 + b) v) s (fun t => t = { s with start := { s.start with plan := t.start.plan, planv := planOk t.start.plan } } ∧
        (∀ k, k < 8 → mget 0 t.start.plan (b + k) = if b = 8 ∧ 4 ≤ k then 0 else (v >>> (8 * k)).setWidth 8) ∧ ∀ k, (k < b ∨ b + 8 ≤ k) → mget 0 t.start.plan k = mget 0 s.start.plan k))) ∧
    (s.windowOpen = false → WinWrite.clrsel ∉ s.pow.winQ → runs .clrsel s (fun t => t.pow = { s.pow with winQ := s.pow.winQ ++ [.clrsel], winLater := s.pow.winLater.filter (fun x => x != .clrsel) } ∧ t.start = s.start ∧ eventPlaced stWindowWait 0x0A 0 0 0 0 6 0 s t)) ∧
    (s.windowOpen = false → ∀ b ∈ [0, 8], runs (.journalPlanWrite (0x40 + b) v) s (fun t => t.start = s.start ∧ eventPlaced stWindowWait 0x0A 0 0 0 0 6 0 s t ∧
      t.pow = { s.pow with winQ := s.pow.winQ ++ [.plan b (if b = 8 then BitVec.ofNat 64 (bitsOf v 31 0) else v)] })))

/-- While BUSY every lifecycle request is ignored; one that Table 15.2 does not list, or that meets a pending NEXT, ends with LC_DENIED; a transition whose
authorisation holds is fused inside the writing window, and outside it waits with WINDOW_WAIT. A token passes only with the device's tag, the lifecycle code in
force, the nonce and a valid signature. COMMIT raises MIN, an image is copied to the inactive slot, and VERIFIED holds only for one that passes. In SAFE the
debug writes change nothing. CHAL gives a nonce; OPEN waits for its check, which uses the nonce up and denies what Table 15.11 does not permit; D3 and D4 end
every session and key. HALT, RESUME, STEP and the thread window act on the thread selected, only while D3 is in force. A session's end clears LEVEL, the debug
halts and the enables. D3hot holds the CUEs; Retention begins once no cue is admitted, suspends D2 and D3 and ends D4; D0 resumes. What a resumed
thread or a session's end lets go on follows. -/
def Obligations.SecurityAndDebug : Prop :=
  (∀ (s : State) (secret : BitVec 256),
    let ops : List (Nat × Instr) := [(0, .lcProvision secret), (1, .lcClaim), (2, .lcTransfer), (3, .lcReturn), (4, .lcVoid)]
    let ended := fun (op : Nat) (t : State) => t = { s with sec := { s.sec with lcOp := op, lcBusy := false, lcStatus := stLcDenied } }
    (s.sec.lcBusy = true → ∀ o ∈ ops ++ [(5, .lcCertify)], runs o.2 s (fun t => t = { s with sec := { s.sec with lcOp := o.1 } })) ∧
    (s.sec.lcBusy = false →
      (∀ o ∈ ops, (lcListed s.sec.lc o.1 = none ∨ s.sec.next ≠ 7) → runs o.2 s (ended o.1)) ∧
      (∀ o ∈ ops, ∀ who, lcListed s.sec.lc o.1 = some who → s.sec.next = 7 → ¬ (o.1 = 2 ∧ s.sec.slot = 7) → (who = Signer.none ∨ tokenCheck s 2 o.1 true stLcDenied who = stOk) →
        (s.windowOpen = true → runs o.2 s (fun t => t.sec.lcOp = o.1 ∧ t.sec.lcBusy = false ∧ t.sec.lcStatus = 0 ∧ t = { s with sec := t.sec } ∧
          t.sec.next = (if o.1 = 0 then 1 else if o.1 ≤ 2 then 2 else o.1) ∧ t.sec.lc = s.sec.lc ∧ t.sec.slot = s.sec.slot ∧
          t.sec.uds = (if o.1 = 0 then secret else s.sec.uds) ∧ (o.1 = 0 → t.sec.pk = Config.identityKey secret ∧ t.sec.idTag = tagOf t.sec.pk) ∧
          (o.1 = 1 → mget [] t.sec.ownerDig 0 = tokBytes s 128 64 ∧ t.sec.nextSlot = 0) ∧ (o.1 = 2 → mget [] t.sec.ownerDig (s.sec.slot + 1) = tokBytes s 128 64 ∧ t.sec.nextSlot = s.sec.slot + 1))) ∧
        (s.windowOpen = false → runs o.2 s (fun t => t.sec = { s.sec with lcOp := o.1, lcBusy := true, lcStatus := stWindowWait } ∧ t.pow.winQ = s.pow.winQ ++ [.lc o.1 (tokBytes s 128 64) (if o.1 = 0 then secret else 0)] ∧
          eventPlaced stWindowWait 0x0A 0 0 0 0 6 0 s t))) ∧
      (let chain := (List.range 65472).map (fun k => mget 0 s.sec.certWin k)
       let may := ((s.sec.lc = 0 ∧ s.sec.next = 1) ∨ (s.sec.lc = 1 ∧ s.sec.next = 7)) ∧ s.sec.chain = [] ∧ Config.chainFor chain s.sec.pk = true
       (¬ may → runs .lcCertify s (ended 5)) ∧
       (may → s.windowOpen = true → runs .lcCertify s (fun t => t = { s with sec := { s.sec with lcOp := 5, lcStatus := 0, chain := chain } })) ∧
       (may → s.windowOpen = false → runs .lcCertify s (fun t => t.sec = { s.sec with lcOp := 5, lcBusy := true, lcStatus := stWindowWait } ∧ t.pow.winQ = s.pow.winQ ++ [.certify chain] ∧
         eventPlaced stWindowWait 0x0A 0 0 0 0 6 0 s t))))) ∧
  (∀ (s : State) (kind sel : Nat) (avail : Bool) (deny : Status) (who : Signer), deny ≠ 0 → tokenCheck s kind sel avail deny who = stOk →
    avail = true ∧ tokWord s 1 = s.tag ∧ bitsOf (tokWord s 0) 3 0 = kind ∧ bitsOf (tokWord s 0) 13 11 = s.sec.lc ∧ s.sec.nonceOk = true ∧ leNat (tokBytes s 16 32) = s.sec.nonce.toNat ∧
    (bitOf (tokWord s 0) 14 = true ↔ who = .owner) ∧ (tokWord s 6 = 0 ∨ s.time.tmb.toNat < (tokWord s 6).toNat) ∧ Config.slhVerify (tokBytes s 64 64) (tokBytes s 0 192) (tokBytes s 192 29792) = true) ∧
  (∀ (s : State),
    let v := imgSvn (imgSlot s s.rep.fwActive)
    (v ≤ s.sec.minSvn → runs .svnCommit s (fun t => t = s)) ∧
    (s.sec.minSvn < v → s.windowOpen = true → runs .svnCommit s (fun t => t = { s with sec := { s.sec with minSvn := v } })) ∧
    (s.sec.minSvn < v → s.windowOpen = false → runs .svnCommit s (fun t => t.sec = s.sec ∧ t.pow.winQ = s.pow.winQ ++ [.svn v] ∧ eventPlaced stWindowWait 0x0A 0 0 0 0 6 0 s t)) ∧
    ((s.sec.imgBusy = true ∨ s.sec.imgWait = true) → runs .imgGo s (fun t => t = s)) ∧
    (s.sec.imgBusy = false → s.sec.imgWait = false →
      runs .imgGo s (fun t => t = if s.rep.fwBusy then { s with sec := { s.sec with imgWait := true } } else
        { s with sec := { s.sec with imgBusy := true, imgWait := false, imgStatus := 0 }, rep := { s.rep with fwVerified := false } })) ∧
    (s.sec.imgBusy = false → runs .imageVerifyComplete s (fun t => t = s)) ∧
    (s.sec.imgBusy = true → runs .imageVerifyComplete s (fun t => t = { s with sec := t.sec, rep := { s.rep with fwVerified := t.sec.imgStatus == 0 } } ∧
      t.sec = { s.sec with imgBusy := false, imgStatus := t.sec.imgStatus, imgA := t.sec.imgA, imgB := t.sec.imgB } ∧ imgSlot t s.rep.fwActive = imgSlot s s.rep.fwActive ∧
      (t.sec.imgStatus = 0 → let img := if s.rep.fwActive = 0 then t.sec.imgB else t.sec.imgA
        s.sec.minSvn ≤ imgSvn img ∧ digest64 (imgBytes img 24 64) = mget [] s.sec.imageDig (bitsOf (imgWord img 0) 23 22) ∧ digest64 (imgBytes img 30304 (imgBodyLen img)) = imgBytes img 88 64 ∧
        Config.slhVerify (imgBytes img 24 64) (imgBytes img 0 512) (imgBytes img 512 29792) = true)))) ∧
  (∀ (s : State) (nonce : BitVec 256) (req : BitVec 3) (tile th off : Nat) (v : W64),
    (s.start.phase = .safe → ∀ i ∈ ([.chal nonce, .dbgOpen req, .dbgHalt tile th, .dbgStep tile th, .dbgResume tile th, .dbgClose, .threadWindowWrite off v] : List Instr), runs i s (fun t => t = s)) ∧
    (s.start.phase ≠ .safe →
      runs (.chal nonce) s (fun t => t = if s.sec.dbgBusy then s else { s with sec := { s.sec with nonce := nonce, nonceOk := true } }) ∧
      (s.sec.dbgBusy = true → runs (.dbgOpen req) s (fun t => t = { s with sec := { s.sec with req := req.toNat } })) ∧
      (s.sec.dbgBusy = false → runs (.dbgOpen req) s (fun t => t = if s.sec.level = 0 then { s with sec := { s.sec with req := req.toNat, openReq := req.toNat, dbgBusy := true, dbgStatus := 0 } } else
        { s with sec := { s.sec with req := req.toNat, dbgStatus := stDebugDenied, nonceOk := false } })))) ∧
  (∀ (s : State),
    let waits := s.sec.dbgBusy = false ∨ s.sec.d3hot = true ∨ (3 ≤ s.sec.openReq ∧ (s.admitted ≠ [] ∨ s.rep.fwBusy = true))
    let need := openNeeds s.sec.lc s.sec.openReq
    let ended := fun (st : Status) (t : State) => t = { s with sec := { s.sec with dbgBusy := false, dbgStatus := st, nonceOk := false } }
    (waits → runs .debugOpenCheck s (fun t => t = s)) ∧
    (¬ waits → need = none → runs .debugOpenCheck s (ended stDebugDenied)) ∧
    (¬ waits → ∀ who, need = some who → who ≠ .none → tokenCheck s 1 s.sec.openReq true stDebugDenied who ≠ 0 → runs .debugOpenCheck s (ended (tokenCheck s 1 s.sec.openReq true stDebugDenied who))) ∧
    (¬ waits → ∀ who, need = some who → (who = .none ∨ tokenCheck s 1 s.sec.openReq true stDebugDenied who = 0) → runs .debugOpenCheck s (fun t => t = { s with sec := t.sec } ∧ t.sec.level = s.sec.openReq ∧ t.sec.dbgBusy = false ∧ t.sec.dbgStatus = 0 ∧
      t.sec.nonceOk = false ∧ t.sec.susp = false ∧ t.sec.expiry = (if who = .none then 0 else tokWord s 6) ∧ t.sec.maxdbg = Nat.max s.sec.maxdbg s.sec.openReq ∧ (t.sec.debugged = true ↔ s.sec.debugged = true ∨ 3 ≤ s.sec.openReq) ∧
      (3 ≤ s.sec.openReq → t.sec.sessions = [] ∧ t.sec.opening = [] ∧ t.sec.ide = []) ∧ (s.sec.openReq < 3 → t.sec.sessions = s.sec.sessions ∧ t.sec.ide = s.sec.ide)))) ∧
  (∀ (s : State) (tile th : Nat), s.start.phase ≠ .safe → tile < 256 → th < 32 →
    (s.dbgThreads = false → ∀ i ∈ ([.dbgHalt tile th, .dbgStep tile th, .dbgResume tile th] : List Instr), runs i s (fun t => t = s)) ∧
    (s.dbgThreads = true →
      let r : TRef := ⟨tile, th⟩
      let sel : State := { s with sec := { s.sec with thrTile := tile, thrTh := th } }
      let now := fun (x : Thread) (t : State) => onlyTile tile sel t ∧ t.thread r = x ∧ (∀ k, k ≠ r → t.thread k = s.thread k) ∧ t.tile tile = { s.tile tile with threads := (t.tile tile).threads }
      runs (.dbgHalt tile th) s (now (if (s.thread r).live then { s.thread r with dbgHalt := true } else s.thread r)) ∧
      runsWake (.dbgResume tile th) s (now (if (s.thread r).live && !(s.thread r).halted then { s.thread r with dbgHalt := false } else s.thread r)) ∧
      (tstate sel ≠ 1 → runs (.dbgStep tile th) s (fun t => t = sel)) ∧
      (tstate sel = 1 → 4 ≤ (s.thread r).fetched.length → ∀ i x, nextInstr r (s.thread r) = some (some i, x) → runs (.dbgStep tile th) s (fun t =>
        let u := reissue i (sel.modThread r (fun k => { k with dbgHalt := false }))
        t = if (u.thread r).live then u.modThread r (fun k => { k with dbgHalt := true }) else u)))) ∧
  (∀ (s : State) (off : Nat) (v : W64), s.start.phase ≠ .safe → off % 8 = 0 →
    let r : TRef := ⟨s.sec.thrTile, s.sec.thrTh⟩
    let th := s.thread r
    let now := fun (x : Thread) (t : State) => onlyTile r.tile s t ∧ t.thread r = x ∧ ∀ k, k ≠ r → t.thread k = s.thread k
    ((s.dbgThreads = false ∨ tstate s ≠ 1) → runs (.threadWindowWrite off v) s (fun t => t = s)) ∧
    (s.dbgThreads = true → tstate s = 1 →
      (off < 0x100 → runs (.threadWindowWrite off v) s (now (th.setS (off / 8) v))) ∧
      (0x100 ≤ off → off < 0x180 → runs (.threadWindowWrite off v) s (fun t => ∃ x, now (th.setM ((off - 0x100) / 16) x) t ∧ getWord64 x (off % 16) = v ∧ getWord64 x (8 - off % 16) = getWord64 (th.mreg ((off - 0x100) / 16)) (8 - off % 16))) ∧
      (0x200 ≤ off → off < 0x300 → runs (.threadWindowWrite off v) s (fun t => ∃ x, now (th.setD ((off - 0x200) / 32) x) t ∧ getWord64 x (off % 32) = v ∧ ∀ k, k % 8 = 0 → k < 32 → k ≠ off % 32 → getWord64 x k = getWord64 (th.dreg ((off - 0x200) / 32)) k)) ∧
      (0x1000 ≤ off → off < 0x3000 → runs (.threadWindowWrite off v) s (fun t => ∃ x, now (th.setV ((off - 0x1000) / 512) x) t ∧ getWord64 x (off % 512) = v ∧ ∀ k, k % 8 = 0 → k < 512 → k ≠ off % 512 → getWord64 x k = getWord64 (th.vreg ((off - 0x1000) / 512)) k)) ∧
      (off = 0x400 → runs (.threadWindowWrite off v) s (now { th with pc := v, fetched := [], fetchPage := none, fetchFill := none })) ∧
      (off = 0x410 → runs (.threadWindowWrite off v) s (now { th with fv := th.fv && !bitOf v 32 })) ∧
      (off = 0x418 → runs (.threadWindowWrite off v) s (now { th with flags := th.flags &&& ~~~(v.setWidth 4) })) ∧
      ((0x180 ≤ off ∧ off < 0x200) ∨ (0x300 ≤ off ∧ off < 0x400) ∨ (0x420 ≤ off ∧ off < 0x1000) → runs (.threadWindowWrite off v) s (fun t => t = s)))) ∧
  (∀ (s : State),
    let closed := fun (b : State) (t : State) => t = { b with tiles := t.tiles, sec := { b.sec with level := 0, susp := false, expiry := 0 }, obs := { b.obs with cntEn := false, trcEn := false, trcAddr := false, dlyEn := false, armWarm := false } } ∧
      (∀ r, t.thread r = { s.thread r with dbgHalt := false }) ∧ ∀ n, t.tile n = { s.tile n with threads := (t.tile n).threads }
    let awake : State := { s with sec := { s.sec with d3hot := false, retention := false, susp := false } }
    runs .d3hot s (fun t => t = { s with sec := { s.sec with d3hot := true } }) ∧
    (let may := s.sec.d3hot = true ∧ s.sec.retention = false ∧ s.admitted = []
     let low := fun (b : State) => { b with sec := { b.sec with retention := true }, pow := { b.pow with target := 0, req := if s.pow.op = 0 then s.pow.req else some 0 } }
     (¬ may → runs .retentionEnter s (fun t => t = s)) ∧
     (may → s.sec.level ≠ 4 → runs .retentionEnter s (fun t => t = low { s with sec := { s.sec with susp := decide (2 ≤ s.sec.level) } })) ∧
     (may → s.sec.level = 4 → runs .retentionEnter s (closed (low s)))) ∧
    (s.sec.level = 0 → s.start.phase ≠ .safe → runs .dbgClose s (fun t => t = s)) ∧ ((s.sec.level = 0 ∨ s.expired = false) → runs .debugSessionExpire s (fun t => t = s)) ∧
    (s.sec.level ≠ 0 → s.start.phase ≠ .safe → runsWake .dbgClose s (closed s)) ∧ (s.sec.level ≠ 0 → s.expired = true → runsWake .debugSessionExpire s (closed s)) ∧
    ((s.sec.level = 0 ∨ s.expired = false) → runsWake .d0 s (fun t => t = awake)) ∧ (s.sec.level ≠ 0 → s.expired = true → runsWake .d0 s (closed awake)))

/-- Outside service and SAFE no request is answered, and in VOID only GET_MEASUREMENTS is. A request whose answer stands outside the manual is answered with its
response code and changes nothing else. GET_CERTIFICATE gives a part of the stored chain, for slot 0 alone. GET_MEASUREMENTS gives the number of blocks, every
block or one; block 6 is the state block and block 7 the digest of the health log. KEY_EXCHANGE begins a session while fewer than four stand, FINISH completes
one that began, END_SESSION ends one with every stream that it keyed. KEY_PROG installs the key of one sub-stream for an open session and leaves every other
stream; K_SET_GO activates a key set whose three keys stand, K_SET_STOP ends an active stream; any other request is refused. Response codes, the DOE Discovery
types and the KP_ACK status are the model's choice (log 57). -/
def Obligations.MailboxAndIde : Prop :=
  ∀ (s : State) (q : SpdmReq) (n off len : Nat) (stream keyset sub : Nat) (key : BitVec 256),
    let all : List Instr := [.doeDiscovery n, .getVersion q, .getCapabilities q, .negotiateAlgorithms q, .getDigests q, .getCertificate q off len, .challenge q, .keyExchange q,
      .finish q, .endSession q, .keyProg n stream keyset sub key, .kSetGo n stream keyset, .kSetStop n stream keyset]
    let said := fun (o : Out) (b t : State) => t = { b with host := { b.host with out := b.host.out ++ [o] } }
    let open_ := s.start.phase = .run ∨ s.start.phase = .safe
    (¬ open_ → ∀ i ∈ all ++ [.getMeasurements q n], runs i s (fun t => t = s)) ∧ (s.sec.lc = 4 → ∀ i ∈ all, runs i s (fun t => t = s)) ∧
    (open_ →
      (n = 0 → runs (.getMeasurements q n) s (said (.doe 0x60 (8 :: if q.signed then Config.spdmAnswer 0xE0 q.data else [])) s)) ∧
      (1 ≤ n → n ≤ 8 → runs (.getMeasurements q n) s (said (.doe 0x60 (measBlock s n ++ if q.signed then Config.spdmAnswer 0xE0 q.data else [])) s)) ∧
      (n = 255 → runs (.getMeasurements q n) s (fun t => ∃ sig, said (.doe 0x60 (measBlock s 1 ++ measBlock s 2 ++ measBlock s 3 ++ measBlock s 4 ++ measBlock s 5 ++ measBlock s 6 ++ measBlock s 7 ++ measBlock s 8 ++ sig)) s t)) ∧
      (8 < n → n ≠ 255 → runs (.getMeasurements q n) s (said (.doe 0x7F [1]) s)) ∧
      (measBlock s 6).length = 39 ∧ (measBlock s 6).take 9 = [6, 1, 35, 0, 0x80, 32, 0, BitVec.ofNat 8 s.sec.lc, BitVec.ofNat 8 s.sec.level] ∧
      (measBlock s 7).drop 7 = Config.shake256 ((bySeq s.rep.hlog ++ bySeq s.rep.staged).flatMap (fun r => bytesOfWords r.words)) 64) ∧
    (open_ → s.sec.lc ≠ 4 →
      (n < 4 → runs (.doeDiscovery n) s (said (.doe 0 [1, 0, BitVec.ofNat 8 n, BitVec.ofNat 8 ((n + 1) % 4)]) s)) ∧
      runs (.getVersion q) s (said (.doe 0x04 versions) s) ∧ runs (.getCapabilities q) s (said (.doe 0x61 (Config.spdmAnswer 0xE1 q.data)) s) ∧
      runs (.negotiateAlgorithms q) s (said (.doe 0x63 algorithms) s) ∧ runs (.getDigests q) s (said (.doe 0x01 (Config.spdmAnswer 0x81 q.data)) s) ∧
      runs (.challenge q) s (said (.doe 0x03 (Config.spdmAnswer 0x83 q.data)) s) ∧
      (let has := q.slot = 0 ∧ off < s.sec.chain.length
       (has → runs (.getCertificate q off len) s (said (.doe 0x02 ((s.sec.chain.drop off).take len)) s)) ∧ (¬ has → runs (.getCertificate q off len) s (said (.doe 0x7F [1]) s))) ∧
      (let known := q.session ∈ s.sec.sessions ∨ q.session ∈ s.sec.opening
       let full := 4 ≤ s.sec.sessions.length + s.sec.opening.length
       (full → runs (.keyExchange q) s (said (.doe 0x7F [0x0A]) s)) ∧
       (¬ full → q.data.length = 1568 → ¬ known → runs (.keyExchange q) s (said (.doe 0x64 (Config.spdmAnswer 0xE4 q.data)) { s with sec := { s.sec with opening := s.sec.opening ++ [q.session] } })) ∧
       (¬ full → (q.data.length ≠ 1568 ∨ known) → runs (.keyExchange q) s (said (.doe 0x7F [1]) s))) ∧
      (q.session ∉ s.sec.opening → runs (.finish q) s (said (.doe 0x7F [4]) s)) ∧
      (q.session ∈ s.sec.opening → runs (.finish q) s (fun t => ∃ o, said (.doe 0x65 (Config.spdmAnswer 0xE5 q.data)) { s with sec := { s.sec with opening := o, sessions := s.sec.sessions ++ [q.session] } } t ∧
        ∀ k, k ∈ o ↔ k ∈ s.sec.opening ∧ k ≠ q.session)) ∧
      (q.session ∉ s.sec.sessions → runs (.endSession q) s (said (.doe 0x7F [4]) s)) ∧
      (q.session ∈ s.sec.sessions → runs (.endSession q) s (fun t => ∃ o l, said (.doe 0x6C (Config.spdmAnswer 0xEC q.data)) { s with sec := { s.sec with sessions := o, ide := l } } t ∧
        (∀ k, k ∈ o ↔ k ∈ s.sec.sessions ∧ k ≠ q.session) ∧ ∀ x, x ∈ l ↔ x ∈ s.sec.ide ∧ x.session ≠ q.session)) ∧
      (let there := n ∈ s.sec.sessions ∧ stream < 5 ∧ keyset < 2
       let mine := fun (x : IdeStream) => x.stream = stream ∧ x.session = n
       let full := fun (x : IdeStream) => ∀ k, k < 3 → ∃ y, (keyset, k, y) ∈ x.keys
       ((¬ there ∨ 2 < sub ∨ ∃ x, s.sec.ide.find? (fun x => x.stream == stream) = some x ∧ x.session ≠ n) → runs (.keyProg n stream keyset sub key) s (said (.doe 0xFE [1]) s)) ∧
       (there → sub ≤ 2 → (∀ x ∈ s.sec.ide, x.stream = stream → x.session = n) → runs (.keyProg n stream keyset sub key) s (fun t => ∃ l, said (.doe 0xFE [0]) { s with sec := { s.sec with ide := l } } t ∧
         (∀ x, x.stream ≠ stream → (x ∈ l ↔ x ∈ s.sec.ide)) ∧ ∃ x ∈ l, mine x ∧ ∀ y, (keyset, sub, y) ∈ x.keys ↔ y = key)) ∧
       ((¬ there ∨ ∀ x ∈ s.sec.ide, mine x → ¬ full x) → runs (.kSetGo n stream keyset) s (said (.doe 0xFE [1]) s)) ∧
       (there → (∃ x ∈ s.sec.ide, mine x ∧ full x) → runs (.kSetGo n stream keyset) s (fun t => ∃ l, said (.doe 0xFE [0]) { s with sec := { s.sec with ide := l } } t ∧
         (∀ x, ¬ mine x → (x ∈ l ↔ x ∈ s.sec.ide)) ∧ (∀ x ∈ s.sec.ide, mine x → full x → { x with active := some keyset } ∈ l))) ∧
       ((¬ there ∨ ∀ x ∈ s.sec.ide, mine x → x.active ≠ some keyset) → runs (.kSetStop n stream keyset) s (said (.doe 0xFE [1]) s)) ∧
       (there → (∃ x ∈ s.sec.ide, mine x ∧ x.active = some keyset) → runs (.kSetStop n stream keyset) s (fun t => ∃ l, said (.doe 0xFE [0]) { s with sec := { s.sec with ide := l } } t ∧
         ∀ x, x ∈ l ↔ x ∈ s.sec.ide ∧ ¬ (mine x ∧ x.active = some keyset)))))

/-- While the always-on island is off no MCTP command is answered. SET_BOARD_CAP and SET_PHASE_CAPS set their caps, which wait for the next cue boundary;
RAIL_POWER feeds the correction; INLET_TEMP sets the inlet, which is taken as 40 degrees C after 10 s without one; POWER_OFF is requested; READ returns the bytes
that BAR0 shows, in SAFE the offsets of R478 alone; RESET begins its reset unless one is busy; every response carries its status. A request that breaks the
form of Table 18.10 is answered with FORM_MISMATCH and changes nothing (the model's choice, log 65); an unlisted code with ILLEGAL_OP. SETDASA gives the address at the
static address of the board position. BYPASS shifts a 0; IDCODE is the device's; SAMPLE captures the lands, in an order that is a free value, and takes the
preload value; EXTEST, CLAMP and HIGHZ drive or release the lands while PERST# is asserted and act as BYPASS otherwise. -/
def Obligations.BoardAndTestPort : Prop :=
  ∀ (s : State) (watts temp : BitVec 16) (caps : List (BitVec 16)) (mw v : W32) (kind off len : Nat) (code : Byte) (static dyn : BitVec 7),
    let said := fun (o : Out) (b t : State) => t = { b with host := { b.host with out := b.host.out ++ [o] } }
    let pow := fun (p : Power) => { s with pow := p }
    let ir := fun (k m : Nat) => { s with pins := { s.pins with jtagIr := k, jtagMode := m } }
    runs .inletTempTimeout s (fun t => t = pow { s.pow with inlet := 160 }) ∧
    (s.start.phase = .off → (∀ i ∈ ([.setBoardCap watts, .setPhaseCaps caps, .railPower mw, .inletTemp temp, .mctpReset kind, .powerOff, .mctpRead off len, .mctpUnknownCommand code, .setdasa static dyn] : List Instr),
      runs i s (fun t => t = s))) ∧
    (s.start.phase ≠ .off →
      runs (.setBoardCap watts) s (said (.mctp 0 []) (pow { s.pow with board := watts.toNat, boardDue := true })) ∧
      (caps.length = 8 → runs (.setPhaseCaps caps) s (said (.mctp 0 []) (pow { s.pow with phaseCaps := some (caps.map (fun c => c.toNat)), phaseDue := true }))) ∧
      (caps.length ≠ 8 → runs (.setPhaseCaps caps) s (said (.mctp stFormMismatch []) s)) ∧
      runs (.railPower mw) s (said (.mctp 0 []) (pow { s.pow with railMw := some mw.toNat })) ∧
      runs (.inletTemp temp) s (said (.mctp 0 []) (pow { s.pow with inlet := temp.toInt })) ∧
      runs .powerOff s (said (.mctp 0 []) { s with sec := { s.sec with offPend := true } }) ∧
      (kind ≠ 4 → kind ≠ 5 → runs (.mctpReset kind) s (said (.mctp stFormMismatch []) s)) ∧
      ((kind = 4 ∨ kind = 5) → s.start.rstBusy = true → runs (.mctpReset kind) s (said (.mctp 0 []) { s with start := { s.start with rstKind := kind } })) ∧
      ((kind = 4 ∨ kind = 5) → s.start.rstBusy = false → runs (.mctpReset kind) s (fun t => t.host.out.getLast? = some (.mctp 0 []) ∧ ((s.start.phase = .run ∧ startAllowed s = true ∧ (s.pins.legacy = false ∨ s.pins.tripIn = false)) →
        t.start.phase = .take ∧ t.start.stage = (if kind = 4 then 3 else 0) ∧ t.start.warm = decide (kind = 4) ∧ t.tiles = []))) ∧
      (let form := 8 ≤ len ∧ len ≤ 64 ∧ off + len ≤ 2 ^ 28
       (¬ form → runs (.mctpRead off len) s (said (.mctp stFormMismatch []) s)) ∧
       (form → runs (.mctpRead off len) s (fun t => ∃ l, said (.mctp 0 l) s t ∧ l.length = len ∧
         ∀ k, k < len → l[k]? = some (if s.start.phase = .safe ∧ safeServes (off + k) = false then 0 else BitVec.ofNat 8 ((regRead s (off + k)).toNat / 2 ^ (8 * ((off + k) % 8))))))) ∧
      ((code.toNat = 0 ∨ 7 < code.toNat) → runs (.mctpUnknownCommand code) s (said (.mctp stIllegalOp []) s)) ∧
      (static.toNat = 0x30 + s.pins.bpos → runs (.setdasa static dyn) s (said (.i3cAck static.toNat) { s with pins := { s.pins with i3c := some dyn.toNat } })) ∧
      (static.toNat ≠ 0x30 + s.pins.bpos → runs (.setdasa static dyn) s (fun t => t = s))) ∧
    runs .jtagBypass s (said (.tdo 0) (ir 0 0)) ∧
    runs .jtagIdcode s (fun t => ∃ w, said (.tdo w) (ir 1 0) t ∧ w.toNat / 2 ^ 28 = 1 ∧ w.toNat / 2 ^ 12 % 2 ^ 16 = (match s.build with
      | .t => 0x0710
      | .s => 0x0711) ∧ w.toNat / 2 % 2 ^ 11 = Config.manufacturer % 2 ^ 11 ∧ w.toNat % 2 = 1) ∧
    runs (.jtagSamplePreload v) s (fun t => ∃ w, said (.tdo w) { s with freeCtr := s.freeCtr + 1, pins := { s.pins with jtagIr := 2, jtagMode := 0, jtagBsr := v } } t) ∧
    (s.start.perst = false → ∀ i ∈ ([.jtagExtest, .jtagClamp, .jtagHighz] : List Instr), runs i s (said (.tdo 0) (ir 0 0))) ∧
    (s.start.perst = true → runs .jtagExtest s (fun t => ∃ w, said (.tdo w) { ir 3 1 with freeCtr := s.freeCtr + 1 } t) ∧ runs .jtagClamp s (said (.tdo 0) (ir 4 1)) ∧ runs .jtagHighz s (said (.tdo 0) (ir 5 2)))

/-- A near-memory local address of either build selects its memory layer, its bank column and its bank by R198's divisions; layers are 0 to 4, columns 0 to 63
and banks 0 to 31, and the address is the base of its bank plus an offset below 6 MiB, so the bytes of one bank are consecutive and addresses are not interleaved:
every address between two of one bank is of that bank. -/
def Obligations.NearAddressSelects : Prop :=
  ∀ a : Nat, a < 5 * 0x300000000 →
    nearLayer a = a / (12 * 2 ^ 30) ∧ nearCol a = a % (12 * 2 ^ 30) / (192 * 2 ^ 20) ∧ nearBank a = a % (192 * 2 ^ 20) / (6 * 2 ^ 20) ∧
    nearLayer a < 5 ∧ nearCol a < 64 ∧ nearBank a < 32 ∧ winOf a = .near ∧
    (∃ o, o < 6 * 2 ^ 20 ∧ a = nearLayer a * (12 * 2 ^ 30) + nearCol a * (192 * 2 ^ 20) + nearBank a * (6 * 2 ^ 20) + o) ∧
    ∀ b c, a ≤ c → c ≤ b → nearLayer b = nearLayer a → nearCol b = nearCol a → nearBank b = nearBank a →
      nearLayer c = nearLayer a ∧ nearCol c = nearCol a ∧ nearBank c = nearBank a

/-- From every state whose list of memory bytes is in the one canonical form (addresses strictly rising; no entry equal to what an unlisted address reads as),
whatever command stands at the front of the queue, a step that goes on gives a state whose list is in that form: no store of any command, whether of a thread,
a core, a bank engine, the array, a copy, the host, a peer or a repair, and no take, reset, stop or repartition leaves two bytes at one address or a byte that
an unlisted address would read as. The form is the model's own (log 3); that it holds at reset is ResetMemoryCanonical. -/
def Obligations.StepKeepsMemoryCanonical : Prop := ∀ s t : State, s.Inv → step s = .next t → t.Inv
end

