-- ==== Sys2Proof/Laws/Map.lean ====
section
/-! SUPPORT. Sparse maps: what is read after one key is written. -/
namespace Sys2Proof.Machine

theorem mfind_mdel_same {α : Type} (m : List (Nat × α)) (k : Nat) : mfind (mdel m k) k = none := by
  induction m with
  | nil => rfl
  | cons p m ih =>
    by_cases h : p.1 = k
    · simpa [mdel, h] using ih
    · simp only [mdel] at ih ⊢
      simp [h, mfind, ih]

theorem mfind_mdel_ne {α : Type} (m : List (Nat × α)) {k j : Nat} (hj : j ≠ k) : mfind (mdel m k) j = mfind m j := by
  induction m with
  | nil => rfl
  | cons p m ih =>
    simp only [mdel] at ih ⊢
    by_cases h : p.1 = k
    · have : ¬ p.1 = j := by omega
      simp [h, mfind, ih]; omega
    · by_cases h2 : p.1 = j
      · simp [mfind, h2, hj]
      · simp [h, mfind, h2, ih]

theorem mfind_minsert_ne {α : Type} (m : List (Nat × α)) (v : α) {k j : Nat} (hj : j ≠ k) :
    mfind (minsert m k v) j = mfind m j := by
  induction m with
  | nil => simp [minsert, mfind]; omega
  | cons p m ih =>
    simp only [minsert]
    split
    · have : ¬ k = j := by omega
      simp [mfind, this]
    · simp [mfind, ih]

theorem mfind_minsert_same {α : Type} (m : List (Nat × α)) (v : α) {k : Nat} (h : mfind m k = none) :
    mfind (minsert m k v) k = some v := by
  induction m with
  | nil => simp [minsert, mfind]
  | cons p m ih =>
    simp only [mfind] at h
    split at h
    · cases h
    · rename_i hp
      simp only [minsert]
      split
      · simp [mfind]
      · simp only [mfind]
        rw [if_neg hp]
        exact ih h

@[simp] theorem mfind_mput_same {α : Type} (m : List (Nat × α)) (k : Nat) (v : α) : mfind (mput m k v) k = some v :=
  mfind_minsert_same _ _ (mfind_mdel_same m k)

theorem mfind_mput_ne {α : Type} (m : List (Nat × α)) (v : α) {k j : Nat} (hj : j ≠ k) : mfind (mput m k v) j = mfind m j := by
  rw [mput, mfind_minsert_ne _ _ hj, mfind_mdel_ne _ hj]

@[simp] theorem mget_mput_same {α : Type} (d : α) (m : List (Nat × α)) (k : Nat) (v : α) : mget d (mput m k v) k = v := by
  simp [mget]

theorem mget_mput_ne {α : Type} (d : α) (m : List (Nat × α)) (v : α) {k j : Nat} (hj : j ≠ k) :
    mget d (mput m k v) j = mget d m j := by
  simp [mget, mfind_mput_ne m v hj]

theorem mdel_mdel {α : Type} (m : List (Nat × α)) (k : Nat) : mdel (mdel m k) k = mdel m k := by
  simp [mdel]

theorem mdel_minsert {α : Type} (m : List (Nat × α)) (k : Nat) (v : α) : mdel (minsert m k v) k = mdel m k := by
  induction m with
  | nil => simp [minsert, mdel]
  | cons p m ih =>
    simp only [minsert]
    split
    · simp [mdel]
    · simp only [mdel] at ih ⊢
      by_cases h : p.1 = k <;> simp [h, ih]

/-- The second of two writes of one key stands alone. -/
@[simp] theorem mput_mput {α : Type} (m : List (Nat × α)) (k : Nat) (v w : α) : mput (mput m k v) k w = mput m k w := by
  rw [mput, mput, mput, mdel_minsert, mdel_mdel]

end Sys2Proof.Machine
end

