-- ==== Sys2Proof/Laws/State.lean ====
section
/-! SUPPORT. What each named update of the state leaves as it is, and what is read back of what it writes. -/
namespace Sys2Proof.Machine

@[simp] theorem State.setTile_pending (s : State) (t : Nat) (x : Tile) : (s.setTile t x).pending = s.pending := rfl
@[simp] theorem State.setTile_build (s : State) (t : Nat) (x : Tile) : (s.setTile t x).build = s.build := rfl
@[simp] theorem State.setTile_freeCtr (s : State) (t : Nat) (x : Tile) : (s.setTile t x).freeCtr = s.freeCtr := rfl
@[simp] theorem State.setTile_mem (s : State) (t : Nat) (x : Tile) : (s.setTile t x).mem = s.mem := rfl
@[simp] theorem State.setTile_undef (s : State) (t : Nat) (x : Tile) : (s.setTile t x).undef = s.undef := rfl
@[simp] theorem State.setTile_poison (s : State) (t : Nat) (x : Tile) : (s.setTile t x).poison = s.poison := rfl
@[simp] theorem State.setTile_cores (s : State) (t : Nat) (x : Tile) : (s.setTile t x).cores = s.cores := rfl
@[simp] theorem State.setTile_reels (s : State) (t : Nat) (x : Tile) : (s.setTile t x).reels = s.reels := rfl
@[simp] theorem State.setTile_bank (s : State) (t : Nat) (x : Tile) : (s.setTile t x).bank = s.bank := rfl
@[simp] theorem State.setTile_xl (s : State) (t : Nat) (x : Tile) : (s.setTile t x).xl = s.xl := rfl
@[simp] theorem State.setTile_cache (s : State) (t : Nat) (x : Tile) : (s.setTile t x).cache = s.cache := rfl
@[simp] theorem State.setTile_rep (s : State) (t : Nat) (x : Tile) : (s.setTile t x).rep = s.rep := rfl
@[simp] theorem State.setTile_links (s : State) (t : Nat) (x : Tile) : (s.setTile t x).links = s.links := rfl
@[simp] theorem State.setTile_pairs (s : State) (t : Nat) (x : Tile) : (s.setTile t x).pairs = s.pairs := rfl
@[simp] theorem State.setTile_pow (s : State) (t : Nat) (x : Tile) : (s.setTile t x).pow = s.pow := rfl
@[simp] theorem State.setTile_time (s : State) (t : Nat) (x : Tile) : (s.setTile t x).time = s.time := rfl
@[simp] theorem State.setTile_floor (s : State) (t : Nat) (x : Tile) : (s.setTile t x).floor = s.floor := rfl
@[simp] theorem State.setTile_host (s : State) (t : Nat) (x : Tile) : (s.setTile t x).host = s.host := rfl
@[simp] theorem State.setTile_sec (s : State) (t : Nat) (x : Tile) : (s.setTile t x).sec = s.sec := rfl
@[simp] theorem State.setTile_start (s : State) (t : Nat) (x : Tile) : (s.setTile t x).start = s.start := rfl
@[simp] theorem State.setTile_obs (s : State) (t : Nat) (x : Tile) : (s.setTile t x).obs = s.obs := rfl
@[simp] theorem State.setTile_pins (s : State) (t : Nat) (x : Tile) : (s.setTile t x).pins = s.pins := rfl
@[simp] theorem State.setTile_cueOrder (s : State) (t : Nat) (x : Tile) : (s.setTile t x).cueOrder = s.cueOrder := rfl
@[simp] theorem State.setTile_opSeq (s : State) (t : Nat) (x : Tile) : (s.setTile t x).opSeq = s.opSeq := rfl

@[simp] theorem State.modTile_pending (s : State) (t : Nat) (f : Tile → Tile) : (s.modTile t f).pending = s.pending := rfl
@[simp] theorem State.modTile_build (s : State) (t : Nat) (f : Tile → Tile) : (s.modTile t f).build = s.build := rfl
@[simp] theorem State.modTile_freeCtr (s : State) (t : Nat) (f : Tile → Tile) : (s.modTile t f).freeCtr = s.freeCtr := rfl
@[simp] theorem State.modTile_mem (s : State) (t : Nat) (f : Tile → Tile) : (s.modTile t f).mem = s.mem := rfl
@[simp] theorem State.modTile_undef (s : State) (t : Nat) (f : Tile → Tile) : (s.modTile t f).undef = s.undef := rfl
@[simp] theorem State.modTile_poison (s : State) (t : Nat) (f : Tile → Tile) : (s.modTile t f).poison = s.poison := rfl
@[simp] theorem State.modTile_cores (s : State) (t : Nat) (f : Tile → Tile) : (s.modTile t f).cores = s.cores := rfl
@[simp] theorem State.modTile_reels (s : State) (t : Nat) (f : Tile → Tile) : (s.modTile t f).reels = s.reels := rfl
@[simp] theorem State.modTile_bank (s : State) (t : Nat) (f : Tile → Tile) : (s.modTile t f).bank = s.bank := rfl
@[simp] theorem State.modTile_xl (s : State) (t : Nat) (f : Tile → Tile) : (s.modTile t f).xl = s.xl := rfl
@[simp] theorem State.modTile_cache (s : State) (t : Nat) (f : Tile → Tile) : (s.modTile t f).cache = s.cache := rfl
@[simp] theorem State.modTile_rep (s : State) (t : Nat) (f : Tile → Tile) : (s.modTile t f).rep = s.rep := rfl
@[simp] theorem State.modTile_links (s : State) (t : Nat) (f : Tile → Tile) : (s.modTile t f).links = s.links := rfl
@[simp] theorem State.modTile_pairs (s : State) (t : Nat) (f : Tile → Tile) : (s.modTile t f).pairs = s.pairs := rfl
@[simp] theorem State.modTile_pow (s : State) (t : Nat) (f : Tile → Tile) : (s.modTile t f).pow = s.pow := rfl
@[simp] theorem State.modTile_time (s : State) (t : Nat) (f : Tile → Tile) : (s.modTile t f).time = s.time := rfl
@[simp] theorem State.modTile_floor (s : State) (t : Nat) (f : Tile → Tile) : (s.modTile t f).floor = s.floor := rfl
@[simp] theorem State.modTile_host (s : State) (t : Nat) (f : Tile → Tile) : (s.modTile t f).host = s.host := rfl
@[simp] theorem State.modTile_sec (s : State) (t : Nat) (f : Tile → Tile) : (s.modTile t f).sec = s.sec := rfl
@[simp] theorem State.modTile_start (s : State) (t : Nat) (f : Tile → Tile) : (s.modTile t f).start = s.start := rfl
@[simp] theorem State.modTile_obs (s : State) (t : Nat) (f : Tile → Tile) : (s.modTile t f).obs = s.obs := rfl
@[simp] theorem State.modTile_pins (s : State) (t : Nat) (f : Tile → Tile) : (s.modTile t f).pins = s.pins := rfl
@[simp] theorem State.modTile_cueOrder (s : State) (t : Nat) (f : Tile → Tile) : (s.modTile t f).cueOrder = s.cueOrder := rfl
@[simp] theorem State.modTile_opSeq (s : State) (t : Nat) (f : Tile → Tile) : (s.modTile t f).opSeq = s.opSeq := rfl

@[simp] theorem State.setThread_pending (s : State) (r : TRef) (x : Thread) : (s.setThread r x).pending = s.pending := rfl
@[simp] theorem State.setThread_build (s : State) (r : TRef) (x : Thread) : (s.setThread r x).build = s.build := rfl
@[simp] theorem State.setThread_freeCtr (s : State) (r : TRef) (x : Thread) : (s.setThread r x).freeCtr = s.freeCtr := rfl
@[simp] theorem State.setThread_mem (s : State) (r : TRef) (x : Thread) : (s.setThread r x).mem = s.mem := rfl
@[simp] theorem State.setThread_undef (s : State) (r : TRef) (x : Thread) : (s.setThread r x).undef = s.undef := rfl
@[simp] theorem State.setThread_poison (s : State) (r : TRef) (x : Thread) : (s.setThread r x).poison = s.poison := rfl
@[simp] theorem State.setThread_cores (s : State) (r : TRef) (x : Thread) : (s.setThread r x).cores = s.cores := rfl
@[simp] theorem State.setThread_reels (s : State) (r : TRef) (x : Thread) : (s.setThread r x).reels = s.reels := rfl
@[simp] theorem State.setThread_bank (s : State) (r : TRef) (x : Thread) : (s.setThread r x).bank = s.bank := rfl
@[simp] theorem State.setThread_xl (s : State) (r : TRef) (x : Thread) : (s.setThread r x).xl = s.xl := rfl
@[simp] theorem State.setThread_cache (s : State) (r : TRef) (x : Thread) : (s.setThread r x).cache = s.cache := rfl
@[simp] theorem State.setThread_rep (s : State) (r : TRef) (x : Thread) : (s.setThread r x).rep = s.rep := rfl
@[simp] theorem State.setThread_links (s : State) (r : TRef) (x : Thread) : (s.setThread r x).links = s.links := rfl
@[simp] theorem State.setThread_pairs (s : State) (r : TRef) (x : Thread) : (s.setThread r x).pairs = s.pairs := rfl
@[simp] theorem State.setThread_pow (s : State) (r : TRef) (x : Thread) : (s.setThread r x).pow = s.pow := rfl
@[simp] theorem State.setThread_time (s : State) (r : TRef) (x : Thread) : (s.setThread r x).time = s.time := rfl
@[simp] theorem State.setThread_floor (s : State) (r : TRef) (x : Thread) : (s.setThread r x).floor = s.floor := rfl
@[simp] theorem State.setThread_host (s : State) (r : TRef) (x : Thread) : (s.setThread r x).host = s.host := rfl
@[simp] theorem State.setThread_sec (s : State) (r : TRef) (x : Thread) : (s.setThread r x).sec = s.sec := rfl
@[simp] theorem State.setThread_start (s : State) (r : TRef) (x : Thread) : (s.setThread r x).start = s.start := rfl
@[simp] theorem State.setThread_obs (s : State) (r : TRef) (x : Thread) : (s.setThread r x).obs = s.obs := rfl
@[simp] theorem State.setThread_pins (s : State) (r : TRef) (x : Thread) : (s.setThread r x).pins = s.pins := rfl
@[simp] theorem State.setThread_cueOrder (s : State) (r : TRef) (x : Thread) : (s.setThread r x).cueOrder = s.cueOrder := rfl
@[simp] theorem State.setThread_opSeq (s : State) (r : TRef) (x : Thread) : (s.setThread r x).opSeq = s.opSeq := rfl

@[simp] theorem State.modThread_pending (s : State) (r : TRef) (f : Thread → Thread) : (s.modThread r f).pending = s.pending := rfl
@[simp] theorem State.modThread_build (s : State) (r : TRef) (f : Thread → Thread) : (s.modThread r f).build = s.build := rfl
@[simp] theorem State.modThread_freeCtr (s : State) (r : TRef) (f : Thread → Thread) : (s.modThread r f).freeCtr = s.freeCtr := rfl
@[simp] theorem State.modThread_mem (s : State) (r : TRef) (f : Thread → Thread) : (s.modThread r f).mem = s.mem := rfl
@[simp] theorem State.modThread_undef (s : State) (r : TRef) (f : Thread → Thread) : (s.modThread r f).undef = s.undef := rfl
@[simp] theorem State.modThread_poison (s : State) (r : TRef) (f : Thread → Thread) : (s.modThread r f).poison = s.poison := rfl
@[simp] theorem State.modThread_cores (s : State) (r : TRef) (f : Thread → Thread) : (s.modThread r f).cores = s.cores := rfl
@[simp] theorem State.modThread_reels (s : State) (r : TRef) (f : Thread → Thread) : (s.modThread r f).reels = s.reels := rfl
@[simp] theorem State.modThread_bank (s : State) (r : TRef) (f : Thread → Thread) : (s.modThread r f).bank = s.bank := rfl
@[simp] theorem State.modThread_xl (s : State) (r : TRef) (f : Thread → Thread) : (s.modThread r f).xl = s.xl := rfl
@[simp] theorem State.modThread_cache (s : State) (r : TRef) (f : Thread → Thread) : (s.modThread r f).cache = s.cache := rfl
@[simp] theorem State.modThread_rep (s : State) (r : TRef) (f : Thread → Thread) : (s.modThread r f).rep = s.rep := rfl
@[simp] theorem State.modThread_links (s : State) (r : TRef) (f : Thread → Thread) : (s.modThread r f).links = s.links := rfl
@[simp] theorem State.modThread_pairs (s : State) (r : TRef) (f : Thread → Thread) : (s.modThread r f).pairs = s.pairs := rfl
@[simp] theorem State.modThread_pow (s : State) (r : TRef) (f : Thread → Thread) : (s.modThread r f).pow = s.pow := rfl
@[simp] theorem State.modThread_time (s : State) (r : TRef) (f : Thread → Thread) : (s.modThread r f).time = s.time := rfl
@[simp] theorem State.modThread_floor (s : State) (r : TRef) (f : Thread → Thread) : (s.modThread r f).floor = s.floor := rfl
@[simp] theorem State.modThread_host (s : State) (r : TRef) (f : Thread → Thread) : (s.modThread r f).host = s.host := rfl
@[simp] theorem State.modThread_sec (s : State) (r : TRef) (f : Thread → Thread) : (s.modThread r f).sec = s.sec := rfl
@[simp] theorem State.modThread_start (s : State) (r : TRef) (f : Thread → Thread) : (s.modThread r f).start = s.start := rfl
@[simp] theorem State.modThread_obs (s : State) (r : TRef) (f : Thread → Thread) : (s.modThread r f).obs = s.obs := rfl
@[simp] theorem State.modThread_pins (s : State) (r : TRef) (f : Thread → Thread) : (s.modThread r f).pins = s.pins := rfl
@[simp] theorem State.modThread_cueOrder (s : State) (r : TRef) (f : Thread → Thread) : (s.modThread r f).cueOrder = s.cueOrder := rfl
@[simp] theorem State.modThread_opSeq (s : State) (r : TRef) (f : Thread → Thread) : (s.modThread r f).opSeq = s.opSeq := rfl

@[simp] theorem State.setCore_pending (s : State) (p c : Nat) (x : Core) : (s.setCore p c x).pending = s.pending := rfl
@[simp] theorem State.setCore_build (s : State) (p c : Nat) (x : Core) : (s.setCore p c x).build = s.build := rfl
@[simp] theorem State.setCore_freeCtr (s : State) (p c : Nat) (x : Core) : (s.setCore p c x).freeCtr = s.freeCtr := rfl
@[simp] theorem State.setCore_mem (s : State) (p c : Nat) (x : Core) : (s.setCore p c x).mem = s.mem := rfl
@[simp] theorem State.setCore_undef (s : State) (p c : Nat) (x : Core) : (s.setCore p c x).undef = s.undef := rfl
@[simp] theorem State.setCore_poison (s : State) (p c : Nat) (x : Core) : (s.setCore p c x).poison = s.poison := rfl
@[simp] theorem State.setCore_tiles (s : State) (p c : Nat) (x : Core) : (s.setCore p c x).tiles = s.tiles := rfl
@[simp] theorem State.setCore_reels (s : State) (p c : Nat) (x : Core) : (s.setCore p c x).reels = s.reels := rfl
@[simp] theorem State.setCore_bank (s : State) (p c : Nat) (x : Core) : (s.setCore p c x).bank = s.bank := rfl
@[simp] theorem State.setCore_xl (s : State) (p c : Nat) (x : Core) : (s.setCore p c x).xl = s.xl := rfl
@[simp] theorem State.setCore_cache (s : State) (p c : Nat) (x : Core) : (s.setCore p c x).cache = s.cache := rfl
@[simp] theorem State.setCore_rep (s : State) (p c : Nat) (x : Core) : (s.setCore p c x).rep = s.rep := rfl
@[simp] theorem State.setCore_links (s : State) (p c : Nat) (x : Core) : (s.setCore p c x).links = s.links := rfl
@[simp] theorem State.setCore_pairs (s : State) (p c : Nat) (x : Core) : (s.setCore p c x).pairs = s.pairs := rfl
@[simp] theorem State.setCore_pow (s : State) (p c : Nat) (x : Core) : (s.setCore p c x).pow = s.pow := rfl
@[simp] theorem State.setCore_time (s : State) (p c : Nat) (x : Core) : (s.setCore p c x).time = s.time := rfl
@[simp] theorem State.setCore_floor (s : State) (p c : Nat) (x : Core) : (s.setCore p c x).floor = s.floor := rfl
@[simp] theorem State.setCore_host (s : State) (p c : Nat) (x : Core) : (s.setCore p c x).host = s.host := rfl
@[simp] theorem State.setCore_sec (s : State) (p c : Nat) (x : Core) : (s.setCore p c x).sec = s.sec := rfl
@[simp] theorem State.setCore_start (s : State) (p c : Nat) (x : Core) : (s.setCore p c x).start = s.start := rfl
@[simp] theorem State.setCore_obs (s : State) (p c : Nat) (x : Core) : (s.setCore p c x).obs = s.obs := rfl
@[simp] theorem State.setCore_pins (s : State) (p c : Nat) (x : Core) : (s.setCore p c x).pins = s.pins := rfl
@[simp] theorem State.setCore_cueOrder (s : State) (p c : Nat) (x : Core) : (s.setCore p c x).cueOrder = s.cueOrder := rfl
@[simp] theorem State.setCore_opSeq (s : State) (p c : Nat) (x : Core) : (s.setCore p c x).opSeq = s.opSeq := rfl

@[simp] theorem State.modCore_pending (s : State) (p c : Nat) (f : Core → Core) : (s.modCore p c f).pending = s.pending := rfl
@[simp] theorem State.modCore_build (s : State) (p c : Nat) (f : Core → Core) : (s.modCore p c f).build = s.build := rfl
@[simp] theorem State.modCore_freeCtr (s : State) (p c : Nat) (f : Core → Core) : (s.modCore p c f).freeCtr = s.freeCtr := rfl
@[simp] theorem State.modCore_mem (s : State) (p c : Nat) (f : Core → Core) : (s.modCore p c f).mem = s.mem := rfl
@[simp] theorem State.modCore_undef (s : State) (p c : Nat) (f : Core → Core) : (s.modCore p c f).undef = s.undef := rfl
@[simp] theorem State.modCore_poison (s : State) (p c : Nat) (f : Core → Core) : (s.modCore p c f).poison = s.poison := rfl
@[simp] theorem State.modCore_tiles (s : State) (p c : Nat) (f : Core → Core) : (s.modCore p c f).tiles = s.tiles := rfl
@[simp] theorem State.modCore_reels (s : State) (p c : Nat) (f : Core → Core) : (s.modCore p c f).reels = s.reels := rfl
@[simp] theorem State.modCore_bank (s : State) (p c : Nat) (f : Core → Core) : (s.modCore p c f).bank = s.bank := rfl
@[simp] theorem State.modCore_xl (s : State) (p c : Nat) (f : Core → Core) : (s.modCore p c f).xl = s.xl := rfl
@[simp] theorem State.modCore_cache (s : State) (p c : Nat) (f : Core → Core) : (s.modCore p c f).cache = s.cache := rfl
@[simp] theorem State.modCore_rep (s : State) (p c : Nat) (f : Core → Core) : (s.modCore p c f).rep = s.rep := rfl
@[simp] theorem State.modCore_links (s : State) (p c : Nat) (f : Core → Core) : (s.modCore p c f).links = s.links := rfl
@[simp] theorem State.modCore_pairs (s : State) (p c : Nat) (f : Core → Core) : (s.modCore p c f).pairs = s.pairs := rfl
@[simp] theorem State.modCore_pow (s : State) (p c : Nat) (f : Core → Core) : (s.modCore p c f).pow = s.pow := rfl
@[simp] theorem State.modCore_time (s : State) (p c : Nat) (f : Core → Core) : (s.modCore p c f).time = s.time := rfl
@[simp] theorem State.modCore_floor (s : State) (p c : Nat) (f : Core → Core) : (s.modCore p c f).floor = s.floor := rfl
@[simp] theorem State.modCore_host (s : State) (p c : Nat) (f : Core → Core) : (s.modCore p c f).host = s.host := rfl
@[simp] theorem State.modCore_sec (s : State) (p c : Nat) (f : Core → Core) : (s.modCore p c f).sec = s.sec := rfl
@[simp] theorem State.modCore_start (s : State) (p c : Nat) (f : Core → Core) : (s.modCore p c f).start = s.start := rfl
@[simp] theorem State.modCore_obs (s : State) (p c : Nat) (f : Core → Core) : (s.modCore p c f).obs = s.obs := rfl
@[simp] theorem State.modCore_pins (s : State) (p c : Nat) (f : Core → Core) : (s.modCore p c f).pins = s.pins := rfl
@[simp] theorem State.modCore_cueOrder (s : State) (p c : Nat) (f : Core → Core) : (s.modCore p c f).cueOrder = s.cueOrder := rfl
@[simp] theorem State.modCore_opSeq (s : State) (p c : Nat) (f : Core → Core) : (s.modCore p c f).opSeq = s.opSeq := rfl

@[simp] theorem State.setReel_pending (s : State) (n : Nat) (x : Reel) : (s.setReel n x).pending = s.pending := rfl
@[simp] theorem State.setReel_build (s : State) (n : Nat) (x : Reel) : (s.setReel n x).build = s.build := rfl
@[simp] theorem State.setReel_freeCtr (s : State) (n : Nat) (x : Reel) : (s.setReel n x).freeCtr = s.freeCtr := rfl
@[simp] theorem State.setReel_mem (s : State) (n : Nat) (x : Reel) : (s.setReel n x).mem = s.mem := rfl
@[simp] theorem State.setReel_undef (s : State) (n : Nat) (x : Reel) : (s.setReel n x).undef = s.undef := rfl
@[simp] theorem State.setReel_poison (s : State) (n : Nat) (x : Reel) : (s.setReel n x).poison = s.poison := rfl
@[simp] theorem State.setReel_tiles (s : State) (n : Nat) (x : Reel) : (s.setReel n x).tiles = s.tiles := rfl
@[simp] theorem State.setReel_cores (s : State) (n : Nat) (x : Reel) : (s.setReel n x).cores = s.cores := rfl
@[simp] theorem State.setReel_bank (s : State) (n : Nat) (x : Reel) : (s.setReel n x).bank = s.bank := rfl
@[simp] theorem State.setReel_xl (s : State) (n : Nat) (x : Reel) : (s.setReel n x).xl = s.xl := rfl
@[simp] theorem State.setReel_cache (s : State) (n : Nat) (x : Reel) : (s.setReel n x).cache = s.cache := rfl
@[simp] theorem State.setReel_rep (s : State) (n : Nat) (x : Reel) : (s.setReel n x).rep = s.rep := rfl
@[simp] theorem State.setReel_links (s : State) (n : Nat) (x : Reel) : (s.setReel n x).links = s.links := rfl
@[simp] theorem State.setReel_pairs (s : State) (n : Nat) (x : Reel) : (s.setReel n x).pairs = s.pairs := rfl
@[simp] theorem State.setReel_pow (s : State) (n : Nat) (x : Reel) : (s.setReel n x).pow = s.pow := rfl
@[simp] theorem State.setReel_time (s : State) (n : Nat) (x : Reel) : (s.setReel n x).time = s.time := rfl
@[simp] theorem State.setReel_floor (s : State) (n : Nat) (x : Reel) : (s.setReel n x).floor = s.floor := rfl
@[simp] theorem State.setReel_host (s : State) (n : Nat) (x : Reel) : (s.setReel n x).host = s.host := rfl
@[simp] theorem State.setReel_sec (s : State) (n : Nat) (x : Reel) : (s.setReel n x).sec = s.sec := rfl
@[simp] theorem State.setReel_start (s : State) (n : Nat) (x : Reel) : (s.setReel n x).start = s.start := rfl
@[simp] theorem State.setReel_obs (s : State) (n : Nat) (x : Reel) : (s.setReel n x).obs = s.obs := rfl
@[simp] theorem State.setReel_pins (s : State) (n : Nat) (x : Reel) : (s.setReel n x).pins = s.pins := rfl
@[simp] theorem State.setReel_cueOrder (s : State) (n : Nat) (x : Reel) : (s.setReel n x).cueOrder = s.cueOrder := rfl
@[simp] theorem State.setReel_opSeq (s : State) (n : Nat) (x : Reel) : (s.setReel n x).opSeq = s.opSeq := rfl

@[simp] theorem State.modReel_pending (s : State) (n : Nat) (f : Reel → Reel) : (s.modReel n f).pending = s.pending := rfl
@[simp] theorem State.modReel_build (s : State) (n : Nat) (f : Reel → Reel) : (s.modReel n f).build = s.build := rfl
@[simp] theorem State.modReel_freeCtr (s : State) (n : Nat) (f : Reel → Reel) : (s.modReel n f).freeCtr = s.freeCtr := rfl
@[simp] theorem State.modReel_mem (s : State) (n : Nat) (f : Reel → Reel) : (s.modReel n f).mem = s.mem := rfl
@[simp] theorem State.modReel_undef (s : State) (n : Nat) (f : Reel → Reel) : (s.modReel n f).undef = s.undef := rfl
@[simp] theorem State.modReel_poison (s : State) (n : Nat) (f : Reel → Reel) : (s.modReel n f).poison = s.poison := rfl
@[simp] theorem State.modReel_tiles (s : State) (n : Nat) (f : Reel → Reel) : (s.modReel n f).tiles = s.tiles := rfl
@[simp] theorem State.modReel_cores (s : State) (n : Nat) (f : Reel → Reel) : (s.modReel n f).cores = s.cores := rfl
@[simp] theorem State.modReel_bank (s : State) (n : Nat) (f : Reel → Reel) : (s.modReel n f).bank = s.bank := rfl
@[simp] theorem State.modReel_xl (s : State) (n : Nat) (f : Reel → Reel) : (s.modReel n f).xl = s.xl := rfl
@[simp] theorem State.modReel_cache (s : State) (n : Nat) (f : Reel → Reel) : (s.modReel n f).cache = s.cache := rfl
@[simp] theorem State.modReel_rep (s : State) (n : Nat) (f : Reel → Reel) : (s.modReel n f).rep = s.rep := rfl
@[simp] theorem State.modReel_links (s : State) (n : Nat) (f : Reel → Reel) : (s.modReel n f).links = s.links := rfl
@[simp] theorem State.modReel_pairs (s : State) (n : Nat) (f : Reel → Reel) : (s.modReel n f).pairs = s.pairs := rfl
@[simp] theorem State.modReel_pow (s : State) (n : Nat) (f : Reel → Reel) : (s.modReel n f).pow = s.pow := rfl
@[simp] theorem State.modReel_time (s : State) (n : Nat) (f : Reel → Reel) : (s.modReel n f).time = s.time := rfl
@[simp] theorem State.modReel_floor (s : State) (n : Nat) (f : Reel → Reel) : (s.modReel n f).floor = s.floor := rfl
@[simp] theorem State.modReel_host (s : State) (n : Nat) (f : Reel → Reel) : (s.modReel n f).host = s.host := rfl
@[simp] theorem State.modReel_sec (s : State) (n : Nat) (f : Reel → Reel) : (s.modReel n f).sec = s.sec := rfl
@[simp] theorem State.modReel_start (s : State) (n : Nat) (f : Reel → Reel) : (s.modReel n f).start = s.start := rfl
@[simp] theorem State.modReel_obs (s : State) (n : Nat) (f : Reel → Reel) : (s.modReel n f).obs = s.obs := rfl
@[simp] theorem State.modReel_pins (s : State) (n : Nat) (f : Reel → Reel) : (s.modReel n f).pins = s.pins := rfl
@[simp] theorem State.modReel_cueOrder (s : State) (n : Nat) (f : Reel → Reel) : (s.modReel n f).cueOrder = s.cueOrder := rfl
@[simp] theorem State.modReel_opSeq (s : State) (n : Nat) (f : Reel → Reel) : (s.modReel n f).opSeq = s.opSeq := rfl

@[simp] theorem State.modDom_pending (s : State) (n : Nat) (f : Dom → Dom) : (s.modDom n f).pending = s.pending := rfl
@[simp] theorem State.modDom_build (s : State) (n : Nat) (f : Dom → Dom) : (s.modDom n f).build = s.build := rfl
@[simp] theorem State.modDom_freeCtr (s : State) (n : Nat) (f : Dom → Dom) : (s.modDom n f).freeCtr = s.freeCtr := rfl
@[simp] theorem State.modDom_mem (s : State) (n : Nat) (f : Dom → Dom) : (s.modDom n f).mem = s.mem := rfl
@[simp] theorem State.modDom_undef (s : State) (n : Nat) (f : Dom → Dom) : (s.modDom n f).undef = s.undef := rfl
@[simp] theorem State.modDom_poison (s : State) (n : Nat) (f : Dom → Dom) : (s.modDom n f).poison = s.poison := rfl
@[simp] theorem State.modDom_tiles (s : State) (n : Nat) (f : Dom → Dom) : (s.modDom n f).tiles = s.tiles := rfl
@[simp] theorem State.modDom_cores (s : State) (n : Nat) (f : Dom → Dom) : (s.modDom n f).cores = s.cores := rfl
@[simp] theorem State.modDom_reels (s : State) (n : Nat) (f : Dom → Dom) : (s.modDom n f).reels = s.reels := rfl
@[simp] theorem State.modDom_bank (s : State) (n : Nat) (f : Dom → Dom) : (s.modDom n f).bank = s.bank := rfl
@[simp] theorem State.modDom_xl (s : State) (n : Nat) (f : Dom → Dom) : (s.modDom n f).xl = s.xl := rfl
@[simp] theorem State.modDom_cache (s : State) (n : Nat) (f : Dom → Dom) : (s.modDom n f).cache = s.cache := rfl
@[simp] theorem State.modDom_rep (s : State) (n : Nat) (f : Dom → Dom) : (s.modDom n f).rep = s.rep := rfl
@[simp] theorem State.modDom_links (s : State) (n : Nat) (f : Dom → Dom) : (s.modDom n f).links = s.links := rfl
@[simp] theorem State.modDom_pairs (s : State) (n : Nat) (f : Dom → Dom) : (s.modDom n f).pairs = s.pairs := rfl
@[simp] theorem State.modDom_time (s : State) (n : Nat) (f : Dom → Dom) : (s.modDom n f).time = s.time := rfl
@[simp] theorem State.modDom_floor (s : State) (n : Nat) (f : Dom → Dom) : (s.modDom n f).floor = s.floor := rfl
@[simp] theorem State.modDom_host (s : State) (n : Nat) (f : Dom → Dom) : (s.modDom n f).host = s.host := rfl
@[simp] theorem State.modDom_sec (s : State) (n : Nat) (f : Dom → Dom) : (s.modDom n f).sec = s.sec := rfl
@[simp] theorem State.modDom_start (s : State) (n : Nat) (f : Dom → Dom) : (s.modDom n f).start = s.start := rfl
@[simp] theorem State.modDom_obs (s : State) (n : Nat) (f : Dom → Dom) : (s.modDom n f).obs = s.obs := rfl
@[simp] theorem State.modDom_pins (s : State) (n : Nat) (f : Dom → Dom) : (s.modDom n f).pins = s.pins := rfl
@[simp] theorem State.modDom_cueOrder (s : State) (n : Nat) (f : Dom → Dom) : (s.modDom n f).cueOrder = s.cueOrder := rfl
@[simp] theorem State.modDom_opSeq (s : State) (n : Nat) (f : Dom → Dom) : (s.modDom n f).opSeq = s.opSeq := rfl

@[simp] theorem State.modPort_pending (s : State) (n : Nat) (f : Port → Port) : (s.modPort n f).pending = s.pending := rfl
@[simp] theorem State.modPort_build (s : State) (n : Nat) (f : Port → Port) : (s.modPort n f).build = s.build := rfl
@[simp] theorem State.modPort_freeCtr (s : State) (n : Nat) (f : Port → Port) : (s.modPort n f).freeCtr = s.freeCtr := rfl
@[simp] theorem State.modPort_mem (s : State) (n : Nat) (f : Port → Port) : (s.modPort n f).mem = s.mem := rfl
@[simp] theorem State.modPort_undef (s : State) (n : Nat) (f : Port → Port) : (s.modPort n f).undef = s.undef := rfl
@[simp] theorem State.modPort_poison (s : State) (n : Nat) (f : Port → Port) : (s.modPort n f).poison = s.poison := rfl
@[simp] theorem State.modPort_tiles (s : State) (n : Nat) (f : Port → Port) : (s.modPort n f).tiles = s.tiles := rfl
@[simp] theorem State.modPort_cores (s : State) (n : Nat) (f : Port → Port) : (s.modPort n f).cores = s.cores := rfl
@[simp] theorem State.modPort_reels (s : State) (n : Nat) (f : Port → Port) : (s.modPort n f).reels = s.reels := rfl
@[simp] theorem State.modPort_bank (s : State) (n : Nat) (f : Port → Port) : (s.modPort n f).bank = s.bank := rfl
@[simp] theorem State.modPort_xl (s : State) (n : Nat) (f : Port → Port) : (s.modPort n f).xl = s.xl := rfl
@[simp] theorem State.modPort_cache (s : State) (n : Nat) (f : Port → Port) : (s.modPort n f).cache = s.cache := rfl
@[simp] theorem State.modPort_rep (s : State) (n : Nat) (f : Port → Port) : (s.modPort n f).rep = s.rep := rfl
@[simp] theorem State.modPort_pairs (s : State) (n : Nat) (f : Port → Port) : (s.modPort n f).pairs = s.pairs := rfl
@[simp] theorem State.modPort_pow (s : State) (n : Nat) (f : Port → Port) : (s.modPort n f).pow = s.pow := rfl
@[simp] theorem State.modPort_time (s : State) (n : Nat) (f : Port → Port) : (s.modPort n f).time = s.time := rfl
@[simp] theorem State.modPort_floor (s : State) (n : Nat) (f : Port → Port) : (s.modPort n f).floor = s.floor := rfl
@[simp] theorem State.modPort_host (s : State) (n : Nat) (f : Port → Port) : (s.modPort n f).host = s.host := rfl
@[simp] theorem State.modPort_sec (s : State) (n : Nat) (f : Port → Port) : (s.modPort n f).sec = s.sec := rfl
@[simp] theorem State.modPort_start (s : State) (n : Nat) (f : Port → Port) : (s.modPort n f).start = s.start := rfl
@[simp] theorem State.modPort_obs (s : State) (n : Nat) (f : Port → Port) : (s.modPort n f).obs = s.obs := rfl
@[simp] theorem State.modPort_pins (s : State) (n : Nat) (f : Port → Port) : (s.modPort n f).pins = s.pins := rfl
@[simp] theorem State.modPort_cueOrder (s : State) (n : Nat) (f : Port → Port) : (s.modPort n f).cueOrder = s.cueOrder := rfl
@[simp] theorem State.modPort_opSeq (s : State) (n : Nat) (f : Port → Port) : (s.modPort n f).opSeq = s.opSeq := rfl

@[simp] theorem State.setRoute_pending (s : State) (d : Nat) (x : Rt) : (s.setRoute d x).pending = s.pending := rfl
@[simp] theorem State.setRoute_build (s : State) (d : Nat) (x : Rt) : (s.setRoute d x).build = s.build := rfl
@[simp] theorem State.setRoute_freeCtr (s : State) (d : Nat) (x : Rt) : (s.setRoute d x).freeCtr = s.freeCtr := rfl
@[simp] theorem State.setRoute_mem (s : State) (d : Nat) (x : Rt) : (s.setRoute d x).mem = s.mem := rfl
@[simp] theorem State.setRoute_undef (s : State) (d : Nat) (x : Rt) : (s.setRoute d x).undef = s.undef := rfl
@[simp] theorem State.setRoute_poison (s : State) (d : Nat) (x : Rt) : (s.setRoute d x).poison = s.poison := rfl
@[simp] theorem State.setRoute_tiles (s : State) (d : Nat) (x : Rt) : (s.setRoute d x).tiles = s.tiles := rfl
@[simp] theorem State.setRoute_cores (s : State) (d : Nat) (x : Rt) : (s.setRoute d x).cores = s.cores := rfl
@[simp] theorem State.setRoute_reels (s : State) (d : Nat) (x : Rt) : (s.setRoute d x).reels = s.reels := rfl
@[simp] theorem State.setRoute_bank (s : State) (d : Nat) (x : Rt) : (s.setRoute d x).bank = s.bank := rfl
@[simp] theorem State.setRoute_xl (s : State) (d : Nat) (x : Rt) : (s.setRoute d x).xl = s.xl := rfl
@[simp] theorem State.setRoute_cache (s : State) (d : Nat) (x : Rt) : (s.setRoute d x).cache = s.cache := rfl
@[simp] theorem State.setRoute_rep (s : State) (d : Nat) (x : Rt) : (s.setRoute d x).rep = s.rep := rfl
@[simp] theorem State.setRoute_pairs (s : State) (d : Nat) (x : Rt) : (s.setRoute d x).pairs = s.pairs := rfl
@[simp] theorem State.setRoute_pow (s : State) (d : Nat) (x : Rt) : (s.setRoute d x).pow = s.pow := rfl
@[simp] theorem State.setRoute_time (s : State) (d : Nat) (x : Rt) : (s.setRoute d x).time = s.time := rfl
@[simp] theorem State.setRoute_floor (s : State) (d : Nat) (x : Rt) : (s.setRoute d x).floor = s.floor := rfl
@[simp] theorem State.setRoute_host (s : State) (d : Nat) (x : Rt) : (s.setRoute d x).host = s.host := rfl
@[simp] theorem State.setRoute_sec (s : State) (d : Nat) (x : Rt) : (s.setRoute d x).sec = s.sec := rfl
@[simp] theorem State.setRoute_start (s : State) (d : Nat) (x : Rt) : (s.setRoute d x).start = s.start := rfl
@[simp] theorem State.setRoute_obs (s : State) (d : Nat) (x : Rt) : (s.setRoute d x).obs = s.obs := rfl
@[simp] theorem State.setRoute_pins (s : State) (d : Nat) (x : Rt) : (s.setRoute d x).pins = s.pins := rfl
@[simp] theorem State.setRoute_cueOrder (s : State) (d : Nat) (x : Rt) : (s.setRoute d x).cueOrder = s.cueOrder := rfl
@[simp] theorem State.setRoute_opSeq (s : State) (d : Nat) (x : Rt) : (s.setRoute d x).opSeq = s.opSeq := rfl

@[simp] theorem State.modSplit_pending (s : State) (k : Nat) (g : Split → Split) : (s.modSplit k g).pending = s.pending := rfl
@[simp] theorem State.modSplit_build (s : State) (k : Nat) (g : Split → Split) : (s.modSplit k g).build = s.build := rfl
@[simp] theorem State.modSplit_freeCtr (s : State) (k : Nat) (g : Split → Split) : (s.modSplit k g).freeCtr = s.freeCtr := rfl
@[simp] theorem State.modSplit_mem (s : State) (k : Nat) (g : Split → Split) : (s.modSplit k g).mem = s.mem := rfl
@[simp] theorem State.modSplit_undef (s : State) (k : Nat) (g : Split → Split) : (s.modSplit k g).undef = s.undef := rfl
@[simp] theorem State.modSplit_poison (s : State) (k : Nat) (g : Split → Split) : (s.modSplit k g).poison = s.poison := rfl
@[simp] theorem State.modSplit_tiles (s : State) (k : Nat) (g : Split → Split) : (s.modSplit k g).tiles = s.tiles := rfl
@[simp] theorem State.modSplit_cores (s : State) (k : Nat) (g : Split → Split) : (s.modSplit k g).cores = s.cores := rfl
@[simp] theorem State.modSplit_reels (s : State) (k : Nat) (g : Split → Split) : (s.modSplit k g).reels = s.reels := rfl
@[simp] theorem State.modSplit_bank (s : State) (k : Nat) (g : Split → Split) : (s.modSplit k g).bank = s.bank := rfl
@[simp] theorem State.modSplit_xl (s : State) (k : Nat) (g : Split → Split) : (s.modSplit k g).xl = s.xl := rfl
@[simp] theorem State.modSplit_cache (s : State) (k : Nat) (g : Split → Split) : (s.modSplit k g).cache = s.cache := rfl
@[simp] theorem State.modSplit_rep (s : State) (k : Nat) (g : Split → Split) : (s.modSplit k g).rep = s.rep := rfl
@[simp] theorem State.modSplit_links (s : State) (k : Nat) (g : Split → Split) : (s.modSplit k g).links = s.links := rfl
@[simp] theorem State.modSplit_pairs (s : State) (k : Nat) (g : Split → Split) : (s.modSplit k g).pairs = s.pairs := rfl
@[simp] theorem State.modSplit_pow (s : State) (k : Nat) (g : Split → Split) : (s.modSplit k g).pow = s.pow := rfl
@[simp] theorem State.modSplit_time (s : State) (k : Nat) (g : Split → Split) : (s.modSplit k g).time = s.time := rfl
@[simp] theorem State.modSplit_floor (s : State) (k : Nat) (g : Split → Split) : (s.modSplit k g).floor = s.floor := rfl
@[simp] theorem State.modSplit_sec (s : State) (k : Nat) (g : Split → Split) : (s.modSplit k g).sec = s.sec := rfl
@[simp] theorem State.modSplit_start (s : State) (k : Nat) (g : Split → Split) : (s.modSplit k g).start = s.start := rfl
@[simp] theorem State.modSplit_obs (s : State) (k : Nat) (g : Split → Split) : (s.modSplit k g).obs = s.obs := rfl
@[simp] theorem State.modSplit_pins (s : State) (k : Nat) (g : Split → Split) : (s.modSplit k g).pins = s.pins := rfl
@[simp] theorem State.modSplit_cueOrder (s : State) (k : Nat) (g : Split → Split) : (s.modSplit k g).cueOrder = s.cueOrder := rfl
@[simp] theorem State.modSplit_opSeq (s : State) (k : Nat) (g : Split → Split) : (s.modSplit k g).opSeq = s.opSeq := rfl

@[simp] theorem State.modGroup_pending (s : State) (g : Nat) (f : Group → Group) : (s.modGroup g f).pending = s.pending := rfl
@[simp] theorem State.modGroup_build (s : State) (g : Nat) (f : Group → Group) : (s.modGroup g f).build = s.build := rfl
@[simp] theorem State.modGroup_freeCtr (s : State) (g : Nat) (f : Group → Group) : (s.modGroup g f).freeCtr = s.freeCtr := rfl
@[simp] theorem State.modGroup_mem (s : State) (g : Nat) (f : Group → Group) : (s.modGroup g f).mem = s.mem := rfl
@[simp] theorem State.modGroup_undef (s : State) (g : Nat) (f : Group → Group) : (s.modGroup g f).undef = s.undef := rfl
@[simp] theorem State.modGroup_poison (s : State) (g : Nat) (f : Group → Group) : (s.modGroup g f).poison = s.poison := rfl
@[simp] theorem State.modGroup_tiles (s : State) (g : Nat) (f : Group → Group) : (s.modGroup g f).tiles = s.tiles := rfl
@[simp] theorem State.modGroup_cores (s : State) (g : Nat) (f : Group → Group) : (s.modGroup g f).cores = s.cores := rfl
@[simp] theorem State.modGroup_reels (s : State) (g : Nat) (f : Group → Group) : (s.modGroup g f).reels = s.reels := rfl
@[simp] theorem State.modGroup_xl (s : State) (g : Nat) (f : Group → Group) : (s.modGroup g f).xl = s.xl := rfl
@[simp] theorem State.modGroup_cache (s : State) (g : Nat) (f : Group → Group) : (s.modGroup g f).cache = s.cache := rfl
@[simp] theorem State.modGroup_rep (s : State) (g : Nat) (f : Group → Group) : (s.modGroup g f).rep = s.rep := rfl
@[simp] theorem State.modGroup_links (s : State) (g : Nat) (f : Group → Group) : (s.modGroup g f).links = s.links := rfl
@[simp] theorem State.modGroup_pairs (s : State) (g : Nat) (f : Group → Group) : (s.modGroup g f).pairs = s.pairs := rfl
@[simp] theorem State.modGroup_pow (s : State) (g : Nat) (f : Group → Group) : (s.modGroup g f).pow = s.pow := rfl
@[simp] theorem State.modGroup_time (s : State) (g : Nat) (f : Group → Group) : (s.modGroup g f).time = s.time := rfl
@[simp] theorem State.modGroup_floor (s : State) (g : Nat) (f : Group → Group) : (s.modGroup g f).floor = s.floor := rfl
@[simp] theorem State.modGroup_host (s : State) (g : Nat) (f : Group → Group) : (s.modGroup g f).host = s.host := rfl
@[simp] theorem State.modGroup_sec (s : State) (g : Nat) (f : Group → Group) : (s.modGroup g f).sec = s.sec := rfl
@[simp] theorem State.modGroup_start (s : State) (g : Nat) (f : Group → Group) : (s.modGroup g f).start = s.start := rfl
@[simp] theorem State.modGroup_obs (s : State) (g : Nat) (f : Group → Group) : (s.modGroup g f).obs = s.obs := rfl
@[simp] theorem State.modGroup_pins (s : State) (g : Nat) (f : Group → Group) : (s.modGroup g f).pins = s.pins := rfl
@[simp] theorem State.modGroup_cueOrder (s : State) (g : Nat) (f : Group → Group) : (s.modGroup g f).cueOrder = s.cueOrder := rfl
@[simp] theorem State.modGroup_opSeq (s : State) (g : Nat) (f : Group → Group) : (s.modGroup g f).opSeq = s.opSeq := rfl

@[simp] theorem State.modBop_pending (s : State) (id : Nat) (f : BOp → BOp) : (s.modBop id f).pending = s.pending := rfl
@[simp] theorem State.modBop_build (s : State) (id : Nat) (f : BOp → BOp) : (s.modBop id f).build = s.build := rfl
@[simp] theorem State.modBop_freeCtr (s : State) (id : Nat) (f : BOp → BOp) : (s.modBop id f).freeCtr = s.freeCtr := rfl
@[simp] theorem State.modBop_mem (s : State) (id : Nat) (f : BOp → BOp) : (s.modBop id f).mem = s.mem := rfl
@[simp] theorem State.modBop_undef (s : State) (id : Nat) (f : BOp → BOp) : (s.modBop id f).undef = s.undef := rfl
@[simp] theorem State.modBop_poison (s : State) (id : Nat) (f : BOp → BOp) : (s.modBop id f).poison = s.poison := rfl
@[simp] theorem State.modBop_tiles (s : State) (id : Nat) (f : BOp → BOp) : (s.modBop id f).tiles = s.tiles := rfl
@[simp] theorem State.modBop_cores (s : State) (id : Nat) (f : BOp → BOp) : (s.modBop id f).cores = s.cores := rfl
@[simp] theorem State.modBop_reels (s : State) (id : Nat) (f : BOp → BOp) : (s.modBop id f).reels = s.reels := rfl
@[simp] theorem State.modBop_xl (s : State) (id : Nat) (f : BOp → BOp) : (s.modBop id f).xl = s.xl := rfl
@[simp] theorem State.modBop_cache (s : State) (id : Nat) (f : BOp → BOp) : (s.modBop id f).cache = s.cache := rfl
@[simp] theorem State.modBop_rep (s : State) (id : Nat) (f : BOp → BOp) : (s.modBop id f).rep = s.rep := rfl
@[simp] theorem State.modBop_links (s : State) (id : Nat) (f : BOp → BOp) : (s.modBop id f).links = s.links := rfl
@[simp] theorem State.modBop_pairs (s : State) (id : Nat) (f : BOp → BOp) : (s.modBop id f).pairs = s.pairs := rfl
@[simp] theorem State.modBop_pow (s : State) (id : Nat) (f : BOp → BOp) : (s.modBop id f).pow = s.pow := rfl
@[simp] theorem State.modBop_time (s : State) (id : Nat) (f : BOp → BOp) : (s.modBop id f).time = s.time := rfl
@[simp] theorem State.modBop_floor (s : State) (id : Nat) (f : BOp → BOp) : (s.modBop id f).floor = s.floor := rfl
@[simp] theorem State.modBop_host (s : State) (id : Nat) (f : BOp → BOp) : (s.modBop id f).host = s.host := rfl
@[simp] theorem State.modBop_sec (s : State) (id : Nat) (f : BOp → BOp) : (s.modBop id f).sec = s.sec := rfl
@[simp] theorem State.modBop_start (s : State) (id : Nat) (f : BOp → BOp) : (s.modBop id f).start = s.start := rfl
@[simp] theorem State.modBop_obs (s : State) (id : Nat) (f : BOp → BOp) : (s.modBop id f).obs = s.obs := rfl
@[simp] theorem State.modBop_pins (s : State) (id : Nat) (f : BOp → BOp) : (s.modBop id f).pins = s.pins := rfl
@[simp] theorem State.modBop_cueOrder (s : State) (id : Nat) (f : BOp → BOp) : (s.modBop id f).cueOrder = s.cueOrder := rfl
@[simp] theorem State.modBop_opSeq (s : State) (id : Nat) (f : BOp → BOp) : (s.modBop id f).opSeq = s.opSeq := rfl

@[simp] theorem State.dropBop_pending (s : State) (id : Nat) : (s.dropBop id).pending = s.pending := rfl
@[simp] theorem State.dropBop_build (s : State) (id : Nat) : (s.dropBop id).build = s.build := rfl
@[simp] theorem State.dropBop_freeCtr (s : State) (id : Nat) : (s.dropBop id).freeCtr = s.freeCtr := rfl
@[simp] theorem State.dropBop_mem (s : State) (id : Nat) : (s.dropBop id).mem = s.mem := rfl
@[simp] theorem State.dropBop_undef (s : State) (id : Nat) : (s.dropBop id).undef = s.undef := rfl
@[simp] theorem State.dropBop_poison (s : State) (id : Nat) : (s.dropBop id).poison = s.poison := rfl
@[simp] theorem State.dropBop_tiles (s : State) (id : Nat) : (s.dropBop id).tiles = s.tiles := rfl
@[simp] theorem State.dropBop_cores (s : State) (id : Nat) : (s.dropBop id).cores = s.cores := rfl
@[simp] theorem State.dropBop_reels (s : State) (id : Nat) : (s.dropBop id).reels = s.reels := rfl
@[simp] theorem State.dropBop_xl (s : State) (id : Nat) : (s.dropBop id).xl = s.xl := rfl
@[simp] theorem State.dropBop_cache (s : State) (id : Nat) : (s.dropBop id).cache = s.cache := rfl
@[simp] theorem State.dropBop_rep (s : State) (id : Nat) : (s.dropBop id).rep = s.rep := rfl
@[simp] theorem State.dropBop_links (s : State) (id : Nat) : (s.dropBop id).links = s.links := rfl
@[simp] theorem State.dropBop_pairs (s : State) (id : Nat) : (s.dropBop id).pairs = s.pairs := rfl
@[simp] theorem State.dropBop_pow (s : State) (id : Nat) : (s.dropBop id).pow = s.pow := rfl
@[simp] theorem State.dropBop_time (s : State) (id : Nat) : (s.dropBop id).time = s.time := rfl
@[simp] theorem State.dropBop_floor (s : State) (id : Nat) : (s.dropBop id).floor = s.floor := rfl
@[simp] theorem State.dropBop_host (s : State) (id : Nat) : (s.dropBop id).host = s.host := rfl
@[simp] theorem State.dropBop_sec (s : State) (id : Nat) : (s.dropBop id).sec = s.sec := rfl
@[simp] theorem State.dropBop_start (s : State) (id : Nat) : (s.dropBop id).start = s.start := rfl
@[simp] theorem State.dropBop_obs (s : State) (id : Nat) : (s.dropBop id).obs = s.obs := rfl
@[simp] theorem State.dropBop_pins (s : State) (id : Nat) : (s.dropBop id).pins = s.pins := rfl
@[simp] theorem State.dropBop_cueOrder (s : State) (id : Nat) : (s.dropBop id).cueOrder = s.cueOrder := rfl
@[simp] theorem State.dropBop_opSeq (s : State) (id : Nat) : (s.dropBop id).opSeq = s.opSeq := rfl

@[simp] theorem State.modDma_pending (s : State) (k : Nat) (f : Dma → Dma) : (s.modDma k f).pending = s.pending := rfl
@[simp] theorem State.modDma_build (s : State) (k : Nat) (f : Dma → Dma) : (s.modDma k f).build = s.build := rfl
@[simp] theorem State.modDma_freeCtr (s : State) (k : Nat) (f : Dma → Dma) : (s.modDma k f).freeCtr = s.freeCtr := rfl
@[simp] theorem State.modDma_mem (s : State) (k : Nat) (f : Dma → Dma) : (s.modDma k f).mem = s.mem := rfl
@[simp] theorem State.modDma_undef (s : State) (k : Nat) (f : Dma → Dma) : (s.modDma k f).undef = s.undef := rfl
@[simp] theorem State.modDma_poison (s : State) (k : Nat) (f : Dma → Dma) : (s.modDma k f).poison = s.poison := rfl
@[simp] theorem State.modDma_tiles (s : State) (k : Nat) (f : Dma → Dma) : (s.modDma k f).tiles = s.tiles := rfl
@[simp] theorem State.modDma_cores (s : State) (k : Nat) (f : Dma → Dma) : (s.modDma k f).cores = s.cores := rfl
@[simp] theorem State.modDma_reels (s : State) (k : Nat) (f : Dma → Dma) : (s.modDma k f).reels = s.reels := rfl
@[simp] theorem State.modDma_bank (s : State) (k : Nat) (f : Dma → Dma) : (s.modDma k f).bank = s.bank := rfl
@[simp] theorem State.modDma_xl (s : State) (k : Nat) (f : Dma → Dma) : (s.modDma k f).xl = s.xl := rfl
@[simp] theorem State.modDma_cache (s : State) (k : Nat) (f : Dma → Dma) : (s.modDma k f).cache = s.cache := rfl
@[simp] theorem State.modDma_rep (s : State) (k : Nat) (f : Dma → Dma) : (s.modDma k f).rep = s.rep := rfl
@[simp] theorem State.modDma_links (s : State) (k : Nat) (f : Dma → Dma) : (s.modDma k f).links = s.links := rfl
@[simp] theorem State.modDma_pairs (s : State) (k : Nat) (f : Dma → Dma) : (s.modDma k f).pairs = s.pairs := rfl
@[simp] theorem State.modDma_pow (s : State) (k : Nat) (f : Dma → Dma) : (s.modDma k f).pow = s.pow := rfl
@[simp] theorem State.modDma_time (s : State) (k : Nat) (f : Dma → Dma) : (s.modDma k f).time = s.time := rfl
@[simp] theorem State.modDma_floor (s : State) (k : Nat) (f : Dma → Dma) : (s.modDma k f).floor = s.floor := rfl
@[simp] theorem State.modDma_sec (s : State) (k : Nat) (f : Dma → Dma) : (s.modDma k f).sec = s.sec := rfl
@[simp] theorem State.modDma_start (s : State) (k : Nat) (f : Dma → Dma) : (s.modDma k f).start = s.start := rfl
@[simp] theorem State.modDma_obs (s : State) (k : Nat) (f : Dma → Dma) : (s.modDma k f).obs = s.obs := rfl
@[simp] theorem State.modDma_pins (s : State) (k : Nat) (f : Dma → Dma) : (s.modDma k f).pins = s.pins := rfl
@[simp] theorem State.modDma_cueOrder (s : State) (k : Nat) (f : Dma → Dma) : (s.modDma k f).cueOrder = s.cueOrder := rfl
@[simp] theorem State.modDma_opSeq (s : State) (k : Nat) (f : Dma → Dma) : (s.modDma k f).opSeq = s.opSeq := rfl

@[simp] theorem State.send_pending (s : State) (o : Out) : (s.send o).pending = s.pending := rfl
@[simp] theorem State.send_build (s : State) (o : Out) : (s.send o).build = s.build := rfl
@[simp] theorem State.send_freeCtr (s : State) (o : Out) : (s.send o).freeCtr = s.freeCtr := rfl
@[simp] theorem State.send_mem (s : State) (o : Out) : (s.send o).mem = s.mem := rfl
@[simp] theorem State.send_undef (s : State) (o : Out) : (s.send o).undef = s.undef := rfl
@[simp] theorem State.send_poison (s : State) (o : Out) : (s.send o).poison = s.poison := rfl
@[simp] theorem State.send_tiles (s : State) (o : Out) : (s.send o).tiles = s.tiles := rfl
@[simp] theorem State.send_cores (s : State) (o : Out) : (s.send o).cores = s.cores := rfl
@[simp] theorem State.send_reels (s : State) (o : Out) : (s.send o).reels = s.reels := rfl
@[simp] theorem State.send_bank (s : State) (o : Out) : (s.send o).bank = s.bank := rfl
@[simp] theorem State.send_xl (s : State) (o : Out) : (s.send o).xl = s.xl := rfl
@[simp] theorem State.send_cache (s : State) (o : Out) : (s.send o).cache = s.cache := rfl
@[simp] theorem State.send_rep (s : State) (o : Out) : (s.send o).rep = s.rep := rfl
@[simp] theorem State.send_links (s : State) (o : Out) : (s.send o).links = s.links := rfl
@[simp] theorem State.send_pairs (s : State) (o : Out) : (s.send o).pairs = s.pairs := rfl
@[simp] theorem State.send_pow (s : State) (o : Out) : (s.send o).pow = s.pow := rfl
@[simp] theorem State.send_time (s : State) (o : Out) : (s.send o).time = s.time := rfl
@[simp] theorem State.send_floor (s : State) (o : Out) : (s.send o).floor = s.floor := rfl
@[simp] theorem State.send_sec (s : State) (o : Out) : (s.send o).sec = s.sec := rfl
@[simp] theorem State.send_start (s : State) (o : Out) : (s.send o).start = s.start := rfl
@[simp] theorem State.send_obs (s : State) (o : Out) : (s.send o).obs = s.obs := rfl
@[simp] theorem State.send_pins (s : State) (o : Out) : (s.send o).pins = s.pins := rfl
@[simp] theorem State.send_cueOrder (s : State) (o : Out) : (s.send o).cueOrder = s.cueOrder := rfl
@[simp] theorem State.send_opSeq (s : State) (o : Out) : (s.send o).opSeq = s.opSeq := rfl

theorem State.modSeq_cases (s : State) (reel slot : Nat) (f : Seq → Seq) :
    s.modSeq reel slot f = s ∨ ∃ g : Reel → Reel, s.modSeq reel slot f = s.modReel reel g := by
  unfold State.modSeq
  split
  · exact .inl rfl
  · exact .inr ⟨_, rfl⟩

@[simp] theorem State.modSeq_pending (s : State) (reel slot : Nat) (f : Seq → Seq) : (s.modSeq reel slot f).pending = s.pending := by
  obtain h | ⟨g, h⟩ := s.modSeq_cases reel slot f <;> rw [h] <;> rfl
@[simp] theorem State.modSeq_build (s : State) (reel slot : Nat) (f : Seq → Seq) : (s.modSeq reel slot f).build = s.build := by
  obtain h | ⟨g, h⟩ := s.modSeq_cases reel slot f <;> rw [h] <;> rfl
@[simp] theorem State.modSeq_freeCtr (s : State) (reel slot : Nat) (f : Seq → Seq) : (s.modSeq reel slot f).freeCtr = s.freeCtr := by
  obtain h | ⟨g, h⟩ := s.modSeq_cases reel slot f <;> rw [h] <;> rfl
@[simp] theorem State.modSeq_mem (s : State) (reel slot : Nat) (f : Seq → Seq) : (s.modSeq reel slot f).mem = s.mem := by
  obtain h | ⟨g, h⟩ := s.modSeq_cases reel slot f <;> rw [h] <;> rfl
@[simp] theorem State.modSeq_undef (s : State) (reel slot : Nat) (f : Seq → Seq) : (s.modSeq reel slot f).undef = s.undef := by
  obtain h | ⟨g, h⟩ := s.modSeq_cases reel slot f <;> rw [h] <;> rfl
@[simp] theorem State.modSeq_poison (s : State) (reel slot : Nat) (f : Seq → Seq) : (s.modSeq reel slot f).poison = s.poison := by
  obtain h | ⟨g, h⟩ := s.modSeq_cases reel slot f <;> rw [h] <;> rfl
@[simp] theorem State.modSeq_tiles (s : State) (reel slot : Nat) (f : Seq → Seq) : (s.modSeq reel slot f).tiles = s.tiles := by
  obtain h | ⟨g, h⟩ := s.modSeq_cases reel slot f <;> rw [h] <;> rfl
@[simp] theorem State.modSeq_cores (s : State) (reel slot : Nat) (f : Seq → Seq) : (s.modSeq reel slot f).cores = s.cores := by
  obtain h | ⟨g, h⟩ := s.modSeq_cases reel slot f <;> rw [h] <;> rfl
@[simp] theorem State.modSeq_bank (s : State) (reel slot : Nat) (f : Seq → Seq) : (s.modSeq reel slot f).bank = s.bank := by
  obtain h | ⟨g, h⟩ := s.modSeq_cases reel slot f <;> rw [h] <;> rfl
@[simp] theorem State.modSeq_xl (s : State) (reel slot : Nat) (f : Seq → Seq) : (s.modSeq reel slot f).xl = s.xl := by
  obtain h | ⟨g, h⟩ := s.modSeq_cases reel slot f <;> rw [h] <;> rfl
@[simp] theorem State.modSeq_cache (s : State) (reel slot : Nat) (f : Seq → Seq) : (s.modSeq reel slot f).cache = s.cache := by
  obtain h | ⟨g, h⟩ := s.modSeq_cases reel slot f <;> rw [h] <;> rfl
@[simp] theorem State.modSeq_rep (s : State) (reel slot : Nat) (f : Seq → Seq) : (s.modSeq reel slot f).rep = s.rep := by
  obtain h | ⟨g, h⟩ := s.modSeq_cases reel slot f <;> rw [h] <;> rfl
@[simp] theorem State.modSeq_links (s : State) (reel slot : Nat) (f : Seq → Seq) : (s.modSeq reel slot f).links = s.links := by
  obtain h | ⟨g, h⟩ := s.modSeq_cases reel slot f <;> rw [h] <;> rfl
@[simp] theorem State.modSeq_pairs (s : State) (reel slot : Nat) (f : Seq → Seq) : (s.modSeq reel slot f).pairs = s.pairs := by
  obtain h | ⟨g, h⟩ := s.modSeq_cases reel slot f <;> rw [h] <;> rfl
@[simp] theorem State.modSeq_pow (s : State) (reel slot : Nat) (f : Seq → Seq) : (s.modSeq reel slot f).pow = s.pow := by
  obtain h | ⟨g, h⟩ := s.modSeq_cases reel slot f <;> rw [h] <;> rfl
@[simp] theorem State.modSeq_time (s : State) (reel slot : Nat) (f : Seq → Seq) : (s.modSeq reel slot f).time = s.time := by
  obtain h | ⟨g, h⟩ := s.modSeq_cases reel slot f <;> rw [h] <;> rfl
@[simp] theorem State.modSeq_floor (s : State) (reel slot : Nat) (f : Seq → Seq) : (s.modSeq reel slot f).floor = s.floor := by
  obtain h | ⟨g, h⟩ := s.modSeq_cases reel slot f <;> rw [h] <;> rfl
@[simp] theorem State.modSeq_host (s : State) (reel slot : Nat) (f : Seq → Seq) : (s.modSeq reel slot f).host = s.host := by
  obtain h | ⟨g, h⟩ := s.modSeq_cases reel slot f <;> rw [h] <;> rfl
@[simp] theorem State.modSeq_sec (s : State) (reel slot : Nat) (f : Seq → Seq) : (s.modSeq reel slot f).sec = s.sec := by
  obtain h | ⟨g, h⟩ := s.modSeq_cases reel slot f <;> rw [h] <;> rfl
@[simp] theorem State.modSeq_start (s : State) (reel slot : Nat) (f : Seq → Seq) : (s.modSeq reel slot f).start = s.start := by
  obtain h | ⟨g, h⟩ := s.modSeq_cases reel slot f <;> rw [h] <;> rfl
@[simp] theorem State.modSeq_obs (s : State) (reel slot : Nat) (f : Seq → Seq) : (s.modSeq reel slot f).obs = s.obs := by
  obtain h | ⟨g, h⟩ := s.modSeq_cases reel slot f <;> rw [h] <;> rfl
@[simp] theorem State.modSeq_pins (s : State) (reel slot : Nat) (f : Seq → Seq) : (s.modSeq reel slot f).pins = s.pins := by
  obtain h | ⟨g, h⟩ := s.modSeq_cases reel slot f <;> rw [h] <;> rfl
@[simp] theorem State.modSeq_cueOrder (s : State) (reel slot : Nat) (f : Seq → Seq) : (s.modSeq reel slot f).cueOrder = s.cueOrder := by
  obtain h | ⟨g, h⟩ := s.modSeq_cases reel slot f <;> rw [h] <;> rfl
@[simp] theorem State.modSeq_opSeq (s : State) (reel slot : Nat) (f : Seq → Seq) : (s.modSeq reel slot f).opSeq = s.opSeq := by
  obtain h | ⟨g, h⟩ := s.modSeq_cases reel slot f <;> rw [h] <;> rfl

/-! ### What is read back -/

@[simp] theorem State.tile_setTile (s : State) (t : Nat) (x : Tile) : (s.setTile t x).tile t = x := by simp [State.tile, State.setTile]
theorem State.tile_setTile_ne (s : State) (x : Tile) {t u : Nat} (h : u ≠ t) : (s.setTile t x).tile u = s.tile u := by
  simp [State.tile, State.setTile, mget_mput_ne _ _ _ h]
@[simp] theorem State.tile_modTile (s : State) (t : Nat) (f : Tile → Tile) : (s.modTile t f).tile t = f (s.tile t) := by
  simp [State.modTile]
theorem State.tile_modTile_ne (s : State) (f : Tile → Tile) {t u : Nat} (h : u ≠ t) : (s.modTile t f).tile u = s.tile u :=
  State.tile_setTile_ne s _ h
@[simp] theorem State.thread_setThread (s : State) (r : TRef) (x : Thread) : (s.setThread r x).thread r = x := by
  simp [State.thread, State.setThread]
@[simp] theorem State.thread_modThread (s : State) (r : TRef) (f : Thread → Thread) : (s.modThread r f).thread r = f (s.thread r) := by
  simp [State.modThread]
theorem State.thread_modThread_ne (s : State) (f : Thread → Thread) {r q : TRef} (h : q ≠ r) :
    (s.modThread r f).thread q = s.thread q := by
  simp only [State.modThread, State.setThread, State.thread]
  by_cases ht : q.tile = r.tile
  · have hn : q.th ≠ r.th := fun hn => h (by cases q; cases r; simp_all)
    rw [ht, State.tile_modTile]
    exact mget_mput_ne _ _ _ hn
  · rw [State.tile_modTile_ne _ _ ht]
/-- A change of one thread changes of the tile nothing but its threads. -/
theorem State.tile_modThread (s : State) (r : TRef) (f : Thread → Thread) :
    (s.modThread r f).tile r.tile = { s.tile r.tile with threads := mput (s.tile r.tile).threads r.th (f (s.thread r)) } := by
  simp [State.modThread, State.setThread]
theorem State.tile_modThread_ne (s : State) (f : Thread → Thread) {r : TRef} {u : Nat} (h : u ≠ r.tile) :
    (s.modThread r f).tile u = s.tile u := State.tile_modTile_ne s _ h
@[simp] theorem State.core_modCore (s : State) (p c : Nat) (f : Core → Core) : (s.modCore p c f).core p c = f (s.core p c) := by
  simp [State.core, State.modCore, State.setCore]
@[simp] theorem State.reel_modReel (s : State) (n : Nat) (f : Reel → Reel) : (s.modReel n f).reel n = f (s.reel n) := by
  simp [State.reel, State.modReel, State.setReel]
theorem State.reel_modReel_ne (s : State) (f : Reel → Reel) {n k : Nat} (h : k ≠ n) : (s.modReel n f).reel k = s.reel k := by
  simp [State.reel, State.modReel, State.setReel, mget_mput_ne _ _ _ h]
@[simp] theorem State.dom_modDom (s : State) (n : Nat) (f : Dom → Dom) : (s.modDom n f).dom n = f (s.dom n) := by
  simp [State.dom, State.modDom]
@[simp] theorem State.port_modPort (s : State) (n : Nat) (f : Port → Port) : (s.modPort n f).port n = f (s.port n) := by
  simp [State.port, State.modPort]
@[simp] theorem State.route_setRoute (s : State) (d : Nat) (x : Rt) : (s.setRoute d x).route d = x := by
  simp [State.route, State.setRoute]
@[simp] theorem State.split_modSplit (s : State) (k : Nat) (g : Split → Split) : (s.modSplit k g).split k = g (s.split k) := by
  simp [State.split, State.modSplit]
theorem State.split_modSplit_ne (s : State) (g : Split → Split) {k j : Nat} (h : j ≠ k) : (s.modSplit k g).split j = s.split j := by
  simp [State.split, State.modSplit, mget_mput_ne _ _ _ h]
@[simp] theorem State.group_modGroup (s : State) (g : Nat) (f : Group → Group) : (s.modGroup g f).group g = f (s.group g) := by
  simp [State.group, State.modGroup]
@[simp] theorem State.dma_modDma (s : State) (k : Nat) (f : Dma → Dma) : (s.modDma k f).dma k = f (s.dma k) := by
  simp [State.dma, State.modDma]

/-! ### Register files -/

/-- A scalar register written reads back; s0 discards the write. -/
theorem Thread.sreg_setS (t : Thread) (n k : Nat) (v : W64) :
    (t.setS n v).sreg k = if k = 0 then 0 else if k = n then v else t.sreg k := by
  unfold Thread.setS Thread.sreg
  by_cases hn : n = 0 <;> by_cases hk : k = 0 <;> by_cases h : k = n <;> simp_all [mget_mput_ne]
theorem Thread.vreg_setV (t : Thread) (n k : Nat) (v : VReg) : (t.setV n v).vreg k = if k = n then v else t.vreg k := by
  unfold Thread.setV Thread.vreg
  by_cases h : k = n <;> simp_all [mget_mput_ne]
theorem Thread.mreg_setM (t : Thread) (n k : Nat) (v : MReg) :
    (t.setM n v).mreg k = if k = 0 then BitVec.allOnes 128 else if k = n then v else t.mreg k := by
  unfold Thread.setM Thread.mreg
  by_cases hn : n = 0 <;> by_cases hk : k = 0 <;> by_cases h : k = n <;> simp_all [mget_mput_ne]
theorem Thread.dreg_setD (t : Thread) (n k : Nat) (v : DReg) : (t.setD n v).dreg k = if k = n then v else t.dreg k := by
  unfold Thread.setD Thread.dreg
  by_cases h : k = n <;> simp_all [mget_mput_ne]

@[simp] theorem Thread.setS_live (t : Thread) (n : Nat) (v : W64) : (t.setS n v).live = t.live := by unfold Thread.setS; split <;> rfl
@[simp] theorem Thread.setS_halted (t : Thread) (n : Nat) (v : W64) : (t.setS n v).halted = t.halted := by unfold Thread.setS; split <;> rfl
@[simp] theorem Thread.setS_dbgHalt (t : Thread) (n : Nat) (v : W64) : (t.setS n v).dbgHalt = t.dbgHalt := by unfold Thread.setS; split <;> rfl
@[simp] theorem Thread.setS_reel (t : Thread) (n : Nat) (v : W64) : (t.setS n v).reel = t.reel := by unfold Thread.setS; split <;> rfl
@[simp] theorem Thread.setS_slot (t : Thread) (n : Nat) (v : W64) : (t.setS n v).slot = t.slot := by unfold Thread.setS; split <;> rfl
@[simp] theorem Thread.setS_helper (t : Thread) (n : Nat) (v : W64) : (t.setS n v).helper = t.helper := by unfold Thread.setS; split <;> rfl
@[simp] theorem Thread.setS_pc (t : Thread) (n : Nat) (v : W64) : (t.setS n v).pc = t.pc := by unfold Thread.setS; split <;> rfl
@[simp] theorem Thread.setS_v (t : Thread) (n : Nat) (v : W64) : (t.setS n v).v = t.v := by unfold Thread.setS; split <;> rfl
@[simp] theorem Thread.setS_m (t : Thread) (n : Nat) (v : W64) : (t.setS n v).m = t.m := by unfold Thread.setS; split <;> rfl
@[simp] theorem Thread.setS_d (t : Thread) (n : Nat) (v : W64) : (t.setS n v).d = t.d := by unfold Thread.setS; split <;> rfl
@[simp] theorem Thread.setS_stby (t : Thread) (n : Nat) (v : W64) : (t.setS n v).stby = t.stby := by unfold Thread.setS; split <;> rfl
@[simp] theorem Thread.setS_haltm (t : Thread) (n : Nat) (v : W64) : (t.setS n v).haltm = t.haltm := by unfold Thread.setS; split <;> rfl
@[simp] theorem Thread.setS_last (t : Thread) (n : Nat) (v : W64) : (t.setS n v).last = t.last := by unfold Thread.setS; split <;> rfl
@[simp] theorem Thread.setS_first (t : Thread) (n : Nat) (v : W64) : (t.setS n v).first = t.first := by unfold Thread.setS; split <;> rfl
@[simp] theorem Thread.setS_fv (t : Thread) (n : Nat) (v : W64) : (t.setS n v).fv = t.fv := by unfold Thread.setS; split <;> rfl
@[simp] theorem Thread.setS_flags (t : Thread) (n : Nat) (v : W64) : (t.setS n v).flags = t.flags := by unfold Thread.setS; split <;> rfl
@[simp] theorem Thread.setS_toks (t : Thread) (n : Nat) (v : W64) : (t.setS n v).toks = t.toks := by unfold Thread.setS; split <;> rfl
@[simp] theorem Thread.setS_held (t : Thread) (n : Nat) (v : W64) : (t.setS n v).held = t.held := by unfold Thread.setS; split <;> rfl
@[simp] theorem Thread.setS_wait (t : Thread) (n : Nat) (v : W64) : (t.setS n v).wait = t.wait := by unfold Thread.setS; split <;> rfl
@[simp] theorem Thread.setS_fetched (t : Thread) (n : Nat) (v : W64) : (t.setS n v).fetched = t.fetched := by unfold Thread.setS; split <;> rfl
@[simp] theorem Thread.setS_stream (t : Thread) (n : Nat) (v : W64) : (t.setS n v).stream = t.stream := by unfold Thread.setS; split <;> rfl
@[simp] theorem Thread.setS_fetchPage (t : Thread) (n : Nat) (v : W64) : (t.setS n v).fetchPage = t.fetchPage := by unfold Thread.setS; split <;> rfl
@[simp] theorem Thread.setS_fetchFill (t : Thread) (n : Nat) (v : W64) : (t.setS n v).fetchFill = t.fetchFill := by unfold Thread.setS; split <;> rfl
@[simp] theorem Thread.setS_desc (t : Thread) (n : Nat) (v : W64) : (t.setS n v).desc = t.desc := by unfold Thread.setS; split <;> rfl
@[simp] theorem Thread.setS_descRead (t : Thread) (n : Nat) (v : W64) : (t.setS n v).descRead = t.descRead := by unfold Thread.setS; split <;> rfl
@[simp] theorem Thread.setM_live (t : Thread) (n : Nat) (v : MReg) : (t.setM n v).live = t.live := by unfold Thread.setM; split <;> rfl
@[simp] theorem Thread.setM_halted (t : Thread) (n : Nat) (v : MReg) : (t.setM n v).halted = t.halted := by unfold Thread.setM; split <;> rfl
@[simp] theorem Thread.setM_dbgHalt (t : Thread) (n : Nat) (v : MReg) : (t.setM n v).dbgHalt = t.dbgHalt := by unfold Thread.setM; split <;> rfl
@[simp] theorem Thread.setM_reel (t : Thread) (n : Nat) (v : MReg) : (t.setM n v).reel = t.reel := by unfold Thread.setM; split <;> rfl
@[simp] theorem Thread.setM_slot (t : Thread) (n : Nat) (v : MReg) : (t.setM n v).slot = t.slot := by unfold Thread.setM; split <;> rfl
@[simp] theorem Thread.setM_helper (t : Thread) (n : Nat) (v : MReg) : (t.setM n v).helper = t.helper := by unfold Thread.setM; split <;> rfl
@[simp] theorem Thread.setM_pc (t : Thread) (n : Nat) (v : MReg) : (t.setM n v).pc = t.pc := by unfold Thread.setM; split <;> rfl
@[simp] theorem Thread.setM_s (t : Thread) (n : Nat) (v : MReg) : (t.setM n v).s = t.s := by unfold Thread.setM; split <;> rfl
@[simp] theorem Thread.setM_v (t : Thread) (n : Nat) (v : MReg) : (t.setM n v).v = t.v := by unfold Thread.setM; split <;> rfl
@[simp] theorem Thread.setM_d (t : Thread) (n : Nat) (v : MReg) : (t.setM n v).d = t.d := by unfold Thread.setM; split <;> rfl
@[simp] theorem Thread.setM_stby (t : Thread) (n : Nat) (v : MReg) : (t.setM n v).stby = t.stby := by unfold Thread.setM; split <;> rfl
@[simp] theorem Thread.setM_haltm (t : Thread) (n : Nat) (v : MReg) : (t.setM n v).haltm = t.haltm := by unfold Thread.setM; split <;> rfl
@[simp] theorem Thread.setM_last (t : Thread) (n : Nat) (v : MReg) : (t.setM n v).last = t.last := by unfold Thread.setM; split <;> rfl
@[simp] theorem Thread.setM_first (t : Thread) (n : Nat) (v : MReg) : (t.setM n v).first = t.first := by unfold Thread.setM; split <;> rfl
@[simp] theorem Thread.setM_fv (t : Thread) (n : Nat) (v : MReg) : (t.setM n v).fv = t.fv := by unfold Thread.setM; split <;> rfl
@[simp] theorem Thread.setM_flags (t : Thread) (n : Nat) (v : MReg) : (t.setM n v).flags = t.flags := by unfold Thread.setM; split <;> rfl
@[simp] theorem Thread.setM_toks (t : Thread) (n : Nat) (v : MReg) : (t.setM n v).toks = t.toks := by unfold Thread.setM; split <;> rfl
@[simp] theorem Thread.setM_held (t : Thread) (n : Nat) (v : MReg) : (t.setM n v).held = t.held := by unfold Thread.setM; split <;> rfl
@[simp] theorem Thread.setM_wait (t : Thread) (n : Nat) (v : MReg) : (t.setM n v).wait = t.wait := by unfold Thread.setM; split <;> rfl
@[simp] theorem Thread.setM_fetched (t : Thread) (n : Nat) (v : MReg) : (t.setM n v).fetched = t.fetched := by unfold Thread.setM; split <;> rfl
@[simp] theorem Thread.setM_stream (t : Thread) (n : Nat) (v : MReg) : (t.setM n v).stream = t.stream := by unfold Thread.setM; split <;> rfl
@[simp] theorem Thread.setM_fetchPage (t : Thread) (n : Nat) (v : MReg) : (t.setM n v).fetchPage = t.fetchPage := by unfold Thread.setM; split <;> rfl
@[simp] theorem Thread.setM_fetchFill (t : Thread) (n : Nat) (v : MReg) : (t.setM n v).fetchFill = t.fetchFill := by unfold Thread.setM; split <;> rfl
@[simp] theorem Thread.setM_desc (t : Thread) (n : Nat) (v : MReg) : (t.setM n v).desc = t.desc := by unfold Thread.setM; split <;> rfl
@[simp] theorem Thread.setM_descRead (t : Thread) (n : Nat) (v : MReg) : (t.setM n v).descRead = t.descRead := by unfold Thread.setM; split <;> rfl
@[simp] theorem Thread.setV_live (t : Thread) (n : Nat) (v : VReg) : (t.setV n v).live = t.live := rfl
@[simp] theorem Thread.setV_halted (t : Thread) (n : Nat) (v : VReg) : (t.setV n v).halted = t.halted := rfl
@[simp] theorem Thread.setV_dbgHalt (t : Thread) (n : Nat) (v : VReg) : (t.setV n v).dbgHalt = t.dbgHalt := rfl
@[simp] theorem Thread.setV_reel (t : Thread) (n : Nat) (v : VReg) : (t.setV n v).reel = t.reel := rfl
@[simp] theorem Thread.setV_slot (t : Thread) (n : Nat) (v : VReg) : (t.setV n v).slot = t.slot := rfl
@[simp] theorem Thread.setV_helper (t : Thread) (n : Nat) (v : VReg) : (t.setV n v).helper = t.helper := rfl
@[simp] theorem Thread.setV_pc (t : Thread) (n : Nat) (v : VReg) : (t.setV n v).pc = t.pc := rfl
@[simp] theorem Thread.setV_s (t : Thread) (n : Nat) (v : VReg) : (t.setV n v).s = t.s := rfl
@[simp] theorem Thread.setV_m (t : Thread) (n : Nat) (v : VReg) : (t.setV n v).m = t.m := rfl
@[simp] theorem Thread.setV_d (t : Thread) (n : Nat) (v : VReg) : (t.setV n v).d = t.d := rfl
@[simp] theorem Thread.setV_stby (t : Thread) (n : Nat) (v : VReg) : (t.setV n v).stby = t.stby := rfl
@[simp] theorem Thread.setV_haltm (t : Thread) (n : Nat) (v : VReg) : (t.setV n v).haltm = t.haltm := rfl
@[simp] theorem Thread.setV_last (t : Thread) (n : Nat) (v : VReg) : (t.setV n v).last = t.last := rfl
@[simp] theorem Thread.setV_first (t : Thread) (n : Nat) (v : VReg) : (t.setV n v).first = t.first := rfl
@[simp] theorem Thread.setV_fv (t : Thread) (n : Nat) (v : VReg) : (t.setV n v).fv = t.fv := rfl
@[simp] theorem Thread.setV_flags (t : Thread) (n : Nat) (v : VReg) : (t.setV n v).flags = t.flags := rfl
@[simp] theorem Thread.setV_toks (t : Thread) (n : Nat) (v : VReg) : (t.setV n v).toks = t.toks := rfl
@[simp] theorem Thread.setV_held (t : Thread) (n : Nat) (v : VReg) : (t.setV n v).held = t.held := rfl
@[simp] theorem Thread.setV_wait (t : Thread) (n : Nat) (v : VReg) : (t.setV n v).wait = t.wait := rfl
@[simp] theorem Thread.setV_fetched (t : Thread) (n : Nat) (v : VReg) : (t.setV n v).fetched = t.fetched := rfl
@[simp] theorem Thread.setV_stream (t : Thread) (n : Nat) (v : VReg) : (t.setV n v).stream = t.stream := rfl
@[simp] theorem Thread.setV_fetchPage (t : Thread) (n : Nat) (v : VReg) : (t.setV n v).fetchPage = t.fetchPage := rfl
@[simp] theorem Thread.setV_fetchFill (t : Thread) (n : Nat) (v : VReg) : (t.setV n v).fetchFill = t.fetchFill := rfl
@[simp] theorem Thread.setV_desc (t : Thread) (n : Nat) (v : VReg) : (t.setV n v).desc = t.desc := rfl
@[simp] theorem Thread.setV_descRead (t : Thread) (n : Nat) (v : VReg) : (t.setV n v).descRead = t.descRead := rfl
@[simp] theorem Thread.setD_live (t : Thread) (n : Nat) (v : DReg) : (t.setD n v).live = t.live := rfl
@[simp] theorem Thread.setD_halted (t : Thread) (n : Nat) (v : DReg) : (t.setD n v).halted = t.halted := rfl
@[simp] theorem Thread.setD_dbgHalt (t : Thread) (n : Nat) (v : DReg) : (t.setD n v).dbgHalt = t.dbgHalt := rfl
@[simp] theorem Thread.setD_reel (t : Thread) (n : Nat) (v : DReg) : (t.setD n v).reel = t.reel := rfl
@[simp] theorem Thread.setD_slot (t : Thread) (n : Nat) (v : DReg) : (t.setD n v).slot = t.slot := rfl
@[simp] theorem Thread.setD_helper (t : Thread) (n : Nat) (v : DReg) : (t.setD n v).helper = t.helper := rfl
@[simp] theorem Thread.setD_pc (t : Thread) (n : Nat) (v : DReg) : (t.setD n v).pc = t.pc := rfl
@[simp] theorem Thread.setD_s (t : Thread) (n : Nat) (v : DReg) : (t.setD n v).s = t.s := rfl
@[simp] theorem Thread.setD_v (t : Thread) (n : Nat) (v : DReg) : (t.setD n v).v = t.v := rfl
@[simp] theorem Thread.setD_m (t : Thread) (n : Nat) (v : DReg) : (t.setD n v).m = t.m := rfl
@[simp] theorem Thread.setD_stby (t : Thread) (n : Nat) (v : DReg) : (t.setD n v).stby = t.stby := rfl
@[simp] theorem Thread.setD_haltm (t : Thread) (n : Nat) (v : DReg) : (t.setD n v).haltm = t.haltm := rfl
@[simp] theorem Thread.setD_last (t : Thread) (n : Nat) (v : DReg) : (t.setD n v).last = t.last := rfl
@[simp] theorem Thread.setD_first (t : Thread) (n : Nat) (v : DReg) : (t.setD n v).first = t.first := rfl
@[simp] theorem Thread.setD_fv (t : Thread) (n : Nat) (v : DReg) : (t.setD n v).fv = t.fv := rfl
@[simp] theorem Thread.setD_flags (t : Thread) (n : Nat) (v : DReg) : (t.setD n v).flags = t.flags := rfl
@[simp] theorem Thread.setD_toks (t : Thread) (n : Nat) (v : DReg) : (t.setD n v).toks = t.toks := rfl
@[simp] theorem Thread.setD_held (t : Thread) (n : Nat) (v : DReg) : (t.setD n v).held = t.held := rfl
@[simp] theorem Thread.setD_wait (t : Thread) (n : Nat) (v : DReg) : (t.setD n v).wait = t.wait := rfl
@[simp] theorem Thread.setD_fetched (t : Thread) (n : Nat) (v : DReg) : (t.setD n v).fetched = t.fetched := rfl
@[simp] theorem Thread.setD_stream (t : Thread) (n : Nat) (v : DReg) : (t.setD n v).stream = t.stream := rfl
@[simp] theorem Thread.setD_fetchPage (t : Thread) (n : Nat) (v : DReg) : (t.setD n v).fetchPage = t.fetchPage := rfl
@[simp] theorem Thread.setD_fetchFill (t : Thread) (n : Nat) (v : DReg) : (t.setD n v).fetchFill = t.fetchFill := rfl
@[simp] theorem Thread.setD_desc (t : Thread) (n : Nat) (v : DReg) : (t.setD n v).desc = t.desc := rfl
@[simp] theorem Thread.setD_descRead (t : Thread) (n : Nat) (v : DReg) : (t.setD n v).descRead = t.descRead := rfl

end Sys2Proof.Machine
end

