-- ==== Sys2Proof/Laws/Issue.lean ====
section
/-! SUPPORT. What the issue and the completion of an instruction can do: one lemma for each shared operation. -/
namespace Sys2Proof.Machine

/-- Two changes of one tile are one. -/
@[simp] theorem State.modTile_modTile (s : State) (n : Nat) (f g : Tile → Tile) :
    (s.modTile n f).modTile n g = s.modTile n (fun T => g (f T)) := by
  simp only [State.modTile, State.tile_setTile]
  simp [State.setTile]

/-- Two changes of one thread are one. -/
@[simp] theorem State.modThread_modThread (s : State) (r : TRef) (f g : Thread → Thread) :
    (s.modThread r f).modThread r g = s.modThread r (fun t => g (f t)) := by
  have h : (s.modThread r f).modThread r g = (s.modThread r f).setThread r (g (f (s.thread r))) := by
    simp only [State.modThread, State.thread_setThread]
  rw [h]
  simp [State.modThread, State.setThread]

@[simp] theorem Thread.record_ok (t : Thread) : t.record 0 = { t with last := 0 } := rfl

/-- Completion with success goes on at `pc`. -/
theorem finishAt_ok (r : TRef) (b : Bool) (n : Nat) (pc : W64) (s : State) :
    finishAt r stOk b n pc s = s.modThread r (fun t => t.completed 0 n pc) := by
  simp [finishAt, stOk, Thread.completed]

theorem finish_ok (r : TRef) (x : Option W64) (s : State) :
    finish r x stOk s = s.modThread r (fun t => t.completed 0 (lenOf x) ((s.thread r).after x)) :=
  finishAt_ok ..

/-- Completion with success after a change of the thread. -/
theorem finishWith_eq (r : TRef) (x : Option W64) (f : Thread → Thread) (s : State) :
    finishWith r x f s = s.modThread r (fun t => (f t).completed 0 (lenOf x) ((f (s.thread r)).after x)) := by
  simp [finishWith, finish_ok]

/-- Completion with a status that halts nobody. -/
theorem finishAt_goesOn (r : TRef) (st : Status) (n : Nat) (pc : W64) (s : State) (h : (s.thread r).haltsOn st = false) :
    finishAt r st false n pc s = s.modThread r (fun t => t.completed st n pc) := by
  simp [finishAt, h, Thread.completed]

theorem finish_goesOn (r : TRef) (x : Option W64) (st : Status) (s : State) (h : (s.thread r).haltsOn st = false) :
    finish r x st s = s.modThread r (fun t => t.completed st (lenOf x) ((s.thread r).after x)) :=
  finishAt_goesOn _ _ _ _ _ h

@[simp] theorem Thread.completed_held (t : Thread) (st : Status) (n : Nat) (pc : W64) : (t.completed st n pc).held = none := rfl

theorem Tile.tableByte_congr (T U : Tile) (o : Nat) (h0 : U.rt0 = T.rt0) (h1 : U.rt1 = T.rt1) (h2 : U.cb0 = T.cb0)
    (h3 : U.cb1 = T.cb1) (h4 : U.rtActive = T.rtActive) (h5 : U.cbActive = T.cbActive) : U.tableByte o = T.tableByte o := by
  simp [Tile.tableByte, Tile.rtShadow, Tile.cbShadow, h0, h1, h2, h3, h4, h5]

/-- Bytes depend on memory, its undefined ranges and the tables of tiles alone. -/
theorem sameBytes_of (s t : State) (hm : t.mem = s.mem) (hu : t.undef = s.undef)
    (ht : ∀ n o, (t.tile n).tableByte o = (s.tile n).tableByte o) : sameBytes s t := by
  intro a
  simp [State.byte, State.unlisted, hm, hu, ht]

/-- What the grant of an issue slot does to the device. -/
theorem granted_eq (r : TRef) (s : State) :
    granted r s = s.modTile r.tile (fun T => { T with lastIssue := r.th, fix := if s.counting then bump T.fix 1 1 else T.fix }) := by
  have hc : (s.modTile r.tile (fun T => { T with lastIssue := r.th })).counting = s.counting := rfl
  by_cases h : s.counting = true <;> simp [granted, cntFix, hc, h]

/-- What an instruction that issues and changes its thread alone does. -/
theorem modThread_only (r : TRef) (f : Thread → Thread) (s : State) :
    onlyThread r (f (s.thread r)) s (granted r (s.modThread r f)) := by
  have hc : (s.modThread r f).counting = s.counting := rfl
  have e := granted_eq r (s.modThread r f)
  rw [hc] at e
  have ht : (granted r (s.modThread r f)).tile r.tile =
      { s.tile r.tile with threads := mput (s.tile r.tile).threads r.th (f (s.thread r)), lastIssue := r.th, fix := issuedFix s r.tile } := by
    rw [e, State.tile_modTile, State.tile_modThread]
    rfl
  have hne : ∀ k, k ≠ r.tile → (granted r (s.modThread r f)).tile k = s.tile k := by
    intro k hk
    rw [e, State.tile_modTile_ne _ _ hk, State.tile_modThread_ne _ _ hk]
  refine ⟨⟨?_, hne⟩, ?_, ?_, ?_, ?_⟩
  · rw [onlyTiles, e]; rfl
  · rw [ht]
  · intro n hn
    simp only [State.thread, ht]
    exact mget_mput_ne _ _ _ hn
  · simp [State.thread, ht]
  · refine sameBytes_of _ _ (by rw [e]; rfl) (by rw [e]; rfl) ?_
    intro n o
    by_cases hn : n = r.tile
    · subst hn; rw [ht]; exact Tile.tableByte_congr _ _ _ rfl rfl rfl rfl rfl rfl
    · rw [hne _ hn]

/-- An instruction of a ready thread whose work changes its thread alone issues, is counted, and changes nothing else. -/
theorem issue_only (r : TRef) (i : Instr) (regs : List Reg) (k : State → State) (f : Thread → Thread) (s : State)
    (hr : ready s r regs = true) (hk : k s = s.modThread r f) (hh : (f (s.thread r)).held = none) :
    onlyThread r (f (s.thread r)) s (issue r i regs k s) := by
  simp only [ready, Bool.and_eq_true, Bool.not_eq_true'] at hr
  have : issue r i regs k s = granted r (s.modThread r f) := by
    simp [issue, hr.1, hr.2, hk, hh]
  rw [this]
  exact modThread_only r f s

/-- Such an instruction of both profiles, issued by a tile thread. -/
theorem both_only (r : TRef) (i : Instr) (x : Option W64) (xOk : Bool) (regs : List Reg) (k : TRef → State → State)
    (kc : Nat → Nat → State → State) (f : Thread → Thread) (s : State) (hx : xOk = true) (hr : ready s r regs = true)
    (hk : k r s = s.modThread r f) (hh : (f (s.thread r)).held = none) :
    ∃ t, both (.t r) i x xOk regs k kc s = .next t ∧ onlyThread r (f (s.thread r)) s t := by
  subst hx
  exact ⟨_, rfl, issue_only r i regs _ f s hr hk hh⟩

/-- Such an instruction of Idmon-T alone. -/
theorem tOnly_only (r : TRef) (i : Instr) (x : Option W64) (xOk : Bool) (regs : List Reg) (k : TRef → State → State)
    (f : Thread → Thread) (s : State) (hx : xOk = true) (hr : ready s r regs = true)
    (hk : k r s = s.modThread r f) (hh : (f (s.thread r)).held = none) :
    ∃ t, tOnly (.t r) i x xOk regs k s = .next t ∧ onlyThread r (f (s.thread r)) s t := by
  subst hx
  exact ⟨_, rfl, issue_only r i regs _ f s hr hk hh⟩

/-- A core's instruction changes its core alone. -/
theorem modCore_only (p c : Nat) (f : Core → Core) (s : State) : onlyCore p c (f (s.core p c)) s (s.modCore p c f) := by
  refine ⟨rfl, ?_, by simp, sameBytes_of _ _ rfl rfl (fun _ _ => rfl)⟩
  intro k hk
  exact mget_mput_ne _ _ _ hk

end Sys2Proof.Machine
end

