-- ==== Sys2Proof/Laws/Memory.lean ====
section
/-! SUPPORT. Memory: every operation over it keeps its one canonical form, and what a byte reads as after a write. -/
namespace Sys2Proof.Machine

/-! ### The sparse list -/

theorem memWfFrom_mono (keep : Nat → Bool) (m : List Host.Cell) {lo lo' : Nat} (h : lo' ≤ lo) (w : memWfFrom keep lo m = true) :
    memWfFrom keep lo' m = true := by
  cases m with
  | nil => rfl
  | cons p m =>
    simp only [memWfFrom, Bool.and_eq_true, decide_eq_true_eq] at w ⊢
    exact ⟨⟨by omega, w.1.2⟩, w.2⟩

/-- One byte written keeps the form. -/
theorem memWfFrom_memPut (keep : Nat → Bool) (m : List Host.Cell) (lo a : Nat) (b : Byte) (ha : lo ≤ a)
    (w : memWfFrom keep lo m = true) : memWfFrom keep lo (memPut (keep a) m a b) = true := by
  induction m generalizing lo with
  | nil =>
    simp only [memPut]
    split
    · rfl
    · rename_i h
      simp only [memWfFrom, Bool.and_eq_true, decide_eq_true_eq, and_true]
      refine ⟨ha, ?_⟩
      cases hb : (b == memDefault) <;> cases hk : keep a <;> simp_all
  | cons p m ih =>
    have w0 := w
    simp only [memWfFrom, Bool.and_eq_true, decide_eq_true_eq] at w
    simp only [memPut]
    split
    · split
      · exact w0
      · rename_i hlt h
        simp only [memWfFrom, Bool.and_eq_true, decide_eq_true_eq]
        refine ⟨⟨ha, ?_⟩, ⟨by omega, w.1.2⟩, w.2⟩
        cases hb : (b == memDefault) <;> cases hk : keep a <;> simp_all
    · rename_i hlt
      by_cases he : (a == p.1) = true
      · have hap : a = p.1 := by simpa using he
        rw [if_pos he]
        split
        · exact memWfFrom_mono keep m (by omega) w.2
        · rename_i h
          simp only [memWfFrom, Bool.and_eq_true, decide_eq_true_eq]
          refine ⟨⟨ha, ?_⟩, ?_⟩
          · cases hb : (b == memDefault) <;> cases hk : keep a <;> simp_all
          · rw [hap]; exact w.2
      · have hne : a ≠ p.1 := by simpa using he
        rw [if_neg he]
        simp only [memWfFrom, Bool.and_eq_true, decide_eq_true_eq]
        exact ⟨w.1, ih (p.1 + 1) (by omega) w.2⟩

theorem memWfFrom_memPutAll (keep : Nat → Bool) (bs : List Byte) (m : List Host.Cell) (a : Nat) (w : memWfFrom keep 0 m = true) :
    memWfFrom keep 0 (memPutAll keep m a bs) = true := by
  induction bs generalizing m a with
  | nil => exact w
  | cons b bs ih => exact ih _ _ (memWfFrom_memPut keep m 0 a b (Nat.zero_le a) w)

/-- Cells taken out keep the form, under any reading of unlisted bytes that agrees on the cells that stay. -/
theorem memWfFrom_filter (keep keep' : Nat → Bool) (q : Host.Cell → Bool) (h : ∀ c : Host.Cell, q c = true → keep c.1 = true → keep' c.1 = true)
    (m : List Host.Cell) (lo : Nat) (w : memWfFrom keep lo m = true) : memWfFrom keep' lo (m.filter q) = true := by
  induction m generalizing lo with
  | nil => rfl
  | cons p m ih =>
    simp only [memWfFrom, Bool.and_eq_true, decide_eq_true_eq] at w
    by_cases hq : q p = true
    · rw [List.filter_cons_of_pos hq]
      simp only [memWfFrom, Bool.and_eq_true, decide_eq_true_eq, Bool.or_eq_true]
      refine ⟨⟨w.1.1, ?_⟩, ih _ w.2⟩
      have := w.1.2
      simp only [Bool.or_eq_true] at this
      exact this.imp id (h p hq)
    · rw [List.filter_cons_of_neg hq]
      exact memWfFrom_mono keep' _ (by omega) (ih _ w.2)

/-! ### The operations -/

/-- Memory depends on its list and on what is said of unlisted bytes alone. -/
theorem State.Inv_of (s t : State) (hm : t.mem = s.mem) (hu : t.undef = s.undef) (h : s.Inv) : t.Inv := by
  simp only [State.Inv, Memory.wf, hm, hu] at h ⊢
  exact h

theorem State.Inv_mark (s : State) (o n : Nat) (h : s.Inv) : (s.mark o n).Inv := State.Inv_of s _ rfl rfl h
theorem State.Inv_unmark (s : State) (o n : Nat) (h : s.Inv) : (s.unmark o n).Inv := State.Inv_of s _ rfl rfl h
theorem State.Inv_send (s : State) (o : Out) (h : s.Inv) : (s.send o).Inv := State.Inv_of s _ rfl rfl h
theorem State.Inv_modTile (s : State) (n : Nat) (f : Tile → Tile) (h : s.Inv) : (s.modTile n f).Inv := State.Inv_of s _ rfl rfl h
theorem State.Inv_modThread (s : State) (r : TRef) (f : Thread → Thread) (h : s.Inv) : (s.modThread r f).Inv := State.Inv_of s _ rfl rfl h
theorem State.Inv_modCore (s : State) (p c : Nat) (f : Core → Core) (h : s.Inv) : (s.modCore p c f).Inv := State.Inv_of s _ rfl rfl h

/-- A store keeps the form. -/
theorem State.Inv_put (s : State) (o : Nat) (bs : List Byte) (h : s.Inv) : (s.put o bs).Inv := by
  simp only [State.put]
  split
  · exact State.Inv_modTile s _ _ h
  · refine State.Inv_unmark _ _ _ ?_
    simp only [State.Inv, Memory.wf] at h ⊢
    exact memWfFrom_memPutAll _ bs s.mem o h

theorem State.Inv_putWord (s : State) (o : Nat) (w : W64) (h : s.Inv) : (s.putWord o w).Inv := State.Inv_put s o _ h

/-- Outside a range, what is said of unlisted bytes stands as it was. -/
theorem undefAt_cons_outside (u : List (Nat × Nat × Option Nat)) (o n : Nat) (k : Option Nat) (a : Nat) (h : a < o ∨ o + n ≤ a) :
    undefAt ((o, n, k) :: u) a = undefAt u a := by
  simp only [undefAt]
  rw [if_neg]
  simp only [Bool.and_eq_true, decide_eq_true_eq]
  omega

theorem State.Inv_undefine (s : State) (o n : Nat) (h : s.Inv) : (s.undefine o n).Inv := by
  simp only [State.Inv, Memory.wf, State.undefine] at h ⊢
  refine memWfFrom_filter _ _ _ ?_ s.mem 0 h
  intro c hq hk
  simp only [Bool.or_eq_true, decide_eq_true_eq] at hq
  rw [undefAt_cons_outside _ _ _ _ _ hq]
  exact hk

theorem State.Inv_zero (s : State) (o n : Nat) (h : s.Inv) : (s.zero o n).Inv := by
  refine State.Inv_unmark _ _ _ ?_
  simp only [State.Inv, Memory.wf] at h ⊢
  refine memWfFrom_filter _ _ _ ?_ s.mem 0 h
  intro c hq hk
  simp only [Bool.or_eq_true, decide_eq_true_eq] at hq
  split
  · rename_i he
    have : s.undef = [] := by simpa using he
    rw [this] at hk
    exact hk
  · rw [undefAt_cons_outside _ _ _ _ _ hq]
    exact hk

/-! ### Reading after writing -/

theorem memFind_below (keep : Nat → Bool) (m : List Host.Cell) (lo a : Nat) (h : a < lo) (w : memWfFrom keep lo m = true) : memFind m a = none := by
  induction m generalizing lo with
  | nil => rfl
  | cons p m ih =>
    simp only [memWfFrom, Bool.and_eq_true, decide_eq_true_eq] at w
    have : (p.1 == a) = false := by simp; omega
    simp only [memFind, this]
    exact ih (p.1 + 1) (by omega) w.2

theorem memFind_memPut_ne (keep : Bool) (m : List Host.Cell) (a c : Nat) (b : Byte) (h : c ≠ a) :
    memFind (memPut keep m a b) c = memFind m c := by
  have hac : (a == c) = false := by simp; omega
  induction m with
  | nil => simp only [memPut]; split <;> simp [memFind, hac]
  | cons p m ih =>
    simp only [memPut]
    split
    · split <;> simp [memFind, hac]
    · split
      · rename_i he
        have hpc : (p.1 == c) = false := by
          have : a = p.1 := by simpa using he
          rw [← this]; exact hac
        split <;> simp [memFind, hac, hpc]
      · simp [memFind, ih]

/-- The byte written is found, or it is the default of an address that needs no entry. -/
theorem memFind_memPut_same (keep : Nat → Bool) (m : List Host.Cell) (lo a : Nat) (b : Byte) (w : memWfFrom keep lo m = true) :
    memFind (memPut (keep a) m a b) a = if b == memDefault && !keep a then none else some b := by
  induction m generalizing lo with
  | nil => simp only [memPut]; split <;> simp [memFind]
  | cons p m ih =>
    have w0 := w
    simp only [memWfFrom, Bool.and_eq_true, decide_eq_true_eq] at w
    simp only [memPut]
    split
    · rename_i hlt
      split
      · exact memFind_below keep _ p.1 a hlt (by simp only [memWfFrom, Bool.and_eq_true, decide_eq_true_eq]; exact ⟨⟨Nat.le_refl _, w.1.2⟩, w.2⟩)
      · simp [memFind]
    · split
      · rename_i he
        have hap : a = p.1 := by simpa using he
        split
        · exact memFind_below keep m (p.1 + 1) a (by omega) w.2
        · simp [memFind]
      · rename_i he
        have hpa : (p.1 == a) = false := by
          have : a ≠ p.1 := by simpa using he
          simp; omega
        simp only [memFind, hpa]
        exact ih (p.1 + 1) w.2

/-- What the list says of an address, with the reading of unlisted ones. -/
def memRead (u : Nat → Byte) (m : List Host.Cell) (a : Nat) : Byte := (memFind m a).getD (u a)

/-- After a write of a list of bytes each address of the range reads its byte, and every other address as before. -/
theorem memRead_memPutAll (keep : Nat → Bool) (u : Nat → Byte) (hu : ∀ a, keep a = false → u a = memDefault) (bs : List Byte)
    (m : List Host.Cell) (o a : Nat) (w : memWfFrom keep 0 m = true) :
    memRead u (memPutAll keep m o bs) a = if o ≤ a ∧ a < o + bs.length then bs.getD (a - o) 0 else memRead u m a := by
  induction bs generalizing m o with
  | nil =>
    simp only [memPutAll, List.length_nil, Nat.add_zero]; rw [if_neg (by omega)]
  | cons b bs ih =>
    simp only [memPutAll]
    rw [ih _ _ (memWfFrom_memPut keep m 0 o b (Nat.zero_le o) w)]
    have hl : (b :: bs).length = bs.length + 1 := rfl
    by_cases h1 : o + 1 ≤ a ∧ a < o + 1 + bs.length
    · rw [if_pos h1, if_pos (by omega)]
      have : a - o = (a - (o + 1)) + 1 := by omega
      rw [this]; rfl
    · rw [if_neg h1]
      by_cases h2 : a = o
      · subst h2
        rw [if_pos (by omega)]
        simp only [memRead, memFind_memPut_same keep m 0 a b w]
        cases hb : (b == memDefault) <;> cases hk : keep a <;> simp_all
      · rw [if_neg (by omega)]
        simp only [memRead, memFind_memPut_ne _ _ _ _ _ h2]

/-- A byte after a store outside the table windows: the byte stored, or the byte that was there. -/
theorem State.byte_put (s : State) (o a : Nat) (bs : List Byte) (h : s.Inv) (ho : winOf o ≠ .table) (ha : winOf a ≠ .table) :
    (s.put o bs).byte a = if o ≤ a ∧ a < o + bs.length then bs.getD (a - o) 0 else s.byte a := by
  have ho' : (winOf o == .table) = false := by simpa using ho
  have ha' : (winOf a == .table) = false := by simpa using ha
  have hd : ∀ c, (undefAt s.undef c).isSome = false → s.unlisted c = memDefault := by
    intro c hc
    simp only [State.unlisted]
    cases hx : undefAt s.undef c with
    | none => rfl
    | some k => simp [hx] at hc
  have := memRead_memPutAll (fun c => (undefAt s.undef c).isSome) s.unlisted hd bs s.mem o a h
  simp only [memRead] at this
  simp only [State.byte, State.put, ho', ha']
  exact this

/-- A store leaves the tables of every tile, unless it is a store to a table window. -/
theorem State.tile_put (s : State) (o n : Nat) (bs : List Byte) (ho : winOf o ≠ .table) : (s.put o bs).tile n = s.tile n := by
  have ho' : (winOf o == .table) = false := by simpa using ho
  simp only [State.put, ho']
  rfl

end Sys2Proof.Machine
end

