-- ==== Sys2Proof/WellFormed.lean ====
section
/-! DEFINITION. Well-formed commands: every number in the range that the manual gives what it names, and every record of the length
that its table gives. -/
namespace Sys2Proof

/-- A hardware thread's place: logical tile 0 to 255, thread 0 to 23 (R18, R141). -/
def TRef.wf (r : TRef) : Bool := r.tile < 256 && r.th < 24

/-- An issuer: a tile thread, or a core that its control processor has (Tables 1.3 and 15.6). -/
def Who.wf : Who → Bool
  | .t r => r.wf
  | .c p k => (p == 1 && k < 4) || ((p == 2 || p == 3 || p == 4) && k < 2) || (p == 5 && k == 0)

/-- A ring that the device has (R429, R437). -/
def RingId.wf : RingId → Bool
  | .sq n q => n < 16 && q < 2
  | .cq n => n < 16
  | .eq => true
  | .dma k => k < 4

/-- The device that a CLOSE names (R296). -/
def Closer.wf : Closer → Bool
  | .primary dev => dev < 4096
  | .partner dev => dev < 4096

/-- A command whose operands stay in the ranges of the manual's tables. -/
def wellFormed : Instr → Bool
  | .nop w _ => w.wf
  | .endT w _ => w.wf
  | .ecall w _ => w.wf
  | .eret w _ => w.wf
  | .wfi w _ => w.wf
  | .fence w _ => w.wf
  | .interrupt _ _ _ => true
  | .add w _ => w.wf
  | .sub w _ => w.wf
  | .and w _ => w.wf
  | .or w _ => w.wf
  | .xor w _ => w.wf
  | .sll w _ => w.wf
  | .srl w _ => w.wf
  | .sra w _ => w.wf
  | .slt w _ => w.wf
  | .sltu w _ => w.wf
  | .min w _ => w.wf
  | .max w _ => w.wf
  | .mul w _ => w.wf
  | .mulhu w _ => w.wf
  | .beq w _ => w.wf
  | .bne w _ => w.wf
  | .blt w _ => w.wf
  | .bge w _ => w.wf
  | .bltu w _ => w.wf
  | .bgeu w _ => w.wf
  | .j w _ => w.wf
  | .jr w _ => w.wf
  | .csrr w _ => w.wf
  | .csrw w _ => w.wf
  | .stbyWrite r _ => r.wf
  | .rtSwap tile => tile < 256
  | .cbSwap tile => tile < 256
  | .tableSwap tile => tile < 256
  | .ldxB w _ => w.wf
  | .ldxH w _ => w.wf
  | .ldxW w _ => w.wf
  | .ldxL w _ => w.wf
  | .ldxD w _ => w.wf
  | .stxB w _ => w.wf
  | .stxH w _ => w.wf
  | .stxW w _ => w.wf
  | .stxL w _ => w.wf
  | .stxD w _ => w.wf
  | .ldxS w _ => w.wf
  | .stxS w _ => w.wf
  | .ldxV w _ => w.wf
  | .ldxVI w _ => w.wf
  | .stxV w _ => w.wf
  | .stxVI w _ => w.wf
  | .slotWaitGrant r => r.wf
  | .loadResponse tile _ _ _ => tile < 256
  | .storeAck tile _ _ => tile < 256
  | .instructionFetch r => r.wf
  | .runaheadFetch r _ => r.wf
  | .semAdd w _ => w.wf
  | .semSwap w _ => w.wf
  | .semCas w _ => w.wf
  | .semRead w _ => w.wf
  | .semHomePerform tile _ => tile < 256
  | .waitTok w _ => w.wf
  | .waitTokall w _ => w.wf
  | .waitMem w _ => w.wf
  | .waitTime w _ => w.wf
  | .waitMet r => r.wf
  | .waitExpired r => r.wf
  | .bar w _ => w.wf
  | .dset w _ => w.wf
  | .cue w _ => w.wf
  | .cueAdmission reel slot => reel < 16 && slot < 8
  | .endcue w _ => w.wf
  | .cueEnd reel slot => reel < 16 && slot < 8
  | .cueExpire reel slot => reel < 16 && slot < 8
  | .phase w _ => w.wf
  | .clap w _ => w.wf
  | .upd w _ => w.wf
  | .updPrecheckChunk _ _ => true
  | .updStageChunk _ _ _ => true
  | .deriveChunk _ _ => true
  | .auditChunk _ _ => true
  | .helperStart reel _ => reel < 16
  | .helperRefused reel => reel < 16
  | .rdw w _ => w.wf
  | .rdwSector _ => true
  | .coll w _ => w.wf
  | .collEngineStart _ => true
  | .perm w _ => w.wf
  | .permPassAcked _ => true
  | .scrub w _ => w.wf
  | .scrubZero _ _ => true
  | .toll w _ => w.wf
  | .tollContributionSend g => g < 16
  | .tollUp _ _ _ _ _ => true
  | .tollDown _ _ _ _ _ => true
  | .rollCommitChunk layer col slot => layer < 5 && col < 64 && slot < 384
  | .rollRecovery layer col => layer < 5 && col < 64
  | .tollQry _ _ src => src < 4096
  | .tollAns _ _ src _ => src < 4096
  | .tollQueryTimeout g => g < 16
  | .tollBind g _ _ => g < 16
  | .tollBindApply g => g < 16
  | .mmaOpen w _ => w.wf
  | .mmaCont w _ => w.wf
  | .arrayBeat tile h => tile < 256 && h < 8
  | .mmaComplete tile h => tile < 256 && h < 8
  | .rsc w _ => w.wf
  | .rscDrainStart tile h => tile < 256 && h < 8
  | .rscComplete tile h => tile < 256 && h < 8
  | .cpyl w _ => w.wf
  | .cpylComplete tile => tile < 256
  | .vadd w _ => w.wf
  | .vsub w _ => w.wf
  | .vmul w _ => w.wf
  | .vmax w _ => w.wf
  | .vmin w _ => w.wf
  | .vfma w _ => w.wf
  | .vabs w _ => w.wf
  | .vneg w _ => w.wf
  | .vmov w _ => w.wf
  | .vsel w _ => w.wf
  | .vcmpEq w _ => w.wf
  | .vcmpNe w _ => w.wf
  | .vcmpLt w _ => w.wf
  | .vcmpLe w _ => w.wf
  | .vcmpGt w _ => w.wf
  | .vcmpGe w _ => w.wf
  | .vcmpUn w _ => w.wf
  | .vand w _ => w.wf
  | .vor w _ => w.wf
  | .vxor w _ => w.wf
  | .vshl w _ => w.wf
  | .vshr w _ => w.wf
  | .viadd w _ => w.wf
  | .vmand w _ => w.wf
  | .vmor w _ => w.wf
  | .vmxor w _ => w.wf
  | .vmnot w _ => w.wf
  | .vmpop w _ => w.wf
  | .vins w _ => w.wf
  | .vext w _ => w.wf
  | .vidx w _ => w.wf
  | .vshf w _ => w.wf
  | .vcvt w _ => w.wf
  | .vsfnExp2 w _ => w.wf
  | .vsfnLog2 w _ => w.wf
  | .vsfnRsqrt w _ => w.wf
  | .vsfnRcp w _ => w.wf
  | .vsfnTanh w _ => w.wf
  | .vsfnErf w _ => w.wf
  | .openReq reel _ => reel < 16
  | .closeReq reel _ => reel < 16
  | .reelRelease reel => reel < 16
  | .seedWrite reel _ => reel < 16
  | .launchStart reel q rec _ => reel < 16 && q < 2 && rec.length == 16
  | .completionRecordWrite reel => reel < 16
  | .completionWaitTimeout reel => reel < 16
  | .sqTailDoorbell reel q _ => reel < 16 && q < 2
  | .cqHeadDoorbell reel _ => reel < 16
  | .eqHeadDoorbell _ => true
  | .dmaTailDoorbell k _ => k < 4
  | .ringEnable ring _ => ring.wf
  | .dmaDescriptorStart k d => k < 4 && d.length == 4
  | .dmaDescriptorDone k _ _ => k < 4
  | .msixDelayExpire ring => ring.wf
  | .splitModeWrite fn _ => fn < 11
  | .xlateFlushComplete => true
  | .tableWalkComplete va => va < 2 ^ 52
  | .amissTimeout va => va < 2 ^ 52
  | .invAll => true
  | .invRange => true
  | .load _ => true
  | .nack => true
  | .xopInvalidateComplete => true
  | .pin _ _ => true
  | .pinf _ _ => true
  | .unpin _ _ => true
  | .inval _ _ => true
  | .flush _ _ => true
  | .copComplete => true
  | .cacheFillReturn line _ _ => line < 2 ^ 44
  | .cacheReduction line _ => line < 2 ^ 44
  | .evictionStallEnd line => line < 2 ^ 44
  | .qcfgWrite _ => true
  | .qcfgSwitch => true
  | .bankRefresh layer col bank => layer < 5 && col < 64 && bank < 32
  | .patrolScrub layer col _ => layer < 5 && col < 64
  | .soft => true
  | .fuse => true
  | .retire => true
  | .rowRepairSwitch addr => addr < 2 ^ 44
  | .pcRetireLineMove _ => true
  | .hbmRsvWrite _ => true
  | .hlogPersist => true
  | .tspareGo _ => true
  | .tileSwapStart _ => true
  | .tileSwapSwitch => true
  | .laneFailure port lane _ => port < 12 && lane < 9
  | .portRetrainComplete port => port < 12
  | .directorWatchdogExpiry core => core < 4
  | .directorTakeoverComplete => true
  | .fwSwitchGo _ => true
  | .fwSwitchPoint => true
  | .fwSwitchTimeout => true
  | .fwSelfCheckComplete _ => true
  | .gafferPeriod _ => true
  | .orderlyStopFinal _ => true
  | .throttleStep => true
  | .kCorrection _ _ => true
  | .varrRequestComplete => true
  | .avsRetry _ => true
  | .gafMismatch _ _ => true
  | .sensorSuspect sensor => sensor < 80
  | .sensorTrusted sensor => sensor < 80
  | .hostCapWrite _ => true
  | .pwrLimitAssert => true
  | .pwrLimitRelease => true
  | .enReq n _ => n < 97
  | .disReq n _ => n < 97
  | .domainStartComplete n => n < 97
  | .domainStopComplete n => n < 97
  | .foleyEnter tile => tile < 256
  | .tcoefValid _ => true
  | .legacyTrip sensor _ => sensor < 80
  | .tripNAsserted => true
  | .tripRelease => true
  | .tripRestart => true
  | .windowWriteStart => true
  | .idleFlit port _ _ _ _ => port < 12
  | .alignedSet => true
  | .heartbeat port => port < 12
  | .floorWrite _ => true
  | .rate port _ => port < 12
  | .portUp port _ => port < 12
  | .portLost port => port < 12
  | .dataFlit port rx => port < 12 && rx.lanes.length == 8
  | .hello port dev farPort bpos pair _ _ _ => port < 12 && dev < 4096 && farPort < 12 && bpos < 8 && pair < 16
  | .helloRepeat port => port < 12
  | .claim port id hops _ => port < 12 && id < 4096 && hops < 16
  | .idCfgWrite _ => true
  | .claimed => true
  | .route port dst hops _ => port < 12 && dst < 4096 && hops < 16
  | .withdraw port dst => port < 12 && dst < 4096
  | .lost dev => dev < 4096
  | .rd port _ => port < 12
  | .wr port _ => port < 12
  | .sem port _ => port < 12
  | .watch port _ => port < 12
  | .zero port _ => port < 12
  | .rdata port _ => port < 12
  | .ack port _ => port < 12
  | .notify port _ => port < 12
  | .remoteRequestTimeout _ => true
  | .cdata port _ => port < 12
  | .pdata port _ => port < 12
  | .copen port _ => port < 12
  | .collTimeout _ => true
  | .clapMsg port _ => port < 12
  | .freeze => true
  | .freezeRequest _ => true
  | .mirrorEnWrite reel _ => reel < 16
  | .pmirArmWrite k _ => k < 16
  | .take k => k < 16
  | .partnerTakeover k _ => k < 16
  | .mctlOpen primary reel tgrp _ _ pair => primary < 4096 && reel < 16 && tgrp < 16 && pair < 16
  | .mctlRefused reel => reel < 16
  | .mrec primary reel kind _ _ _ => primary < 4096 && reel < 16 && kind < 3
  | .mctlSeal primary reel _ _ _ => primary < 4096 && reel < 16
  | .mctlSack reel _ => reel < 16
  | .mctlCommit primary reel _ _ => primary < 4096 && reel < 16
  | .mctlDrop primary reel _ => primary < 4096 && reel < 16
  | .mctlCack reel _ => reel < 16
  | .mctlClose who reel => who.wf && reel < 16
  | .mctlStopping primary => primary < 4096
  | .mirrorClearComplete k => k < 16
  | .exportGo => true
  | .exportStart => true
  | .exportComplete _ => true
  | .pcieLinkUp rate width _ => 1 ≤ rate && rate < 8 && [1, 2, 4, 8, 16].contains width
  | .pcieHotReset => true
  | .configRequest off _ => off < 0x1000 && off % 4 == 0
  | .bar2Read _ len => 1 ≤ len
  | .bar2Write _ _ _ => true
  | .registerWrite off size _ => off < 2 ^ 28 && ((size == 4 || size == 8) && off % size == 0)
  | .hostCompletion _ _ _ => true
  | .hostCompletionTimeout _ => true
  | .d3hot => true
  | .d0 => true
  | .retentionEnter => true
  | .offEnter => true
  | .lcProvision _ => true
  | .lcCertify => true
  | .lcClaim => true
  | .lcTransfer => true
  | .lcReturn => true
  | .lcVoid => true
  | .svnCommit => true
  | .imgGo => true
  | .imageVerifyComplete => true
  | .chal _ => true
  | .dbgOpen _ => true
  | .debugOpenCheck => true
  | .dbgClose => true
  | .debugSessionExpire => true
  | .dbgHalt tile th => tile < 256 && th < 24
  | .dbgStep tile th => tile < 256 && th < 24
  | .dbgResume tile th => tile < 256 && th < 24
  | .threadWindowWrite off _ => off < 0x3000 && off % 8 == 0
  | .doeDiscovery _ => true
  | .getVersion _ => true
  | .getCapabilities _ => true
  | .negotiateAlgorithms _ => true
  | .getDigests _ => true
  | .getCertificate _ _ _ => true
  | .challenge _ => true
  | .getMeasurements _ _ => true
  | .keyExchange _ => true
  | .finish _ => true
  | .endSession _ => true
  | .keyProg _ stream keyset sub _ => stream < 5 && keyset < 2 && sub < 3
  | .kSetGo _ stream keyset => stream < 5 && keyset < 2
  | .kSetStop _ stream keyset => stream < 5 && keyset < 2
  | .alwaysOnStart bpos pair _ _ => bpos < 8 && pair < 16
  | .railOutOfRange rail => rail < 9
  | .refclkLoss => true
  | .refclkReturn => true
  | .stageEnd _ _ => true
  | .stageTimeout => true
  | .takeRetry => true
  | .perstAssert => true
  | .perstDeassert => true
  | .jnlTake => true
  | .clrsel => true
  | .journalPlanWrite off _ => off < 0x20000 && off % 8 == 0
  | .resetCold => true
  | .resetWarm => true
  | .resetDomain n => n < 97
  | .resetTile tile => tile < 256
  | .resetReel reel => reel < 16
  | .resetIo => true
  | .ioResetRelease => true
  | .interfaceRetrained iface => iface < 14
  | .ioResetLimit => true
  | .clr => true
  | .obsEnableWrite _ => true
  | .dailiesSample => true
  | .traceDrain src _ => src < 17
  | .setBoardCap _ => true
  | .setPhaseCaps caps => caps.length == 8
  | .railPower _ => true
  | .inletTemp _ => true
  | .inletTempTimeout => true
  | .mctpReset kind => (kind == 4 || kind == 5)
  | .powerOff => true
  | .mctpRead off len => off < 2 ^ 28 && 8 ≤ len && len ≤ 64
  | .mctpUnknownCommand _ => true
  | .jtagBypass => true
  | .jtagIdcode => true
  | .jtagSamplePreload _ => true
  | .jtagExtest => true
  | .jtagClamp => true
  | .jtagHighz => true
  | .avsNoAcknowledge => true
  | .railsInRange => true
  | .tripNHigh10s => true
  | .translationDisplacement _ va => va < 2 ^ 52
  | .mctlAccept reel => reel < 16
  | .setdasa _ _ => true

end Sys2Proof
end

