-- ==== Sys2Proof/Tests/Slice0.lean ====
section
/-! SUPPORT. The model's own tests: ill-formed commands, decoding, worked examples of the manual, and for every statement with
hypotheses a state and operands that meet them. -/
open Sys2Proof Sys2Proof.Machine
namespace Sys2Proof.Tests
set_option Elab.async false

/-! ### Small states -/

def r0 : TRef := ⟨3, 1⟩
def th0 : Thread := { live := true, pc := 0x100, s := [(1, 5), (2, 0xFFFFFFFFFFFFFFFF), (3, 0x1000), (4, 0x1004)], haltm := 0 }
/-- A leaf that grants everything at frame 0 of the device without an ID. -/
def leaf0 : W64 := 0x00FFF0000000007F
def tile0 (t : Thread) : Tile := { threads := [(1, t)], xc := [⟨0, 0x10000, leaf0⟩] }
/-- A device in service with one thread, memory layer M0 on. -/
def dev (t : Thread) : State := { start := { phase := .run }, tiles := [(3, tile0 t)], pow := { doms := [(64, { st := 2 })] } }
def seq0 : Seq := { cid := 7, q := 0, t := 2, tiles := [3], live := [r0, ⟨3, 2⟩], pc := 0 }
def withSeq (q : Seq) (s : State) : State := { s with reels := [(0, { state := 1, seqs := [(0, q)] })] }
def safe0 : State := { start := { phase := .safe } }
def run0 : State := { start := { phase := .run } }

/-- The state after a command. -/
def after (i : Instr) (s : State) : State :=
  match exec i s with
  | .next t => t
  | _ => s

/-! ### Ill-formed commands, one for each check -/

theorem test_ill_formed : ([.nop (.t ⟨256, 0⟩) {}, .add (.t ⟨0, 24⟩) {}, .add (.c 0 0) {}, .add (.c 1 4) {}, .add (.c 2 2) {}, .add (.c 5 1) {}, .stbyWrite ⟨256, 0⟩ true,
    .rtSwap 256, .cbSwap 256, .tableSwap 256, .slotWaitGrant ⟨0, 24⟩, .loadResponse 256 0 0 [], .storeAck 256 0 0, .instructionFetch ⟨256, 0⟩, .runaheadFetch ⟨0, 24⟩ 0,
    .semHomePerform 256 0, .waitMet ⟨256, 0⟩, .waitExpired ⟨0, 24⟩, .cueAdmission 16 0, .cueAdmission 0 8, .cueEnd 16 0, .cueEnd 0 8, .cueExpire 16 0, .cueExpire 0 8,
    .helperStart 16 [], .helperRefused 16, .tollContributionSend 16, .rollCommitChunk 5 0 0, .rollCommitChunk 0 64 0, .rollCommitChunk 0 0 384, .rollRecovery 5 0, .rollRecovery 0 64,
    .tollQry 0 0 4096, .tollAns 0 0 4096 none, .tollQueryTimeout 16, .tollBind 16 0 0, .tollBindApply 16, .arrayBeat 256 0, .arrayBeat 0 8, .mmaComplete 256 0, .mmaComplete 0 8,
    .rscDrainStart 256 0, .rscDrainStart 0 8, .rscComplete 256 0, .rscComplete 0 8, .cpylComplete 256] : List Instr).all (fun i => !wellFormed i) = true := by decide +kernel

theorem test_ill_formed_host : ([.openReq 16 0, .closeReq 16 0, .reelRelease 16, .seedWrite 16 0, .launchStart 16 0 (List.replicate 16 0) [], .launchStart 0 2 (List.replicate 16 0) [],
    .launchStart 0 0 (List.replicate 15 0) [], .completionRecordWrite 16, .completionWaitTimeout 16, .sqTailDoorbell 16 0 0, .sqTailDoorbell 0 2 0, .cqHeadDoorbell 16 0, .dmaTailDoorbell 4 0,
    .ringEnable (.sq 16 0) 0, .ringEnable (.sq 0 2) 0, .ringEnable (.cq 16) 0, .ringEnable (.dma 4) 0, .dmaDescriptorStart 4 [0, 0, 0, 0], .dmaDescriptorStart 0 [], .dmaDescriptorDone 4 .ok [],
    .msixDelayExpire (.cq 16), .splitModeWrite 11 0, .tableWalkComplete (2 ^ 52), .amissTimeout (2 ^ 52), .cacheFillReturn (2 ^ 44) 0 [], .cacheReduction (2 ^ 44) .release, .evictionStallEnd (2 ^ 44),
    .bankRefresh 5 0 0, .bankRefresh 0 64 0, .bankRefresh 0 0 32, .patrolScrub 5 0 [], .patrolScrub 0 64 [], .rowRepairSwitch (2 ^ 44), .laneFailure 12 0 0, .laneFailure 0 9 0, .portRetrainComplete 12,
    .directorWatchdogExpiry 4, .sensorSuspect 80, .sensorTrusted 80, .enReq 97 0, .disReq 97 0, .domainStartComplete 97, .domainStopComplete 97, .foleyEnter 256, .legacyTrip 80 0] : List Instr).all
    (fun i => !wellFormed i) = true := by decide +kernel

theorem test_ill_formed_links : ([.idleFlit 12 { kind := 1 } 0 0 0, .heartbeat 12, .rate 12 { mtype := 0, dst := 0, src := 0 }, .portUp 12 0, .portLost 12, .dataFlit 12 ⟨List.replicate 8 [], []⟩, .dataFlit 0 ⟨[], []⟩, .hello 12 0 0 0 0 .t false 0,
    .hello 0 4096 0 0 0 .t false 0, .hello 0 0 12 0 0 .t false 0, .hello 0 0 0 8 0 .t false 0, .hello 0 0 0 0 16 .t false 0, .helloRepeat 12, .claim 12 0 0 0, .claim 0 4096 0 0, .claim 0 0 16 0,
    .route 12 0 0 false, .route 0 4096 0 false, .route 0 0 16 false, .withdraw 12 0, .withdraw 0 4096, .lost 4096, .clapMsg 12 0, .mirrorEnWrite 16 0, .pmirArmWrite 16 0, .take 16, .partnerTakeover 16 false,
    .mctlOpen 4096 0 0 0 false 0, .mctlOpen 0 16 0 0 false 0, .mctlOpen 0 0 16 0 false 0, .mctlOpen 0 0 0 0 false 16, .mctlAccept 16, .mctlRefused 16, .mrec 4096 0 0 0 0 [], .mrec 0 16 0 0 0 [], .mrec 0 0 3 0 0 [],
    .mctlSeal 4096 0 0 0 0, .mctlSeal 0 16 0 0 0, .mctlSack 16 0, .mctlCommit 4096 0 0 0, .mctlCommit 0 16 0 0, .mctlDrop 4096 0 0, .mctlDrop 0 16 0, .mctlCack 16 0, .mctlClose (.primary 4096) 0, .mctlClose (.partner 4096) 0, .mctlClose (.partner 0) 16,
    .mctlStopping 4096, .mirrorClearComplete 16] : List Instr).all (fun i => !wellFormed i) = true ∧
    (let m : Msg := { mtype := 0, dst := 0, src := 0 }
     ([.rd 12 m, .wr 12 m, .sem 12 m, .watch 12 m, .zero 12 m, .rdata 12 m, .ack 12 m, .notify 12 m, .cdata 12 m, .pdata 12 m, .copen 12 m] : List Instr).all (fun i => !wellFormed i) = true) := by decide +kernel

theorem test_ill_formed_rest : ([.pcieLinkUp 0 1 false, .pcieLinkUp 8 1 false, .pcieLinkUp 1 3 false, .configRequest 0x1000 none, .configRequest 2 none, .bar2Read 0 0, .registerWrite (2 ^ 28) 4 0,
    .registerWrite 0 2 0, .registerWrite 4 8 0, .dbgHalt 256 0, .dbgHalt 0 24, .dbgStep 256 0, .dbgStep 0 24, .dbgResume 256 0, .dbgResume 0 24, .threadWindowWrite 0x3000 0, .threadWindowWrite 4 0,
    .keyProg 0 5 0 0 0, .keyProg 0 0 2 0 0, .keyProg 0 0 0 3 0, .kSetGo 0 5 0, .kSetGo 0 0 2, .kSetStop 0 5 0, .kSetStop 0 0 2, .alwaysOnStart 8 0 false false, .alwaysOnStart 0 16 false false, .railOutOfRange 9,
    .journalPlanWrite 0x20000 0, .journalPlanWrite 4 0, .resetDomain 97, .resetTile 256, .resetReel 16, .interfaceRetrained 14, .traceDrain 17 .ok, .setPhaseCaps [], .mctpReset 3, .mctpRead (2 ^ 28) 8,
    .mctpRead 0 7, .mctpRead 0 65, .translationDisplacement none (2 ^ 52)] : List Instr).all (fun i => !wellFormed i) = true := by decide +kernel

theorem test_well_formed : ([.nop (.t ⟨255, 23⟩) {}, .add (.c 1 3) {}, .add (.c 5 0) {}, .rtSwap 255, .cueEnd 15 7, .rollCommitChunk 4 63 383, .hello 11 4095 11 7 15 .s true 0, .mctpRead 0 64,
    .registerWrite 0 8 0, .threadWindowWrite 0x2FF8 0, .railOutOfRange 8] : List Instr).all wellFormed = true := by decide +kernel

/-! ### Decoding: words written out from Tables 6.1 to 6.4 -/

/-- Example 6.1: VMOV v4, 0x7FC0. -/
theorem test_decode_vmov : decodeIdmon (.t r0) 0x7FC0004400041040 none = some (.vmov (.t r0) { vd := 4, mm := 4, i := true, imm := 0x7FC0 }) := by decide +kernel

/-- Example 6.2: MMA.OPEN s10, d0[0, s8], d1[0, 0], 32x32, with its extension word. -/
theorem test_decode_mma : decodeIdmon (.t r0) 0x000000A0000A0120 (some 0x1000) = some (.mmaOpen (.t r0) { rd := 10, i11 := 8, d2 := 1, x := some 0x1000 }) := by decide +kernel
/-- ADD s3, s1, 5: OPC 0x01, RD 3 in [20:16], RA 1 in [25:21], I in [36], IMM16 5. -/
theorem test_decode_add : decodeIdmon (.t r0) 0x0005001000230001 none = some (.add (.t r0) { rd := 3, ra := 1, i := true, imm := 5 }) := by decide +kernel
/-- BLT s3, s4, -4: OPC 0x02, FN 2, RA 3, RB 4, IMM16 0xFFFC. -/
theorem test_decode_blt : decodeIdmon (.t r0) 0xFFFC000010600402 none = some (.blt (.t r0) { ra := 3, rb := 4, imm := 0xFFFC }) := by decide +kernel
/-- LDX.W s5, 16(s6): OPC 0x04, FN 2, RD 5, RA 6. -/
theorem test_decode_ldx : decodeIdmon (.c 2 1) 0x0010000000C50404 none = some (.ldxW (.c 2 1) { rd := 5, ra := 6, imm := 16 }) := by decide +kernel
/-- SEM.CAS s1, (s2), s3, s4 with ACQ: OPC 0x06, FN 2, RB 3 in [30:26], RC 4 in [35:31], SUB 0b010 in [39:37]. -/
theorem test_decode_sem : decodeIdmon (.t r0) 0x000000420C410406 none = some (.semCas (.t r0) { rd := 1, ra := 2, rb := 3, rc := 4, sub := 2 }) := by decide +kernel
/-- Opcode 0x7F stands in no row of Table 6.4. -/
theorem test_decode_none : decodeIdmon (.t r0) 0x7F none = none := by decide +kernel

/-! ### States and operands that meet the hypotheses of the statements -/

theorem witness_StepRunsFrontCommand : ({ run0 with pending := [.clr, .claimed] } : State).pending = .clr :: [.claimed] := rfl
theorem witness_EmptyQueueTicks : State.reset.pending = [] := rfl

/-- Every operand form of the scalar operations, a core that executes, and a destination that discards the write. -/
theorem witness_ScalarOps : ready (dev th0) r0 (aluRegs { rd := 3, ra := 1, i := true, x := some 9 }) = true ∧ ready (dev th0) r0 (aluRegs { rd := 0, ra := 1, rb := 2 }) = true ∧
    coreRuns run0 2 1 none = true ∧ coreRuns run0 5 0 (some 9) = true := by decide +kernel

/-- Branches taken and not taken, jumps to an aligned and to a misaligned target. -/
theorem witness_BranchesAndJumps : ready (dev th0) r0 [.s 1, .s 2] = true ∧ (dev th0).obs.cntEn = false ∧ th0.sreg 1 = th0.sreg 1 ∧ th0.sreg 1 ≠ th0.sreg 2 ∧ (th0.sreg 2).toInt < (th0.sreg 1).toInt ∧
    (th0.sreg 1).toNat < (th0.sreg 2).toNat ∧ th0.haltsOn stFormMismatch = false ∧ th0.haltsOn stMisaligned = false ∧ ready (dev th0) r0 [.s 0, .s 3] = true ∧ (th0.sreg 3 + 8).toNat % 8 = 0 ∧
    (th0.sreg 4 + (4 : BitVec 16).signExtend 64).toNat % 8 = 0 ∧ (th0.sreg 4).toNat % 8 ≠ 0 := by decide +kernel

def storing : State := (dev th0).modTile 3 (fun T => { T with ops := [{ id := 0, th := 1, kind := .store, dst := .none, data := [0], reel := 0, slot := 0, parts := [⟨16, 0x1000, 0, [(0xFFF00000001000, 0, 1)], false, true, false, false⟩] }] })
theorem witness_NopAndEnd : ready (withSeq seq0 (dev th0)) r0 [] = true ∧ busyOps (withSeq seq0 (dev th0)) r0 = false ∧ th0.helper = false ∧
    (withSeq seq0 (dev th0)).seq 0 0 = some seq0 ∧ seq0.live.filter (fun x => x != r0) ≠ [] ∧ busyOps storing r0 = true ∧ ready storing r0 [] = true := by decide +kernel

def coreAt (p : Nat) (k : Core) : State := { run0 with cores := [(coreKey 2 1, { k with priv := p })] }
theorem witness_CoreControl : coreRuns (coreAt 0 {}) 2 1 none = true ∧ coreReady (coreAt 0 { pc := 0x1000000000000 }) 2 1 = true ∧ coreFetchBad (coreAt 0 { pc := 0x1000000000000 }) 2 1 1 = some stPermFault ∧
    coreFetchBad { coreAt 0 {} with poison := [0] } 2 1 2 = some stUncorrectable ∧ ((coreAt 0 {}).core 2 1).priv = 0 ∧ ((coreAt 1 {}).core 2 1).priv ≠ 0 ∧ ((coreAt 1 {}).core 2 1).pend = [] ∧ 1 < coresOf 2 ∧
    (let k := (coreAt 0 { ie := true }).core 2 1
     k.ie = true ∧ k.priv = 0 ∧ k.busy = false ∧ k.pend = []) := by decide +kernel

theorem witness_WrongProfileIsIllegal : coreRuns (coreAt 0 {}) 2 1 (some 0) = true ∧ canIssue (withSeq seq0 (dev th0)) r0 = true ∧ (withSeq seq0 (dev th0)).seq 0 0 = some seq0 := by decide +kernel

theorem witness_ControlStateMoves : ready (dev th0) r0 [.s 1] = true ∧ (0x010 : BitVec 16).toNat % 4096 = 0x010 ∧ (0x112 : BitVec 16).toNat % 4096 = 0x112 ∧
    (0x012 : BitVec 16).toNat % 4096 ∉ ([0x010, 0x100, 0x101, 0x102, 0x110, 0x111, 0x112] : List Nat) ∧ th0.haltsOn stFormMismatch = false := by decide +kernel

/-- A table of 256 T entries is taken, one of 257 is refused. -/
def tEntries (n : Nat) : SMap (BitVec 128) := (List.range n).map (fun k => (k, BitVec.allOnes 128))
theorem mfind_append {α : Type} (a b : SMap α) (k : Nat) : mfind (a ++ b) k = (mfind a k).or (mfind b k) := by
  induction a with
  | nil => simp [mfind]
  | cons p a ih => by_cases h : p.1 == k <;> simp_all [mfind]
theorem mfind_tEntries (n k : Nat) : mfind (tEntries n) k = if k < n then some (BitVec.allOnes 128) else none := by
  induction n with
  | zero => rfl
  | succ n ih =>
    simp only [tEntries] at ih
    simp only [tEntries, List.range_succ, List.map_append, mfind_append, ih, List.map_cons, List.map_nil, mfind]
    by_cases h : k < n
    · have : k < n + 1 := by omega
      simp [h, this]
    · by_cases h2 : n = k
      · simp [h2]
      · have : ¬ k < n + 1 := by omega
        simp [h, h2, this]
def withTile (T : Tile) : State := { run0 with tiles := [(3, T)] }
theorem tCount_tEntries (n : Nat) (T : Tile) (ht : T.rtShadow = tEntries n) : T.tCount = ((List.range 1024).filter (fun e => decide (e < n))).length := by
  have h : ∀ e, bitOf (mget (0 : BitVec 128) T.rtShadow e) 99 = decide (e < n) := by
    intro e
    rw [ht, mget, mfind_tEntries]
    by_cases h : e < n
    · rw [if_pos h, decide_eq_true h]; rfl
    · rw [if_neg h, decide_eq_false h]; rfl
  simp only [Tile.tCount, h]
theorem witness_TableSwaps : ((withTile { rt1 := tEntries 256, rtPend := true, cbPend := true }).tile 3).tCount = 256 ∧ ((withTile { rt1 := tEntries 257, rtPend := true }).tile 3).tCount = 257 :=
  ⟨(tCount_tEntries 256 _ rfl).trans (by decide +kernel), (tCount_tEntries 257 _ rfl).trans (by decide +kernel)⟩
theorem witness_TableSwaps_busy : ((withTile {}).tile 3).arrayBusy = false ∧
    ((withTile { mmas := [{ h := 0, th := 1, reel := 0, slot := 0, da := 0, db := 0, sa := [], sb := [], k := 1 }] }).tile 3).arrayBusy = true := by decide +kernel

def standing (n : Nat) : SMap Thread := (1, th0) :: (List.range n).map (fun k => (k + 2, { th0 with stby := true }))
theorem witness_StandbyWrite : ((withTile { threads := standing 3 }).thread r0).live = true ∧ slotWork (withTile { threads := standing 3 }) r0 = false ∧ slotWork storing r0 = true ∧
    (((withTile { threads := standing 3 }).tile 3).threads.filter (fun x => x.1 != 1 && x.2.live && x.2.stby)).length = 3 ∧
    (((withTile { threads := standing 4 }).tile 3).threads.filter (fun x => x.1 != 1 && x.2.live && x.2.stby)).length = 4 := by decide +kernel

/-- Field 9, EXT2, is 20 bits wide: 2^20 - 1 fits, 2^20 does not; number 15 is reserved. -/
theorem witness_DsetWritesField : ready (dev th0) r0 [.d (8 % 8), .s 1] = true ∧ (9 : BitVec 16).toNat % 16 = 9 ∧ (31 : BitVec 16).toNat % 16 = 15 ∧ 2 ^ 20 - 1 < 2 ^ (123 + 1 - 104) ∧
    ¬ 2 ^ 20 < 2 ^ (123 + 1 - 104) ∧ (th0.sreg 2).toNat ≥ 2 ^ (51 + 1 - 0) ∧ th0.haltsOn stFormMismatch = false := by decide +kernel

def tok (d : Option Status) : State := dev { th0 with toks := [⟨5, d⟩] }
theorem witness_WaitsOnTokensAndTime : ((tok none).tile 3).foley = false ∧ noFarCopies (tok none) r0 = true ∧ ready (tok none) r0 [.s 3, .s 1, .s 0] = true ∧ bitsOf (th0.sreg 1) 3 0 = 5 ∧
    ((tok none).thread r0).toks.find? (fun k => k.n == 5) = some ⟨5, none⟩ ∧ ((tok (some 0)).thread r0).toks.find? (fun k => k.n == 5) = some ⟨5, some 0⟩ ∧
    ((dev th0).thread r0).toks.find? (fun k => k.n == 5) = none ∧ th0.sreg 0 = 0 ∧ (0 : Nat) < (th0.sreg 1).toNat ∧ (th0.sreg 0).toNat ≤ (dev th0).time.tmb.toNat ∧
    ((tok (some 0)).thread r0).toks.all (fun k => k.done == some stOk) = true := by decide +kernel

def waiting (d : Option Status) (limit : W64) (now : W64) : State :=
  { dev { th0 with toks := [⟨5, d⟩], held := some ⟨.waitTok (.t r0) { rd := 3, ra := 1 }, .wait⟩, wait := some { rd := 3, cond := .tok 5, limit := limit } } with time := { tmb := now } }
theorem witness_WaitEnds : noFarCopies (waiting none 9 9) r0 = true ∧ ((dev th0).thread r0).wait = none ∧ ((waiting none 9 9).thread r0).wait = some { rd := 3, cond := .tok 5, limit := 9 } ∧
    ((waiting none 9 9).thread r0).toks.find? (fun k => k.n == 5) = some ⟨5, none⟩ ∧ ((waiting (some 0) 9 8).thread r0).toks.find? (fun k => k.n == 5) = some ⟨5, some 0⟩ ∧
    (9 : W64).toNat ≤ (waiting none 9 9).time.tmb.toNat ∧ (waiting none 9 8).time.tmb.toNat < (9 : W64).toNat ∧ th0.haltsOn stWaitExpired = false := by decide +kernel

/-- An address that the tile's cache translates into near memory of the device without an ID. -/
theorem witness_WaitMemAndBar : ready (dev th0) r0 [.s 5, .s 3, .s 0, .s 0] = true ∧ xlate (dev th0) (some 3) .r 0x1000 = .ok 0xFFF00000001000 (leafCa leaf0) ∧
    (dev th0).isLocal 0xFFF00000001000 = true ∧ winOf (paLocal 0xFFF00000001000) = .near ∧ (dev th0).poisoned 0x1000 8 = false ∧ waitCmp 0 ((dev th0).word 0x1000) (th0.sreg 0) = true ∧
    (th0.sreg 4).toNat % 8 ≠ 0 ∧ th0.haltsOn stMisaligned = false ∧ barReady (dev th0) r0 = true ∧ noFarCopies (dev th0) r0 = true ∧
    barReady storing r0 = false := by
  decide +kernel

theorem witness_LoadsIssue : idleTile (dev th0) 3 ∧ ready (dev th0) r0 [.s 5, .s 3] = true ∧
    checkAll (dev th0) (some 3) .r (pieces 0x1000 0 8) = .ok [(⟨0x1000, 0, 8⟩, 0xFFF00000001000, leafCa leaf0)] ∧
    nearStretches (dev th0) [(⟨0x1000, 0, 8⟩, 0xFFF00000001000, leafCa leaf0)] ∧ checkAll (dev th0) (some 3) .r (pieces (2 ^ 52) 0 8) = .bad stXlateFault ∧ th0.haltsOn stXlateFault = false ∧ th0.haltsOn stFormMismatch = false ∧
    ready (dev th0) r0 [.v 2, .s 3, .m 0] = true ∧ th0.mreg 0 ≠ 0 := by
  unfold idleTile nearStretches; decide +kernel
theorem witness_StoresIssue : idleTile (dev th0) 3 ∧ ready (dev th0) r0 [.s 1, .s 3] = true ∧
    checkAll (dev th0) (some 3) .w (pieces 0x10F8 0 32) = .ok [(⟨0x10F8, 0, 8⟩, 0xFFF000000010F8, leafCa leaf0), (⟨0x1100, 8, 24⟩, 0xFFF00000001100, leafCa leaf0)] ∧
    nearStretches (dev th0) [(⟨0x10F8, 0, 8⟩, 0xFFF000000010F8, leafCa leaf0), (⟨0x1100, 8, 24⟩, 0xFFF00000001100, leafCa leaf0)] := by
  unfold idleTile nearStretches; decide +kernel

theorem witness_SemIssuesAndStandby : ready (dev th0) r0 (semRegs { rd := 5, ra := 3, rb := 1, rc := 2 }) = true ∧ (th0.sreg 3).toNat % 8 = 0 ∧
    checkAll (dev th0) (some 3) .rw (pieces 0x1000 0 8) = .ok [(⟨0x1000, 0, 8⟩, 0xFFF00000001000, leafCa leaf0)] ∧ (th0.sreg 4).toNat % 8 ≠ 0 ∧ th0.haltsOn stMisaligned = false ∧
    canIssue (withSeq seq0 (dev { th0 with stby := true })) r0 = true ∧ seq0.live.filter (fun x => x != r0) ≠ [] := by decide +kernel

/-- One memory operation of the thread with one request. -/
def op0 (k : MKind) (d : Dst) (issued : Bool) : MemOp :=
  { id := 4, th := 1, kind := k, dst := d, data := List.replicate 8 7, reel := 0, slot := 0, parts := [⟨16, 0x1000, 0, [(0xFFF00000001000, 0, 8)], false, issued, false, false⟩] }
def withOp (o : MemOp) : State := (dev th0).modTile 3 (fun T => { T with ops := [o] })
theorem witness_LoadResponseDelivers : (withOp (op0 .load (.scalar 5 8) true)).fillPending 0xFFF00000001000 = false ∧
    (withOp (op0 .load (.scalar 5 8) true)).rollHeld 0x1000 8 = false ∧ (withOp (op0 .load (.scalar 5 8) true)).cueIn 0 0 = none ∧ (withOp (op0 .load (.scalar 5 8) true)).populated 0x1000 = true ∧
    ({ withOp (op0 .load (.scalar 5 8) true) with poison := [0x80] } : State).poisoned 0x1000 8 = true ∧ (withOp (op0 .load (.scalar 5 8) true)).poisoned 0x1000 8 = false ∧
    th0.haltsOn stUncorrectable = false ∧ (withOp (op0 .load (.scalar 5 8) true)).reels = [] := by decide +kernel
def part0 (d : Bool) : Part := ⟨16, 0x1000, 0, [(0xFFF00000001000, 0, 8)], false, true, d, false⟩
def op1 (d : Bool) : MemOp := { op0 .load (.scalar 5 8) true with parts := [part0 false, part0 d] }
/-- A load of two requests whose other request is outstanding, and one whose other request is done. -/
theorem witness_LoadResponseDelivers_any : (withOp (op1 false)).op 3 4 = some (op1 false) ∧ (op1 false).parts[0]? = some (part0 false) ∧ (op1 false).parts[1]? = some (part0 false) ∧ (op1 true).parts[1]? = some (part0 true) ∧
    homeReady (withOp (op1 false)) 3 0xFFF00000001000 = true ∧ (part0 false).rollFree (withOp (op1 false)) = true ∧ readStatus (withOp (op1 false)) 0xFFF00000001000 8 = stOk ∧ ((withOp (op1 true)).thread r0).live = true := by decide +kernel
theorem witness_StoreAckWrites : Memory.wf (withOp (op0 .store .none true)) = true ∧ (op0 .store .none true).data.length = 8 ∧
    winOf (0x1000 + 8) = .near ∧ (withOp (op0 .store .none true)).populated 0x1000 = true ∧ (withOp (op0 .store .none true)).links.watches = [] ∧ (withOp (op0 .store .none true)).pairs.mir = [] := by decide +kernel
/-- The same of a store: its home in near memory serves it. -/
theorem witness_StoreAckWrites_any : (let o : MemOp := { op1 false with kind := .store, dst := .none }
     let s := withOp o
     s.op 3 4 = some o ∧ o.parts[1]? = some (part0 false) ∧ o.acq = false ∧ s.isLocal 0xFFF00000001000 = true ∧ winOf (paLocal 0xFFF00000001000) ≠ .host ∧ homeReady s 3 0xFFF00000001000 = true ∧ (part0 false).rollFree s = true ∧
       s.wayStalls 0xFFF00000001000 0 = false ∧ s.populated (paLocal 0xFFF00000001000) = true ∧ (s.thread r0).live = true) := by decide +kernel
theorem witness_SemPerforms : Memory.wf (withOp (op0 .sem (.scalar 5 8) true)) = true ∧ (op0 .sem (.scalar 5 8) true).semOp ≤ 3 ∧ (op0 .sem (.scalar 5 8) true).old = none ∧
    ({ op0 .sem (.scalar 5 8) true with old := some 1 } : MemOp).old = some 1∧ (withOp (op0 .sem (.scalar 5 8) true)).rollHeld 0x1000 8 = false := by decide +kernel

theorem witness_FetchAndRunahead : (op0 .load (.scalar 5 8) false).parts.all (fun p => !p.issued && !p.done) = true ∧ ((withOp (op0 .load (.scalar 5 8) false)).tile 3).ra = [] ∧
    xlate (dev th0) (some 3) .r 0x100 = .ok 0xFFF00000000100 (leafCa leaf0) ∧ ((dev th0).tile 3).xc.find? (fun e => e.covers 0x100) = some ⟨0, 0x10000, leaf0⟩ ∧
    (let s := dev { th0 with stream := [(2, { rows := [(0xFF00, 0x20000), (0x30000, 0x30100)], ahead := 3 })] }
     mfind (s.thread r0).stream 2 = some { rows := (0xFF00, 0x20000) :: [(0x30000, 0x30100)], ahead := 3 } ∧ 3 < Nat.min (s.tile 3).raDist 64 ∧ s.sec.retention = false ∧ fetching s r0 = false ∧ xlate s (some 3) .r 0xFF00 = .ok 0xFFF0000000FF00 (leafCa leaf0) ∧ s.isLocal (0xFFF0000000FF00 / 256 * 256) = true ∧
       xlate s (some 3) .r 0x10000 = .miss ∧ (s.tile 3).raEn = true ∧ 0 < (s.tile 3).raDist ∧ 0 < (s.tile 3).raSlots) := by decide +kernel

theorem witness_VectorArithmetic : plainVector (dev th0) r0 = true ∧ ready (dev th0) r0 ([.v 3, .m 0] ++ [1, 2].map .v) = true ∧ (3 : BitVec 2).toNat = 3 ∧ th0.haltsOn stFormMismatch = false := by decide +kernel
theorem witness_VectorMoves : plainVector (dev th0) r0 = true ∧ ready (dev th0) r0 ([.v 3, .m 0] ++ [1].map .v) = true := by decide +kernel
theorem witness_VectorCompares : plainVector (dev th0) r0 = true ∧ ready (dev th0) r0 ([.m (9 % 8), .m 0] ++ [1, 2].map .v) = true := by decide +kernel
theorem witness_VectorBitsAndMasks : plainVector (dev th0) r0 = true ∧ ready (dev th0) r0 [.m 1, .m 2, .m 3] = true ∧ ready (dev th0) r0 ([.v 3, .m 0] ++ [1, 2].map .v) = true := by decide +kernel
/-- Butterfly with p = 64, the largest power of two, and with p = 3, which is none. -/
theorem witness_VectorLaneMoves : plainVector (dev th0) r0 = true ∧ ready (dev th0) r0 [.v 3, .m 0, .v 1] = true ∧ (0x100 : BitVec 16).toNat / 4 % 128 = 64 ∧ (64 : Nat) ∈ ([1, 2, 4, 8, 16, 32, 64] : List Nat) ∧
    (12 : BitVec 16).toNat / 4 % 128 ∉ ([1, 2, 4, 8, 16, 32, 64] : List Nat) ∧ (12 : BitVec 16).toNat % 4 = 0 := by decide +kernel

theorem witness_VectorConvertAndSpecial : plainVector (dev th0) r0 = true ∧ ready (dev th0) r0 [.v 3, .m 0, .v 1, .s 0] = true ∧ (cvtOk { imm := 0x31 }).isSome = true ∧ bitOf (0x31 : BitVec 16) 8 = false ∧
    rmodeOf 0 ≠ .sr ∧ cvtOk { imm := 0x11 } = none ∧ th0.haltsOn stFormMismatch = false ∧ ready (dev th0) r0 [.v 3, .m 0, .v 1] = true := by decide +kernel

/-- A two-dimensional descriptor: base, format, two extents and the stride of dimension 1. -/
def mkD (base fmt ext0 ext1 stride : Nat) : DReg := BitVec.ofNat 256 (base + fmt * 2 ^ 52 + 2 ^ 62 + ext0 * 2 ^ 64 + ext1 * 2 ^ 84 + stride * 2 ^ 148)
def thD : Thread := { th0 with d := [(0, mkD 0x2000 3 32 4 0x40), (1, mkD 0x3000 3 32 4 0x40), (2, mkD 0x4000 0 32 4 0x80)] }
def mmaF : DForm := { rd := 10, d2 := 1, x := some 0x20 }
def mmaPieces : List Piece := pagePieces (operandRanges (thD.dreg 0) [0, 0, 0, 0] 32 0 32 ++ operandRanges (thD.dreg 1) [0, 0, 0, 0] 32 0 32)
/-- The tile's sets, n handles in flight. -/
def sets (n : Nat) : SMap OutSet := (List.range n).map (fun h => (h, { shape := 0, fmtA := 3, fmtB := 3, rbase := 0, th := 1, reel := 0, slot := 0 }))
theorem witness_MmaIssue : idleTile (dev thD) 3 ∧ ready (dev thD) r0 (mmaRegs mmaF) = true ∧ mmaFormOk mmaF thD = true ∧ mmaFormOk { mmaF with d1 := 3 } thD = false ∧
    (match checkAll (dev thD) (some 3) .r mmaPieces with
      | .ok ps => (pagesOf ps).all (fun p => p.2.1 / 2 ^ 44 == 0xFFF) && !ps.isEmpty
      | _ => false) = true ∧ thD.haltsOn stPoolFull = false ∧
    contOk { mmaF with rd := 0 } r0 ((dev thD).modTile 3 (fun T => { T with sets := [(0, { shape := 0, fmtA := 3, fmtB := 3, rbase := 0, th := 1, reel := 0, slot := 0 })] })) = true := by
  unfold idleTile; decide +kernel
/-- Four sets of shape 0 fit the pool; five do not. -/
theorem witness_MmaIssue_pool : poolOk ((sets 4).map (fun x => x.2)) = true ∧ poolOk ((sets 5).map (fun x => x.2)) = false := by decide +kernel

def mma0 (at_ : Nat) : ArrOp :=
  { h := 0, th := 1, reel := 0, slot := 0, da := mkD 0x2000 3 64 4 0x40, db := mkD 0x3000 3 64 4 0x40, sa := [0, 0, 0, 0], sb := [0, 0, 0, 0], k := 64, at_, staged := [{ beat := 0, segs := [] }, { beat := 1, segs := [] }] }
def arr (o : ArrOp) : State := (dev thD).modTile 3 (fun T => { T with mmas := [o], sets := [(0, { shape := 0, fmtA := 3, fmtB := 3, rbase := 0, th := 1, reel := 0, slot := 0 })] })
theorem witness_ArrayBeatAccumulates : (mma0 0).at_ < (mma0 0).beats ∧ (mma0 1).at_ < (mma0 1).beats ∧ ¬ (mma0 2).at_ < (mma0 2).beats ∧ (mfind ((arr (mma0 0)).tile 3).sets 0).isSome = true ∧
    pickHandle (arr (mma0 0)) 3 = some 0 ∧ pickHandle (arr (mma0 1)) 3 ≠ some 1 ∧ (arr (mma0 0)).pow.duty ≠ 0 ∧ (arr (mma0 0)).cueIn 0 0 = none := by decide +kernel

def rsc0 : RscOp := { h := 0, th := 1, tok := 5, reel := 0, slot := 0, d := mkD 0x4000 0 32 4 0x80, start := [0, 0, 0, 0] }
theorem witness_ArrayCompletions : ((arr (mma0 2)).tile 3).mmas.find? (fun q => q.h == 0) = some (mma0 2) ∧ (mma0 2).at_ = (mma0 2).beats ∧ (mma0 2).st = 0 ∧
    thD.haltsOn stLedgerRange = false ∧
    (let s := (dev thD).modTile 3 (fun T => { T with rscs := [{ rsc0 with started := true }] })
     (s.tile 3).rscs.find? (fun q => q.h == 0) = some { rsc0 with started := true } ∧ s.reels = []) ∧
    (let o : CpylOp := { th := 1, tok := 5, reel := 0, slot := 0, src := 0, dst := 0, s0 := [], s1 := [], stored := true }
     let s := (dev thD).modTile 3 (fun T => { T with cpyl := some o })
     quietThreads (s.setTile 3 { s.tile 3 with cpyl := none }) = true ∧ (s.tile 3).cpyl = some o ∧ (s.thread r0).live = true) := by decide +kernel

theorem witness_RscAndCpyl : (let s := (dev thD).modTile 3 (fun T => { T with sets := [(5, { shape := 0, fmtA := 3, fmtB := 3, rbase := 0, th := 1, reel := 0, slot := 0 })] })
     ready s r0 [.s 3, .s 1, .d 2, .s 0, .s 0] = true ∧ (mfind (s.tile 3).sets 5).isSome = true ∧ descOk (thD.dreg 2) = true ∧ startsOk (thD.dreg 2) [0, 0, 0, 0] = true ∧ dFmt (thD.dreg 2) ≠ 9 ∧
       groupingOk (thD.dreg 2) [0, 0, 0, 0] 0 = true ∧ (match checkAll s (some 3) .w (pagePieces (outRanges (thD.dreg 2) [0, 0, 0, 0] 0)) with
         | .ok _ => true
         | _ => false) = true ∧ thD.toks.length < 16) ∧
    ((tensorSpan (thD.dreg 0)).2 ≤ (tensorSpan (thD.dreg 1)).1) ∧
    (match checkAll (dev thD) (some 3) .r (pagePieces (cpylSource { th := 1, tok := 0, reel := 0, slot := 0, src := thD.dreg 0, dst := thD.dreg 1, s0 := [0, 0, 0, 0], s1 := [0, 0, 0, 0] })) with
      | .ok ps => ps.all (fun p => ((dev thD).tile 3).xc.any (fun e => e.covers p.1.va))
      | _ => false) = true := by decide +kernel
theorem witness_RscAndCpyl_drain : (let s := (arr (mma0 2)).modTile 3 (fun T => { T with mmas := [], rscs := [rsc0] })
     (s.tile 3).rscs = [rsc0] ∧ (s.tile 3).ra = [] ∧ (s.tile 3).ops = [] ∧
     (match mfind (s.tile 3).sets 0 with
       | some S => !(drain (s.tile 3) 3 rsc0 S s).1.isEmpty
       | none => false) = true) := by decide +kernel

/-! ### Cues -/

def cue0 (st : CueSt) (dl : Nat) : Cue := { st, r := r0, rd := 3, decl := [], deadline := dl, num := 5 }
def cued (c : Cue) (t : Thread) (now : W64) : State := { withSeq { seq0 with cue := some c } (dev t) with time := { tmb := now } }
theorem witness_ArrayBeatAccumulates_cued : ({ cued (cue0 .admitted 9) th0 8 with pow := { duty := 0 } } : State).admitted ≠ [] := by decide +kernel
/-- With the deadline one tick ahead, and reached. -/
theorem witness_CueAdmission : ready (withSeq seq0 (dev th0)) r0 [.s 5, .s 3] = true ∧ (withSeq seq0 (dev th0)).seq 0 0 = some seq0 ∧ seq0.cue = none ∧ (th0.sreg 4).toNat % 8 ≠ 0 ∧ (th0.sreg 3).toNat % 8 = 0 ∧
    (cued (cue0 .awaiting 9) th0 8).directorUp = true ∧ ({ cued (cue0 .awaiting 9) th0 8 with rep := { dirActive := [], dirStandby := [] } } : State).directorUp = false ∧ (cued (cue0 .awaiting 9) th0 8).admitHeld = false ∧ ({ cued (cue0 .awaiting 9) th0 8 with sec := { d3hot := true } } : State).admitHeld = true ∧ (9 : Nat) ≤ (cued (cue0 .awaiting 9) th0 9).time.tmb.toNat ∧
    admitTest (cued (cue0 .awaiting 99999999) th0 8) 0 0 { cue0 .awaiting 99999999 with bkeOp := 1 } = stOk ∧ th0.haltsOn stAdmitHeld = false ∧ th0.haltsOn stRejectCapacity = false ∧
    th0.haltsOn stRejectDeadline = false ∧ th0.haltsOn stCueOpen = false := by decide +kernel
theorem witness_CueAdmission_decl : ∃ bs, descHere (withSeq seq0 (dev th0)) r0 .r 0x1000 168 bs ∧ (∀ n, n < 12 → Config.ports (dev th0).build ≤ n → (wordsOf 21 bs).getD (9 + n) 0 = 0) ∧
    bitOf ((wordsOf 21 bs).getD 6 0) 32 = false := by
  refine ⟨List.replicate 168 0, ⟨[(⟨0x1000, 0, 168⟩, 0xFFF00000001000, leafCa leaf0)], ?_, ?_, ?_⟩, ?_, ?_⟩ <;> decide +kernel
def endTh (d : Option Status) : Thread := { th0 with held := some ⟨.endcue (.t r0) { ra := 1 }, .endcue⟩, toks := [⟨0, d⟩] }
theorem witness_CueEnds : ready (cued (cue0 .admitted 9) th0 8) r0 [.s 1] = true ∧ (th0.sreg 1).toNat = (cue0 .admitted 9).num ∧ (th0.sreg 2).toNat ≠ (cue0 .admitted 9).num ∧
    (let s := cued { cue0 .expired 9 with ending := some r0 } (endTh (some 0)) 9
     (s.seq 0 0).bind (fun q => q.cue) = some { cue0 .expired 9 with ending := some r0 } ∧ (s.thread r0).held = some ⟨.endcue (.t r0) { ra := 1 }, .endcue⟩ ∧
       (s.thread r0).toks.all (fun k => k.done.isSome) = true ∧ s.time.tmb.toNat ≤ 9) ∧ ((endTh none).toks.all (fun k => k.done.isSome)) = false ∧
    (cued (cue0 .admitted 9) th0 9).time.tmb.toNat ≤ 9 ∧ 9 < (cued (cue0 .admitted 9) th0 10).time.tmb.toNat ∧ (cue0 .admitted 9).ending = none ∧ (dev th0).cueIn 0 0 = none ∧ th0.haltsOn stLate = false ∧ th0.haltsOn stOverrun = false := by
  decide +kernel
theorem witness_CueEnds_mask : ∀ st : Status, statusClass st = 2 → th0.haltsOn st = false := by
  intro st h
  simp [Thread.haltsOn, th0, h]
  intro _; decide

/-! ### Floors, freezes, counters and the trace -/

/-- Port 3 UP, this device 5 by its claim, and a route to device 7 over port 3. -/
def linked (s : State) : State := { s with links := { s.links with ports := [(3, { st := 2 })], claimed := true, devid := 5, rt := [(7, { v := true, port := 3 })] } }
/-- The same with device 3, the root, at the far end of port 3. -/
def treed (s : State) : State :=
  let t := linked s
  { t with links := { t.links with ports := [(3, { st := 2, peer := 3, peerV := true })], rt := [(3, { v := true, port := 3 }), (7, { v := true, port := 3 })] } }
def msg7 (ty : Nat) : Msg := { mtype := ty, dst := 5, src := 7 }
/-- A fourth pending freeze is taken, a fifth dropped; ticks just before and at the present. -/
def frz (p : List Nat) (now : W64) (cnt : Bool) : State := { dev th0 with obs := { cntEn := cnt, pending := p }, time := { tmb := now } }
theorem witness_FloorAndFreezes : run0.start.phase ≠ .safe ∧ run0.cues.all (fun c => c.2.2.members.isEmpty) = true ∧ bitsOf (1 : W64) 1 0 = 1 ∧ run0.floor.req = 1 ∧ bitsOf (2 : W64) 1 0 = 2 ∧
    ({ run0 with floor := { req := 2, adm := 2 } } : State).floor.req = 2 ∧ bitsOf (3 : W64) 1 0 = 3 ∧
    portIsUp (linked run0) 3 = true ∧ (linked run0).links.claimed = true ∧ (msg7 mtRATE).dst = (linked run0).ownId ∧ (msg7 mtRATE).mtype = mtRATE ∧ (msg7 mtCLAP).mtype ≠ mtRATE ∧
    ready (dev th0) r0 [] = true ∧ (7 : BitVec 16).toNat < 8 ∧ 8 ≤ (8 : BitVec 16).toNat ∧ th0.haltsOn stFormMismatch = false ∧ upPorts (frz [] 8 true) = [] ∧
    (9 : W64).toNat ≤ (frz [] 9 true).time.tmb.toNat ∧ (frz [] 8 true).time.tmb.toNat < (9 : W64).toNat ∧ (9 : W64).toNat ∈ (frz [9] 8 true).obs.pending ∧
    (9 : W64).toNat ∉ (frz [10, 11, 12] 8 true).obs.pending ∧ (frz [10, 11, 12] 8 true).obs.pending.length < 4 ∧ 4 ≤ (frz [10, 11, 12, 13] 8 true).obs.pending.length ∧
    ready (frz [] 4 true) r0 [.s 1] = true ∧ th0.sreg 1 = 5 ∧ (frz [] 4 true).time.tmb.toNat < (5 : W64).toNat ∧
    treePorts (treed run0) = [3] ∧ (treed run0).links.claimed = true ∧ treePorts (frz [] 8 true) = [] ∧ linkReady (treed run0) 3 3 = true ∧
    (10 ∈ (frz [12, 10] 10 true).obs.pending ∧ ∀ y ∈ (frz [12, 10] 10 true).obs.pending, 10 ≤ y) ∧ (frz [12, 10] 9 true).time.tmb.toNat < 10 ∧ 10 ≤ (frz [12, 10] 10 true).time.tmb.toNat := by decide +kernel

/-- One short record of 8 bytes before RD: it leaves the ring full at 8 bytes of room, and fits at 16. -/
def traced (wr rd : Nat) : State :=
  { run0 with pow := { doms := [(94, { st := 2 })] }, host := { bme := true }, obs := { trcEn := true, trcDest := true, trcSize := 1, trcBase := 2, trcWr := wr, trcRd := rd, fifos := [(0, { recs := [[7]] })] } }
theorem witness_CountersDailiesTrace : run0.start.phase ≠ .safe ∧ bitOf (0x3D : W64) 1 = false ∧ run0.sec.level = 0 ∧ ({ run0 with sec := { level := 1 } } : State).sec.level = 1 ∧
    (let s := { run0 with sec := { level := 2 } }
     s.sec.level = 2 ∧ s.sec.susp = false ∧ s.domOn 94 = false) ∧ (traced 0 0).domOn 94 = true ∧ bitOf (4 : W64) 3 = false ∧ bitOf (4 : W64) 2 = true ∧
    (let s := { run0 with obs := { dlyEn := true } }
     dlyMay s = false ∧ s.obs.dlyEn = true ∧ s.obs.dlyT0 = none ∧ dlyMay { s with obs := { s.obs with dlyT0 := some 9 } } = false) ∧
    (let s := { run0 with obs := { dlyEn := true, dlySize := 1, dlyT0 := some 9 }, time := { tmb := 8 } }
     dlyMay s = true ∧ s.obs.dlyT0 = some 9 ∧ s.obs.dlyGap = false ∧ s.time.tmb.toNat < (9 : W64).toNat + s.obs.dlyJ * Nat.max 1000 (Nat.min s.obs.dlyInterval 1000000)) ∧
    ((traced 0 0).split 7).pend = false ∧ (mget {} (traced 0 0).obs.fifos 0).recs = [7] :: [] ∧ (mget {} (traced 0 0).obs.fifos 1).recs = [] ∧ (traced 0 0).obs.trcSize ≠ 0 ∧ (traced 0 0).obs.trcWrap = false ∧
    (let used := fun (s : State) => (s.obs.trcWr + 4096 - s.obs.trcRd % Nat.max 1 4096) % Nat.max 1 4096
     4096 ≤ used (traced 0 8) + 8 * [(7 : W64)].length ∧ used (traced 0 16) + 8 * [(7 : W64)].length < 4096) ∧ (traced 0 16).host.bme = true ∧ (traced 0 16).host.degraded = false ∧
    (traced 4088 16).obs.trcWr + 8 * [(7 : W64)].length ≤ 4096 := by decide +kernel

/-! ### Token operations -/

/-- The bytes of a descriptor that an access finds. -/
def descBytes (s : State) (r : TRef) (need : Need) (va n : Nat) : Option (List Byte) :=
  match checkAll s (some r.tile) need (pieces va 0 n) with
  | .ok ps => if pagesCached s r.tile ps && freeToAccess s r ps && ps.all (fun p => !s.cached p.2.1 p.2.2) then (gatherDesc s (s.thread r) ps).bind (fun x => if x.1 == stOk then some x.2 else none) else none
  | _ => none
theorem descHere_of_descBytes {s : State} {r : TRef} {need : Need} {va n : Nat} {bs : List Byte} (h : descBytes s r need va n = some bs) : descHere s r need va n bs := by
  simp only [descBytes] at h
  split at h
  · next ps hps =>
    split at h
    · next hc =>
      cases hg : gatherDesc s (s.thread r) ps with
      | none => simp [hg] at h
      | some x =>
        simp only [hg, Option.bind_some] at h
        split at h
        · next hx =>
          simp only [Bool.and_eq_true] at hc
          exact ⟨ps, hps, hc.1.1, hc.1.2, hc.2, by rw [hg]; simp only [beq_iff_eq] at hx; simp only [Option.some.injEq] at h; rw [← h, ← hx]⟩
        · simp at h
    · simp at h
  · simp at h

/-- Words placed in memory. -/
def withWords (a : Nat) (ws : List Nat) (s : State) : State := s.put a (ws.flatMap (leBytes 8))
/-- An H-mode UPD of one chunk by SGD: master, gradient, first moment and working copy in column 0. -/
def updW (rowLen : Nat) : List Nat := [0 + 3 * 4 + 7 * 2 ^ 8 + rowLen * 2 ^ 16 + 2 ^ 36, 0x2000, 0x4000, 0x5000, 0, 0x6000, 0x1000, 0, 0, 0, 0, 0, 0, 0, 0, 0, 0]
def updD (rowLen : Nat) : State := withWords 0x1000 (updW rowLen) (dev th0)
def oksOf (c : Checked) : List (Piece × Nat × Nat) := match c with
  | .ok ps => ps
  | _ => []
def isOk (c : Checked) : Bool := match c with
  | .ok _ => true
  | _ => false
theorem isOk_eq {c : Checked} (h : isOk c = true) : c = .ok (oksOf c) := by
  cases c <;> simp_all [isOk, oksOf]
def updSF : SForm := { rd := 6, ra := 3 }
theorem witness_TokenOperationsIssue : updSF.x = none ∧ ((updD 1024).thread r0).stby = false ∧ (updD 1024).rep.fwSwitching = false ∧ ((updD 1024).split 2).pend = false ∧ ((updD 1024).split 3).pend = false ∧
    ((updD 1024).thread r0).toks.length < 16 ∧ ready (updD 1024) r0 [.s 6, .s 3] = true ∧ (th0.sreg 4).toNat % 8 ≠ 0 ∧ th0.haltsOn stMisaligned = false ∧ th0.haltsOn stFormMismatch = false ∧
    ready (updD 1024) r0 [.s 6, .s 4, .s 3] = true ∧ (th0.sreg 3).toNat ≠ 0 ∧ (th0.sreg 4).toNat % 4096 ≠ 0 ∧ (th0.sreg 3).toNat % 4096 = 0 ∧ (th0.sreg 3).toNat + (th0.sreg 3).toNat ≤ 2 ^ 52 ∧
    isOk (checkAll (dev th0) (some 3) .s (pagePieces [(0x1000, 4096)])) = true ∧ pagesCached (dev th0) 3 (oksOf (checkAll (dev th0) (some 3) .s (pagePieces [(0x1000, 4096)]))) = true ∧
    (oksOf (checkAll (dev th0) (some 3) .s (pagePieces [(0x1000, 4096)]))).all (fun p => !(dev th0).isLocal p.2.1 || winOf (paLocal p.2.1) != .host) = true ∧ 16 ≤ (th0.sreg 3).toNat ∧ (th0.sreg 1).toNat < 16 := by decide +kernel
/-- A UPD of one chunk, and one whose row length is not a multiple of 1024. -/
theorem witness_TokenOperationsIssue_upd : ∃ bs ps, descHere (updD 1024) r0 .r 0x1000 136 bs ∧
    (let d : UpdDesc := wordsOf 17 bs
     d.fieldsOk ((updD 1024).aMode 2 && d.op == 0) = true ∧ checkMix (updD 1024) (some 3) (updChecks d ((updD 1024).aMode 2 && d.op == 0) 0x1000) = .ok ps ∧ pagesCached (updD 1024) 3 ps = true ∧
       d.placed (updD 1024) ((updD 1024).aMode 2 && d.op == 0) (updPages (updD 1024) r0 0x1000 ps) = true) ∧
    ∃ bs', descHere (updD 1023) r0 .r 0x1000 136 bs' ∧ UpdDesc.fieldsOk (wordsOf 17 bs') ((updD 1023).aMode 2 && UpdDesc.op (wordsOf 17 bs') == 0) = false := by
  refine ⟨(descBytes (updD 1024) r0 .r 0x1000 136).getD [], oksOf (checkMix (updD 1024) (some 3) (updChecks ((wordsOf 17 ((descBytes (updD 1024) r0 .r 0x1000 136).getD []))) false 0x1000)),
    descHere_of_descBytes (by decide +kernel), ?_, (descBytes (updD 1023) r0 .r 0x1000 136).getD [], descHere_of_descBytes (by decide +kernel), ?_⟩ <;> decide +kernel

/-- RDW of 3 elements, and one of none. -/
def rdwD (n : Nat) : State := withWords 0x1000 [2 ^ 8 + n * 2 ^ 16, 0x2000, 0x3000, 0] (dev th0)
def rdwMix (va db n sb e : Nat) : List (Need × Piece) :=
  (pagePieces [(va, 32)]).map (fun q => (Need.rw, q)) ++ (pagePieces [(db, 4 * n)]).map (fun q => (Need.u, q)) ++ (pagePieces [(sb, e * n)]).map (fun q => (Need.r, q))
theorem witness_TokenOperationsIssue_rdw : ∃ bs ps, descHere (rdwD 3) r0 .r 0x1000 32 bs ∧
    (let w := wordsOf 4 bs
     bitsOf (w.getD 0 0) 3 0 = 0 ∧ bitsOf (w.getD 0 0) 47 16 = 3 ∧ bitsOf (w.getD 1 0) 51 0 = 0x2000 ∧ bitsOf (w.getD 2 0) 51 0 = 0x3000) ∧
    checkMix (rdwD 3) (some 3) (rdwMix 0x1000 0x2000 3 0x3000 4) = .ok ps ∧ pagesCached (rdwD 3) 3 ps = true ∧ (pagePieces [(0x2000, 12)]).all (fun q => addable (rdwD 3) (paOf (pagesOf ps) q.va).1) = true ∧
    ∃ bs', descHere (rdwD 0) r0 .r 0x1000 32 bs' ∧ bitsOf ((wordsOf 4 bs').getD 0 0) 47 16 = 0 := by
  refine ⟨(descBytes (rdwD 3) r0 .r 0x1000 32).getD [], oksOf (checkMix (rdwD 3) (some 3) (rdwMix 0x1000 0x2000 3 0x3000 4)),
    descHere_of_descBytes (by decide +kernel), ?_, ?_, ?_, ?_, (descBytes (rdwD 0) r0 .r 0x1000 32).getD [], descHere_of_descBytes (by decide +kernel), ?_⟩ <;> decide +kernel

/-- An ALLREDUCE in BF16 of this device, which has no ID, and device 7. -/
def collD : State := withWords 0x1000 [1 * 2 ^ 4 + 2 * 2 ^ 13, 5, 0x2000, 0x3000, 0x4000, 0, 0, 0] (withWords 0x4000 [0x0007_0FFF] (dev th0))
def collOp (s : State) : BOp :=
  { id := 0, tile := 3, th := 1, tok := 0, kind := .coll, reel := 0, slot := 0, addr := 0x1000, words := wordsOf 8 ((descBytes s r0 .r 0x1000 64).getD []), members := [0xFFF, 7], rank := 0 }
def collMix (q : BOp) : List (Need × Piece) :=
  (pagePieces [(0x1000, 64)]).map (fun q => (Need.rw, q)) ++ (pagePieces [(q.cdst, q.delt * q.dstUnits)]).map (fun q => (Need.c, q)) ++ (pagePieces [(q.csrc, q.celt * q.srcUnits)]).map (fun q => (Need.r, q))
theorem witness_TokenOperationsIssue_coll : ∃ bs mbs ps, descHere collD r0 .r 0x1000 64 bs ∧ collD.aMode 3 = false ∧ (collOp collD).words = wordsOf 8 bs ∧ bitsOf ((wordsOf 8 bs).getD 0 0) 25 13 = 2 ∧
    memberIds 2 mbs = [0xFFF, 7] ∧ (collOp collD).cop = 0 ∧ (collOp collD).csfmt ≤ 2 ∧ (collOp collD).cdst % 4 = 0 ∧ (collOp collD).csrc % (collOp collD).celt = 0 ∧ (collOp collD).cn ≠ 0 ∧
    descHere collD r0 .r (bitsOf ((wordsOf 8 bs).getD 4 0) 51 0) 4 mbs ∧ membersOk collD [0xFFF, 7] = true ∧ checkMix collD (some 3) (collMix (collOp collD)) = .ok ps ∧ pagesCached collD 3 ps = true ∧
    (pagePieces [((collOp collD).cdst, (collOp collD).delt * (collOp collD).dstUnits)]).all (fun p => addable collD (paOf (pagesOf ps) p.va).1) = true := by
  refine ⟨(descBytes collD r0 .r 0x1000 64).getD [], (descBytes collD r0 .r 0x4000 4).getD [], oksOf (checkMix collD (some 3) (collMix (collOp collD))),
    descHere_of_descBytes (by decide +kernel), ?_, ?_, ?_, ?_, ?_, ?_, ?_, ?_, ?_, descHere_of_descBytes (by decide +kernel), ?_, ?_, ?_, ?_⟩ <;> decide +kernel

/-- A PERM of 8 slices of 256 bytes between the same two devices. -/
def permD : State := withWords 0x1000 [2 + 8 * 2 ^ 16, 256, 0x2000, 0x5000, 0x6000, 0x4000, 0, 0] (withWords 0x4000 [0x0007_0FFF] (dev th0))
def permOp (s : State) : BOp := { id := 0, tile := 3, th := 1, tok := 0, kind := .perm, reel := 0, slot := 0, addr := 0x1000, words := wordsOf 8 ((descBytes s r0 .r 0x1000 64).getD []) }
def permMix (q : BOp) : List (Need × Piece) := (pagePieces [(q.pbuf, q.pq * q.pz)] ++ pagePieces [(q.pstage, q.pq * q.pz / 8)]).flatMap (fun p => [(Need.r, p), (Need.c, p)])
theorem witness_TokenOperationsIssue_perm : ∃ bs mbs map_ ps, descHere permD r0 .r 0x1000 64 bs ∧ (permOp permD).words = wordsOf 8 bs ∧ bitsOf ((wordsOf 8 bs).getD 0 0) 12 0 = 2 ∧ memberIds 2 mbs = [0xFFF, 7] ∧
    (permOp permD).pq = 8 ∧ (permOp permD).pz = 256 ∧ descHere permD r0 .r (bitsOf ((wordsOf 8 bs).getD 5 0) 51 0) 4 mbs ∧ membersOk permD [0xFFF, 7] = true ∧
    descHere permD r0 .r (bitsOf ((wordsOf 8 bs).getD 3 0) 51 0) 32 map_ ∧ checkMix permD (some 3) (permMix (permOp permD)) = .ok ps ∧ pagesCached permD 3 ps = true ∧
    (pagePieces [((permOp permD).pbuf, (permOp permD).pq * (permOp permD).pz)]).all (fun p => addable permD (paOf (pagesOf ps) p.va).1) = true ∧
    (pagePieces [((permOp permD).pstage, (permOp permD).pq * (permOp permD).pz / 8)]).all (fun p => permD.isLocal (paOf (pagesOf ps) p.va).1 && permD.scratch (paLocal (paOf (pagesOf ps) p.va).1)) = true := by
  refine ⟨(descBytes permD r0 .r 0x1000 64).getD [], (descBytes permD r0 .r 0x4000 4).getD [], (descBytes permD r0 .r 0x5000 32).getD [], oksOf (checkMix permD (some 3) (permMix (permOp permD))),
    descHere_of_descBytes (by decide +kernel), ?_, ?_, ?_, ?_, ?_, descHere_of_descBytes (by decide +kernel), ?_, descHere_of_descBytes (by decide +kernel), ?_, ?_, ?_, ?_⟩ <;> decide +kernel

/-- A UPD of two chunks in column 0 of M0, of operation OP. -/
def updOpS (op : Nat) (pre done : List Nat) : BOp :=
  { id := 4, tile := 3, th := 1, tok := 0, kind := .upd, reel := 0, slot := 0, addr := 0x1000, words := ((updW 2048).map (BitVec.ofNat 64)).set 0 (BitVec.ofNat 64 (op + 3 * 4 + 7 * 2 ^ 8 + 2048 * 2 ^ 16 + 2 ^ 36)), pages := [(0, 0xFFF00000000000, 0)], group := 7, tag := 2, pre, done }
def withBop (o : BOp) : State := { dev th0 with bank := { ops := [o] } }
def rdwOp (phase : Nat) : BOp := { updOpS 0 [] [] with kind := .rdw, words := [2 ^ 8 + 65 * 2 ^ 16, 0x2000, 0x3000, 0], phase, buf := [(0, List.replicate 256 1)] }
def scrubOp (done : List Nat) : BOp := { updOpS 0 [] done with kind := .scrub, addr := 0x8000, count := 2 }
theorem witness_BankEngineWork : (withBop (updOpS 0 [] [])).bop 4 = some (updOpS 0 [] []) ∧ (updOpS 0 [] []).id = 4 ∧ (dev th0).cueIn 0 0 = none ∧ (updOpS 0 [] []).chunks = 2 ∧ (updOpS 0 [] []).chunkCol 0 = (0, 0) ∧
    engineTurn ({ withBop (updOpS 0 [] []) with start := { phase := .run, recover := [(0, 0)] } } : State) (updOpS 0 [] []) 0 0 = false ∧ engineTurn (withBop (updOpS 0 [] [])) (updOpS 0 [] []) 0 0 = true ∧
    (updOpS 0 [] []).free (withBop (updOpS 0 [] [])) 0 = true ∧ (updOpS 0 [] []).chunkBad (withBop (updOpS 0 [] [])) false 0 = false ∧ (updOpS 0 [] []).updOp = 0 ∧ (updOpS 0 [] []).nextIn 0 [] = true ∧
    (updOpS 0 [] []).aMode = false ∧ (updOpS 0 [0, 1] []).mayStage = true ∧ (updOpS 0 [0, 1] []).nextIn 0 [] = true ∧ (updOpS 0 [0, 1] []).done.length + 1 < (updOpS 0 [0, 1] []).chunks := by decide +kernel
theorem witness_BankEngineWork_stage :
    (let o := updOpS 0 [0, 1] []
     let s := withBop o
     engineTurn s o 0 0 = true ∧ o.free s 0 = true ∧ o.chunkBad s false 0 = false ∧ (s.group 7).recorded 2 = none ∧ masterWaits s o 0 = false ∧ mirrorsOf s 7 = [] ∧ freeSlots s (0, 0) ≠ []) ∧
    (({ withBop (updOpS 0 [0, 1] []) with bank := { ops := [updOpS 0 [0, 1] []], groups := [(7, { history := [(2, true)] })] } } : State).group 7).recorded 2 = some true := by decide +kernel
theorem witness_BankEngineWork_derive : ∀ o ∈ [updOpS 1 [] [], updOpS 2 [] []], engineTurn (withBop o) o 0 0 = true ∧ o.free (withBop o) 0 = true ∧ o.chunkBad (withBop o) false 0 = false ∧ o.nextIn 0 o.done = true ∧
    o.done.length + 1 < o.chunks ∧ rangesMeet 0x6000 1024 0x6800 32 = false ∧ (UpdDesc.parts o.words 0 0).getD 5 none = some ⟨0x6000, 1024, if o.updOp = 1 then .u else .r⟩ ∧
    ((UpdDesc.parts o.words 0 0).getD 6 none).map (fun p => (p.va, p.n)) = some (0x6800, 32) ∧ 0x6800 + 32 ≤ storeBase := by decide +kernel
/-- An RDW of 65 elements at its first sector of 64, and a SCRUB of two pages at its first. -/
theorem witness_BankEngineWork_sector : (rdwOp 1).phase = 1 ∧
    (let o := rdwOp 2
     let s := withBop o
     rdwDirect s o = true ∧ o.bad = [] ∧ bitOf (o.words.getD 0 0) 12 = false ∧ o.sectorLen = 64 ∧ o.idx + o.sectorLen < o.rdwN ∧ s.poisoned (o.at_ 0x2000) 256 = false ∧ o.at_ 0x2000 + 256 ≤ storeBase) ∧
    (let o := scrubOp []
     let s := withBop o
     let a := paLocal (paOf o.pages 0x8000).1
     0 < o.count ∧ 0 ∉ o.done ∧ 0 ∉ o.pre ∧ o.done.length + 1 < o.count ∧ s.isLocal (paOf o.pages 0x8000).1 = true ∧ zeroReady s a = true ∧ s.populated a = true ∧ winOf a = .near ∧ a + 4096 ≤ storeBase ∧
       engineTurn s o (nearLayer a) (nearCol a) = true) ∧ 0 ∈ (scrubOp [0]).done := by decide +kernel

/-! ### Collectives and the Toll -/

def collE (phase : Nat) (kind : BKind) : BOp :=
  { id := 4, tile := 3, th := 1, tok := 0, kind, reel := 0, slot := 0, words := [1 * 2 ^ 4, 5, 0x2000, 0x3000, 0x4000, 0, 0, 0], pages := [(0, 5 * 2 ^ 44, 0)], members := [5, 7], digest := 0x1_0009, phase }
def collS (o : BOp) : State := linked { dev th0 with bank := { ops := [o] } }
def copenMsg : Msg := { mtype := mtCOPEN, dst := 5, src := 7, tag := 9, data := leBytes 8 0x1_0009 ++ [0] }
theorem witness_CollectiveEngine : (collS (collE 0 .coll)).obs.cntEn = false ∧ (collS (collE 0 .coll)).links.early = [] ∧ (collS (collE 0 .coll)).bop 4 = some (collE 0 .coll) ∧ (collS (collE 0 .coll)).cueIn 0 0 = none ∧
    ((collS (collE 0 .coll)).thread r0).live = true ∧ ((collS (collE 0 .coll)).thread r0).held = none ∧ (collE 0 .coll).farSource (collS (collE 0 .coll)) = false ∧ (collE 0 .coll).members = [(collS (collE 0 .coll)).ownId, 7] ∧
    (7 : Nat) ≠ (collS (collE 0 .coll)).ownId ∧ routePort (collS (collE 0 .coll)) 7 = some 3 ∧ ((collS (collE 0 .coll)).route 7).dn = false ∧ linkReady (collS (collE 0 .coll)) 3 3 = true ∧
    arrives (linked run0) 3 copenMsg = true ∧ copenMsg.mtype = mtCOPEN ∧ copenMsg.mtype ≠ mtCDATA ∧ (linked run0).bank.ops = [] ∧ (collE 3 .perm).phase = 3 ∧ (collE 7 .perm).phase ≠ 3 := by decide +kernel
/-- An eighth operation may open; with eight running a ninth waits. -/
theorem witness_CollectiveEngine_busy : (let l := (List.range 7).map (fun k => { collE 3 .coll with id := k + 10 })
     (l.filter (fun p => (p.kind == .coll || p.kind == .perm) && p.phase != 0)).length < 8) ∧
    (let l := (List.range 8).map (fun k => { collE 3 .coll with id := k + 10 })
     8 ≤ (l.filter (fun p => (p.kind == .coll || p.kind == .perm) && p.phase != 0)).length) := by decide +kernel
theorem witness_CollectiveEngine_open : (let o := { collE 3 .coll with members := [5, 7, 8] }
     arrives (collS o) 3 copenMsg = true ∧ copenMsg.src ∈ o.members ∧ copenMsg.src ∉ o.opens ∧ copenMsg.param = 0 ∧ o.opens.length + 2 < o.members.length ∧ leNat (copenMsg.data.take 8) = o.digest.toNat ∧
       (copenMsg.data.getD 8 0).toNat = b2n o.aMode) ∧
    (let o := { collE 3 .perm with digest := 8 }
     copenMsg.src ∈ o.members ∧ o.members.length ≤ o.opens.length + 2 ∧ leNat (copenMsg.data.take 8) ≠ o.digest.toNat) := by decide +kernel
def permE (count idx : Nat) : BOp := { collE 7 .perm with words := [2 + 8 * 2 ^ 16, 256, 0x2000, 0x5000, 0x6000, 0x4000, 0, 0], count, idx }
theorem witness_CollectiveEngine_perm : (permE 2048 7).phase = 7 ∧ 8 * ((permE 2048 7).pq / 8) * (permE 2048 7).pz ≤ (permE 2048 7).count ∧ (permE 2048 7).idx = 7 ∧ (collS (permE 2048 7)).links.reqs = [] ∧
    (collS (permE 2048 7)).links.watches = [] ∧ (permE 2047 7).count < ((permE 2047 7).idx + 1) * ((permE 2047 7).pq / 8) * (permE 2047 7).pz := by decide +kernel
def cdata (param addr : Nat) (n : Nat) : Msg := { mtype := mtCDATA, dst := 5, src := 7, tag := 9, param, addr, data := List.replicate n 1 }
/-- An ALLGATHER of two members with five bytes each, its first bytes; a DIRECT ALLREDUCE of BF16 with two contributions to come. -/
theorem witness_CollectiveEngine_data : (let o := { collE 4 .coll with words := [2, 5, 0x2000, 0x3000, 0x4000, 0, 0, 0] }
     let m := cdata 0 5 2
     arrives (collS o) 3 m = true ∧ m.src ∈ o.members ∧ m.tag = o.digest.toNat % 65536 ∧ m.param / 8 = 0 ∧ o.aMode = false ∧ bitOf (o.cw 0) 12 = false ∧ o.idx = 0 ∧ 2 ≤ o.cop ∧
       (∀ j, j < m.data.length → o.at_ (o.cdst + m.addr + j) = 0x3005 + j) ∧ 0x3005 + m.data.length ≤ storeBase ∧ o.count + m.data.length < o.needFinal) ∧
    (let o := { collE 4 .coll with members := [5, 7, 8] }
     let m := cdata cmCONTRIB 0 2
     arrives (collS o) 3 m = true ∧ m.src ∈ o.members ∧ m.tag = o.digest.toNat % 65536 ∧ o.cop < 2 ∧ m.param = cmCONTRIB ∧ o.alg = 0 ∧ m.data.length = o.celt ∧ o.dstFirst ≤ m.addr ∧ o.acks + 1 < o.needAcks ∧
       (collS o).poisoned 0x3000 4 = false) := by decide +kernel

/-- What a COLL or PERM finds settled at its places; no far source and no more urgent operation. -/
theorem witness_CollectiveEngine_settled : ((collE 4 .coll).settled (collS (collE 4 .coll))).isSome = true ∧ ((permE 2048 7).settled (collS (permE 2048 7))).isSome = true ∧
    (collS (collE 0 .coll)).bank.ops.all (fun p => (p.portUrgency (collS (collE 0 .coll))).isNone) = true := by decide +kernel
/-- Resolutions of a step that the operation has recorded. -/
theorem witness_BankEngineWork_resolved : (updOpS 0 [0, 1] []).resolved = none ∧ ({ updOpS 0 [0, 1] [] with resolved := some true } : BOp).resolved = some true ∧ ((withBop (updOpS 0 [0, 1] [])).group 7).recorded 2 ≠ some false := by decide +kernel

def tollOp : BOp := { id := 4, tile := 3, th := 1, tok := 0, kind := .toll, reel := 0, slot := 0, group := 7 }
def tollS (x : Group) (o : List BOp) : State := linked { dev th0 with bank := { groups := [(7, x)], ops := o } }
theorem witness_TollAndRoll_send : (7 : Nat) < 16 ∧ (tollS {} []).obs.cntEn = false ∧ (tollS {} []).obs.trcEn = false ∧ ((tollS {} []).split 9).pend = false ∧ (tollS {} []).pairs.mir = [] ∧ ((tollS {} []).group 7).joined = [] ∧
    ((tollS { joined := [4], busy := true } [tollOp]).group 7).busy = true ∧
    (let s := tollS { joined := [4] } [tollOp]
     (s.group 7).joined = [tollOp.id] ∧ (s.group 7).busy = false ∧ (s.group 7).later = [] ∧ (s.group 7).valid = false ∧ s.bank.ops = [tollOp] ∧ tollOp.dead = false ∧ s.aMode 9 = false ∧ (s.thread r0).live = true ∧ (s.thread r0).held = none) := by decide +kernel
def slot0 (mark : Nat) : RollSlot := { layer := 0, col := 0, slot := 1, mark, group := 7, step := 2, wf := false, second := false, places := [0x2000, 0x5000, 0x5400, 0, 0, 0x6000, 0x6400], payload := List.replicate 6208 1 }
def rolled (mark : Nat) : State := { run0 with pow := { doms := [(64, { st := 2 })] }, bank := { roll := [slot0 mark] } }
theorem witness_TollAndRoll_slot : (rolled 2).slotAt 0 0 1 = some (slot0 2) := rfl
theorem witness_TollAndRoll_commit : (slot0 2).mark = 2 ∧ (slot0 1).mark ≠ 2 ∧ (rolled 2).start.recover.contains (0, 0) = false ∧ (rolled 2).pairs.expRun = false ∧ (rolled 2).tiles = [] ∧
    (rolled 2).links.watches = [] ∧ (slot0 2).spans.all (fun p => p.1 + p.2 ≤ storeBase) = true ∧ (slot0 2).spans = [(0x2000, 4096), (0x5000, 1024), (0x5400, 32), (0x6000, 1024), (0x6400, 32)] := by decide +kernel
theorem witness_TollAndRoll_recovery : (0, 0) ∉ (rolled 2).start.recover ∧
    (let s := { rolled 3 with start := { phase := .run, recover := [(0, 0)] } }
     (0, 0) ∈ s.start.recover ∧ (∀ y ∈ s.bank.roll, y.layer = 0 → y.col = 0 → y.mark = 0 ∨ y.mark = 3) ∧ s.bank.roll.all (fun y => !y.query) = true) := by decide +kernel
def bound (x : Group) : State := tollS { x with valid := true, digest := 6 } []
theorem witness_TollAndRoll_messages : (tollS {} []).bank.groups.find? (fun x => x.2.valid && x.2.digest == 6) = none ∧ (bound {}).bank.groups.find? (fun x => x.2.valid && x.2.digest == 6) = some (7, { valid := true, digest := 6 }) ∧
    (bound {}).group 7 = { valid := true, digest := 6 } ∧ routePort (bound {}) 7 = some 3 ∧ ((bound {}).route 7).dn = false ∧ linkReady (bound {}) 3 3 = true ∧ (bound { step := 3 }).obs.cntEn = false ∧
    ({ step := 3 } : Group).tagNow = 3 ∧ ({ step := 3, busy := true } : Group).tagNow = 2 ∧ (((bound { step := 3, members := [5, 7] }).group 7).members = [(bound {}).ownId, 7]) ∧ (7 : Nat) ≠ (bound {}).ownId ∧
    ({ queryTag := some 2 } : Group).queryTag = some 2 ∧ (bound { queryTag := some 2 }).bank.roll = [] ∧ ({} : Group).queryTag ≠ some 2 ∧ (bound { queryTag := some 2 }).gripRuns = true := by decide +kernel
def bindS : State := withWords 0x4000 [0x0007_0FFF] { dev th0 with bank := { groups := [(2, { mlist := 0x4000, mcount := 2, pend := true })] }, xl := { base := [⟨0, 0x10000, leaf0⟩] } }
theorem witness_TollAndRoll_bind : (bindS.group 2).pend = true ∧ (bindS.group 2).busy = false ∧ fwBytes bindS ((bindS.group 2).mlist.toNat % 2 ^ 52) (2 * (bindS.group 2).mcount) = some [0xFF, 0x0F, 7, 0] ∧
    bindS.ownId ∈ memberIds 2 [0xFF, 0x0F, 7, 0] ∧ bindS.ownId ∉ memberIds 2 [0xFE, 0x0F, 7, 0] ∧ bindS.bank.groups.all (fun y => y.1 == 2 || !y.2.valid || y.2.digest != 6) = true ∧ ((bindS.group 3).pend = false) := by decide +kernel

/-! ### Reels and launches -/

def reelS (R : Reel) : State := { dev th0 with reels := [(2, R)], pow := { doms := [(0, { st := 2 }), (1, { st := 2 }), (64, { st := 2 })] } }
/-- A launch record: kind, thread count, command identifier, program counter and tiles. -/
def lrec (kind t cid : Nat) (pc : W64) (tiles : W64) : List W64 := [BitVec.ofNat 64 (kind + t * 2 ^ 8 + cid * 2 ^ 16), pc, tiles, 0, 0, 0, 1, 2, 3, 4]
def sqFull : Ring := { en := true, logn := 4, head := 15, tail := 0 }
def ready1 : Reel := { state := 1, allot := 31, sq0 := sqFull }
theorem witness_ReelsAndLaunches_control : run0.start.phase ≠ .safe ∧ bitOf (4 : W64) 2 = true ∧ bitOf (4 : W64) 3 = false ∧ bitOf (8 : W64) 2 = false ∧ bitOf (8 : W64) 3 = true ∧ bitOf (12 : W64) 2 = bitOf (12 : W64) 3 ∧
    ((reelS { state := 2 }).reel 2).state = 2 ∧ ((reelS { state := 2 }).reel 2).seqs = [] ∧ ((reelS { state := 2 }).reel 2).waiting = [] ∧ ((reelS { state := 2 }).mir 2).st = 0 ∧ ((reelS ready1).reel 2).state ≠ 2 := by decide +kernel
/-- 24 threads of an allotment of 31 start on a free tile; 25 are too many; a taken tile must wait. -/
theorem witness_ReelsAndLaunches_launch : (let s := reelS ready1
     s.obs.cntEn = false ∧ s.obs.trcEn = false ∧ ((s.reel 2).sq 0).head ≠ ((s.reel 2).sq 0).tail ∧ ((s.reel 2).sq 1).head = ((s.reel 2).sq 1).tail ∧ ((s.reel 2).sq 0).en = true ∧ s.directorUp = true ∧ s.rep.fwSwitching = false ∧
       (s.reel 2).state = 1 ∧ bitsOf ((lrec 1 24 9 0x100 0x10).getD 0 0) 7 0 = 1 ∧ recPc (lrec 1 24 9 0x100 0x10) % 8 = 0 ∧ recThreads (lrec 1 24 9 0x100 0x10) = 24 ∧ Nat.min (s.reel 2).allot 24 = 24 ∧
       recTiles (lrec 1 24 9 0x100 0x10) = [4] ∧ s.tileThere 4 = true ∧ freeSeqSlots (s.reel 2) ≠ [] ∧ launchFits s 2 (lrec 1 24 9 0x100 0x10) = true ∧ launchOpen s = true ∧
       launchFits s 2 (lrec 1 24 9 0x100 8) = false ∧ 24 < recThreads (lrec 1 25 9 0x100 0x10) ∧ recPc (lrec 1 24 9 0x104 0x10) % 8 ≠ 0 ∧ bitsOf ((lrec 0 0 9 0 0).getD 0 0) 7 0 = 0) ∧
    ((reelS { ready1 with state := 2 }).reel 2).state ≠ 1 := by decide +kernel
def helped (n : Nat) : State := { reelS { ready1 with helper := some { op := 4, pc := 0x200, threads := n } } with bank := { ops := [updOpS 0 [] []] } }
theorem witness_ReelsAndLaunches_helper : helperWaiting (reelS ready1) 2 = none ∧ helperWaiting (helped 23) 2 = some ({ op := 4, pc := 0x200, threads := 23 }, updOpS 0 [] []) ∧ (freeThreads (helped 23) 3).length = 23 ∧
    (helped 23).directorUp = true ∧ 23 ≤ (freeThreads (helped 23) 3).length ∧ (freeThreads (helped 24) 3).length < 24 ∧ quietThreads (helped 23) = true ∧ (updOpS 0 [] []).dead = false ∧ ((helped 23).thread r0).live = true := by decide +kernel
def crec (told : Bool) : ComplRec := { cid := 9, status := 0, slot := some 3, q := 0, tick := 8, told }
def completing (told : Bool) (tail : Nat) : State := reelS { ready1 with waiting := [crec told], cq := { en := true, logn := 4, head := 0, tail } }
/-- One entry is left; none is left. -/
theorem witness_ReelsAndLaunches_completion : ((completing false 14).reel 2).waiting = crec false :: [] ∧ ((completing false 14).reel 2).cq.en = true ∧ ((completing false 14).reel 2).cq.full = false ∧
    ((completing false 14).reel 2).cq.ien = false ∧ ((completing false 15).reel 2).cq.full = true ∧ ((completing true 15).reel 2).waiting.all (fun c => c.told) = true ∧ (crec false).told = false ∧ ([] : List ComplRec).contains (crec false) = false := by
  decide +kernel

/-- Contributions of an unbound group, of a leaf, and of the root with its child's OR and without it. -/
theorem witness_TollAndRoll_contribution : contribReady (tollS { joined := [4] } [tollOp]) 7 = true ∧ mirrorsOf (tollS { joined := [4] } [tollOp]) 7 = [] ∧
    (let x : Group := { joined := [4], valid := true, members := [7, 5], digest := 6 }
     contribReady (tollS x [tollOp]) 7 = true ∧ x.memberLost (tollS x [tollOp]) = false ∧ x.rankOf (tollS x [tollOp]).ownId = 1 ∧ (kidsOf 2 1).all (fun k => x.kids.contains k) = true ∧ x.sentUp = false ∧
       routePort (tollS x [tollOp]) 7 = some 3 ∧ linkReady (tollS x [tollOp]) 3 3 = true) ∧
    (let x : Group := { joined := [4], valid := true, members := [5, 7], kids := [1] }
     x.rankOf 5 = 0 ∧ (kidsOf 2 0).all (fun k => x.kids.contains k) = true ∧ (kidsOf 2 0).all (fun k => [].contains k) = false) ∧
    (let s := tollS { joined := [4], valid := true, members := [5, 7] } [tollOp]
     (s.group 7).memberLost { s with links := { s.links with lost := [7] } } = true) := by decide +kernel
/-- A child's TOLL_UP that arrives early, one that completes the OR, and one of a step that has resolved; a query after a loss. -/
theorem witness_TollAndRoll_kids : (let x : Group := { step := 3, busy := true, valid := true, digest := 6, members := [5, 7], history := [(1, true)] }
     (bound x).links.claimed = true ∧ x.tagNow = 2 ∧ x.tagNow ≠ 1 ∧ x.recorded 1 = some true ∧ 1 ∈ kidsOf 2 0 ∧ 1 ∉ x.kids ∧ x.rankOf 5 = 0 ∧ (kidsOf 2 0).all (fun k => [1].contains k) = true ∧ x.members.getD 1 0 = 7 ∧
       ({ x with lossAsk := true } : Group).lossAsk = true ∧ x.lossAsk = false) ∧
    (let p : PMirror := { taking := true, tgrp := 7, sealed_ := some (2, (0, 0)) }
     p.taking = true ∧ p.tgrp = 7 ∧ p.sealed_.any (fun q => q.1 == 2) = true ∧ p.ans = none) ∧ bindS.xl.flush = false ∧ ({ bindS with xl := { flush := true } } : State).xl.flush = true := by decide +kernel
theorem witness_TollAndRoll_chunk : exportHolds (rolled 2) (slot0 2) = false ∧ slotWanted (rolled 2) (slot0 2) = false ∧ (rolled 2).bank.roll.all (fun z => !(z.inCol 0 0 && z.mark == 2 && slotWanted (rolled 2) z)) = true ∧
    slotWanted ((withOp { op0 .load (.scalar 5 8) true with parts := [⟨16, 0x1000, 0, [(0xFFF00000002000, 0, 8)], false, true, false, false⟩] })) (slot0 2) = true := by decide +kernel
/-- The queue after queue 0 of reel 0 in the rotation is queue 0 of reel 2 where no other holds a record. -/
theorem witness_ReelsAndLaunches_turn : nextQueue (reelS ready1) = some (2 * 2 + 0) ∧ nextQueue (reelS { ready1 with sq1 := sqFull }) = some (2 * 2 + 0) ∧
    nextQueue { reelS { ready1 with sq1 := sqFull } with rep := { dirQueue := 4 } } ≠ some (2 * 2 + 0) := by decide +kernel

/-! ### Rings, DMA and the host -/

def ringed (i : RingId) (x : Ring) : State := run0.setRing i x
/-- LOGN 4 and 12 are taken, 3 and 13 are not. -/
theorem witness_RingsDmaAndHost_rings : run0.start.phase ≠ .safe ∧ ringThere (.sq 15 1) = true ∧ ringThere .eq = true ∧ ringThere (.dma 3) = true ∧ bitOf (0x9 : W64) 0 = true ∧ bitsOf (0x9 : W64) 4 1 = 4 ∧ bitsOf (0x19 : W64) 4 1 = 12 ∧
    bitsOf (0x7 : W64) 4 1 < 4 ∧ 12 < bitsOf (0x1B : W64) 4 1 ∧ bitOf (0x8 : W64) 0 = false ∧ (run0.ring .eq).en = false ∧ ((ringed .eq { en := true, logn := 4 }).ring .eq).en = true ∧
    (∀ i ∈ [RingId.sq 15 1, .dma 3, .cq 15, .eq], ((ringed i { en := true, logn := 4 }).ring i).en = true ∧ 15 < 2 ^ ((ringed i { en := true, logn := 4 }).ring i).logn ∧ 2 ^ ((ringed i { en := true, logn := 4 }).ring i).logn ≤ 16) ∧
    bitsOf (15 : W64) 11 0 = 15 ∧ run0.host.eqOwed = 0 ∧ run0.pairs.mlistOn = false ∧
    (let s := ringed (.cq 3) { en := true, logn := 4, ien := true, unsig := 1, delay := 2 }
     (s.ring (.cq 3)).ien = true ∧ (s.ring (.cq 3)).unsig ≠ 0 ∧ (s.ring (.cq 3)).delay ≠ 0 ∧ (bitOf (mget (1 : W32) s.host.msix 3) 0 || bitOf (mget (0 : W32) s.host.cfg 0x14) 30) = true ∧
       (bitOf (mget (1 : W32) ({ s with host := { s.host with msix := [(3, 0)] } } : State).host.msix 3) 0 || bitOf (mget (0 : W32) s.host.cfg 0x14) 30) = false) ∧ (run0.ring .eq).ien = false := by decide +kernel
/-- A descriptor of n bytes between host memory and near memory of the device without an ID. -/
def dmaW (out : Bool) (n : Nat) : List W64 := [BitVec.ofNat 64 (n + b2n out * 2 ^ 32), 0x80000, BitVec.ofNat 64 (0xFFF * 2 ^ 44 + 0x2000), 0]
def dmaS (bme : Bool) (cur : Option (List W64)) : State := { dev th0 with host := { bme, dma := [(1, { ring := { en := true, logn := 4, head := 15, tail := 0 }, cur })] } }
theorem witness_RingsDmaAndHost_dma : ((dmaS true none).dma 1).ring.en = true ∧ ((dmaS true none).dma 1).ring.head ≠ ((dmaS true none).dma 1).ring.tail ∧ ((dmaS true none).dma 1).ring.head < 2 ^ ((dmaS true none).dma 1).ring.logn ∧
    ((dmaS true none).dma 1).cur = none ∧ dLen (dmaW false 8) ≠ 0 ∧ (dmaS true none).isLocal (dDev (dmaW false 8)) = true ∧ rangeServes (dmaS true none) (paLocal (dDev (dmaW false 8))) 8 = true ∧ (dmaS false none).host.bme = false ∧
    (dmaS true none).host.bme = true ∧ (dmaS true none).host.degraded = false ∧ dToHost (dmaW false 8) = false ∧ dmaCheck (dmaS true none) (paLocal (dDev (dmaW false 8))) 8 = stOk ∧ ((dmaS true none).dma 0).ring.en = false ∧
    ((dmaS true (some (dmaW true 8))).dma 1).cur = some (dmaW true 8) ∧ dToHost (dmaW true 8) = true ∧ dmaOut (dmaS true (some (dmaW true 8))) 1 = false ∧ ((dmaS true (some (dmaW true 8))).dma 1).status = 0 ∧
    ((dmaS true (some (dmaW false 8))).dma 1).hostDone = false ∧
    dmaOut ({ dmaS true (some (dmaW true 8)) with links := { reqs := [{ tag := 0, dst := 7, port := 3, mtype := mtRD, owner := .dma 1 0, msg := msg7 mtRD }] } } : State) 1 = true := by decide +kernel
/-- BAR2 with its base in near memory: the last 256 bytes of a sector, and a length of 0. -/
def barS : State := { dev th0 with host := { bar2Base := 0 } }
def coreReq : HostReq := ⟨6, .core 2 1 5 8 1, 0x80000, 8⟩
theorem witness_RingsDmaAndHost_requests : run0.start.phase = .run ∧ State.reset.start.phase ≠ .run ∧ State.reset.start.phase ≠ .safe ∧ winOf (bar2Addr barS 0x1FF0) = .near ∧ barS.bank.roll = [] ∧ barS.links.watches = [] ∧
    bar2Ur barS true 0x1FF0 16 = false ∧ bar2Waits barS (bar2Addr barS 0x1FF0) 16 = false ∧ 16 ≤ 256 - bar2Addr barS 0x1FF0 % 256 ∧ barS.dbgThreads = false ∧ bar2Ur barS false 0x1FF0 16 = false ∧ bar2Ur barS true 0x1FF0 0 = true ∧ bar2Ur barS false (2 ^ 40) 4 = true ∧
    (∀ q ∈ run0.host.reqs, q.tag ≠ 6) ∧ (let s := { coreAt 0 { busy := true } with host := { reqs := [coreReq] } }
      quietThreads s = true ∧ s.host.reqs = coreReq :: []) ∧
    bar0Ok 4 8 = false ∧ bar0Ok (2 ^ 28 - 8) 8 = true ∧ bar0Ok (2 ^ 28) 4 = false ∧ safe0.start.phase = .safe ∧ safeServes 0x800020 = false ∧ 0x2000000 ≤ 2 ^ 28 - 8 ∧ bar0Ok 0x800008 8 = true ∧ 8 ≤ 0x800008 % 16 := by decide +kernel

/-! ### Translations and the cache -/

def xS (x : Xlate) : State := { dev th0 with xl := x }
theorem witness_Translations : (xS {}).xl.busy = false ∧ (xS { busy := true }).xl.busy = true ∧ (xS { arg := 0x10000 }).xl.arg.toNat % 0x10000 = 0 ∧ (xS { arg := 0xFFFF }).xl.arg.toNat % 0x10000 ≠ 0 ∧ (xS {}).xl.arg.toNat = 0 ∧
    bitOf leaf0 0 = true ∧ bitOf leaf0 1 = true ∧ frameOf leaf0 % 0x10000 = 0 ∧ frameOf leaf0 % 0x200000 = 0 ∧ frameOf leaf0 % 0x40000000 = 0 ∧ frameOf (leaf0 + 0x10000) % 0x200000 ≠ 0 ∧ (xS { arg := leaf0 }).xl.base.length < 16384 ∧
    (∀ w ∈ (xS { walks := [{ va := 0x2000, aMode := false }] }).xl.walks, w.aMode = false) ∧ (∃ w ∈ (xS { walks := [{ va := 0x2000, aMode := true }] }).xl.walks, w.aMode = true ∧ pageOf w.va = 0) ∧
    quietThreads (xS {}) = true ∧ fetchWaiters (xS {}) 0 = [] ∧ usesRange (xS {}) 0 (2 ^ 52) = false ∧ (xS { busy := true, op := 1 }).xl.op ≤ 1 ∧ 1 < (xS { busy := true, op := 2 }).xl.op ∧
    usesRange ({ updD 1024 with bank := { ops := [updOpS 0 [] []] } } : State) 0 0x10000 = true ∧ (xS { flush := true }).xl.walks = [] ∧ (xS { flush := true }).xl.flush = true ∧ (10 : Nat) ≠ 8 ∧ run0.start.phase ≠ .safe := by decide +kernel
/-- A walk whose root lists no table, one met by an invalidation, one inside a range being invalidated. -/
theorem witness_Translations_walk : (let s := xS { walks := [{ va := 0x12000, aMode := false }] }
     s.xl.walks.find? (fun w => pageOf w.va == pageOf 0x10000 && !w.aMode) = some { va := 0x12000, aMode := false } ∧ s.invalidating 0x12000 = false ∧
       (match walk { s with xl := { s.xl with root := 0 } } 0x12000 with
         | .ok _ => false
         | .error st => st == stXlateFault) = true) ∧
    (xS { busy := true, invLo := 0x10000, invHi := 0x20000 }).invalidating 0x1FFFF = true ∧ (xS { busy := true, invLo := 0x10000, invHi := 0x20000 }).invalidating 0x20000 = false := by decide +kernel
/-- A walk that finds a leaf: the root at 0x10000, and a table of level 2 at 0x30000 with a 1 GiB leaf. -/
theorem witness_Translations_walkOk : (match walk (withWords 0x10000 [0x30001] (withWords 0x30000 [leaf0.toNat] (xS { root := 1 }))) 0x12000 with
    | .ok e => e == ⟨0, 0x40000000, leaf0⟩
    | .error _ => false) = true := by decide +kernel

def hl : Nat := 0xFFF * 2 ^ 32 + hbmBase / 4096
def cS (c : Cache) : State := { dev th0 with cache := c }
def q1 : BitVec 20 := 1
theorem witness_CacheAndPartition : run0.start.phase ≠ .safe ∧ (cS { copBusy := true }).cache.copBusy = true ∧ (cS {}).cache.copBusy = false ∧ copLineStatus (cS {}) hl = 0 ∧ copLineStatus (cS {}) (0xFFF * 2 ^ 32) = stFormMismatch ∧
    copLineStatus (cS {}) (hl - 1) ≠ 0 ∧ (cS {}).cacheCols = 0 ∧ (cS { quarters := q1 }).cacheCols = 16 ∧ pinFits (cS { quarters := q1 }) [hl, hl + 1] = true ∧
    (∀ l ∈ [hl], ((cS { quarters := q1, lines := [{ line := hl }] }).line l).isSome = true) ∧ (∀ l ∈ [hl], ((cS { quarters := q1, lines := [{ line := hl, pinned := true }] }).line l).any (fun x => x.pinned) = true) ∧
    (cS {}).obs.cntEn = false ∧ quietThreads (cS {}) = true ∧ (cS {}).cache.copEvt = false ∧ (cS { qpend := some 3 }).quiet = true ∧ (cS { qpend := some 3 }).bank.roll = [] ∧ q1 &&& ~~~3 = 0 ∧ (cS { qpend := none }).cache.qpend = none ∧
    (collS (collE 0 .coll)).quiet = false ∧ 0 < Config.mlayers run0.build ∧ ((dev th0).dom 64).st = 2 ∧ (run0.dom 64).st ≠ 2 := by decide +kernel
/-- Lines of one set. -/
def sameSet : List Nat := [0, 114702, 147474, 163860, 196632, 278562, 294948, 327720, 442422, 475194, 491580, 540738, 557124, 589896, 704598, 737370, 753756].map (hl + ·)
/-- Twelve pins of one set fit, thirteen do not. -/
theorem witness_CacheAndPartition_pins : pinFits (cS { quarters := q1, lines := ((sameSet.drop 1).take 11).map (fun l => { line := l, pinned := true }) }) [hl] = true ∧
    pinFits (cS { quarters := q1, lines := ((sameSet.drop 1).take 12).map (fun l => { line := l, pinned := true }) }) [hl] = false := by decide +kernel
def fill0 (st : Bool) : Fill := { line := hl, sectors := 1, alloc := 0, stalled := st }
theorem witness_CacheAndPartition_fill : (cS { quarters := q1, fills := [fill0 false] }).cache.fills = [fill0 false] ∧ (fill0 false).stalled = false ∧ (cS {}).isLocal (hl * 4096) = true ∧ winOf (paLocal (hl * 4096)) = .hbm ∧
    (fill0 false).sectors &&& ~~~(1 : BitVec 16) = 0 ∧ (fill0 true).stalled = true ∧ ((cS { quarters := q1, fills := [fill0 true] }).allocLine hl 0).isSome = true ∧
    ((cS { quarters := q1, lines := [{ line := hl, held := true }] }).line hl).any (fun x => x.held) = true ∧
    ((cS { quarters := q1, lines := (sameSet.drop 1).zipIdx.map (fun x => { line := x.1, held := true, way := x.2 }) }).allocLine hl 0).isNone = true := by decide +kernel

/-- A set of the base-die cache with a way free; one A-mode wait that a load covers, and none; no mirror waits to open and no export for its words. -/
theorem witness_Translations_load : ((xS {}).xl.base.filter (fun x => x.set == (⟨0, 0x10000, leaf0⟩ : XEntry).set)).length < 16 ∧
    (xS { walks := [{ va := 0x2000, aMode := true }] }).xl.walks.filter (fun w => w.aMode && 0 ≤ w.va && w.va < 0 + 0x10000) = [{ va := 0x2000, aMode := true }] ∧
    (∀ m ∈ run0.pairs.mir, m.2.toOpen = false) ∧ run0.pairs.expBusy = false := by decide +kernel
/-- The journal's mode written again inside the window, and another written outside it. -/
theorem witness_Translations_journal : bitOf (0 : W64) 0 = run0.start.altmode ∧ bitOf (1 : W64) 0 ≠ run0.start.altmode ∧ ({ run0 with pow := { tg := 40 } } : State).windowOpen = true ∧
    ({ run0 with pow := { tg := 341 } } : State).windowOpen = false := by decide +kernel
/-- A line outside the windows after one inside; a line that an eviction waits for. -/
theorem witness_CacheAndPartition_order : (∀ x ∈ [hl], copLineStatus (cS {}) x = 0) ∧ copLineStatus (cS {}) (hl - 1) ≠ 0 ∧ (cS {}).cache.runOp = 0 ∧ 2 ≤ (cS { copBusy := true, runOp := 2 }).cache.runOp ∧
    ((cS { quarters := q1, lines := [{ line := hl, held := true, victim := true }] }).line hl).any (fun x => x.held || x.victim) = true ∧
    (∀ f ∈ (cS { quarters := q1, fills := [fill0 false] }).cache.fills, f.stalled = false) ∧ (cS { quarters := q1 }).cacheCols ≠ 0 := by decide +kernel

/-! ### Repair -/

def repS (x : Repair) (a : Bool) : State := { dev th0 with rep := x, host := { splits := [(6, { act := a })] }, pow := { doms := [(64, { st := 2 }), (3, { st := 2 })], tg := 40 } }
/-- A reserve of one row more serves one retirement; the last spare row of a bank, and none left. -/
theorem witness_RepairAndWaitingWrites_rows : winOf (128 * 32) = .near ∧ nearLayer (128 * 32) = 0 ∧ nearCol (128 * 32) = 0 ∧ 128 ∉ (repS {} false).poison ∧ (repS {} false).populated (128 * 32) = true ∧ ((repS {} false).split 6).pend = false ∧
    (repS {} false).aMode 6 = false ∧ (repS {} true).aMode 6 = true ∧ rowBusy (repS {} false) (rowBase (128 * 32)) = false ∧ usedSpares (repS { rows := (List.range 23).map (fun k => { addr := 8192 * k, spare := k, switched := true }) } false) 0 < 24 ∧
    ¬ usedSpares (repS { rows := (List.range 24).map (fun k => { addr := 8192 * k, spare := k, switched := true }) } false) 0 < 24 ∧ run0.start.phase ≠ .safe ∧ (repS { rprBusy := true } true).rep.rprBusy = true ∧
    repairable (repS { rprAddr := 0x1000 } true) 0x1000 = true ∧ repairable (repS {} true) storeBase = false ∧ usedSpares (repS {} true) (rowUnit (repS {} true) (rowBase 0x1000)) < spareRows (rowUnit (repS {} true) (rowBase 0x1000)) ∧
    (let s := repS { rows := [{ addr := 0x2000, spare := 0 }] } true
     s.rep.rows.find? (fun r => r.addr == 0x2000 && !r.switched) = some { addr := 0x2000, spare := 0 }) := by decide +kernel
theorem witness_RepairAndWaitingWrites_retire : (let s := repS { rprAddr := BitVec.ofNat 64 hbmBase, rsvRows := reserveFor .t 1 } true
     s.aMode 6 = true ∧ winOf (bitsOf s.rep.rprAddr 43 0) = .hbm ∧ s.populated (bitsOf s.rep.rprAddr 43 0) = true ∧ s.rep.retiring = none ∧ hbmPcOf s.build 0 ∉ s.rep.retired ∧ s.rep.retired.length < maxRetire s.build ∧
       reserveFor s.build 1 ≤ s.rep.rsvRows ∧ s.rep.pfull = false) ∧ ¬ reserveFor .t 1 ≤ reserveFor .t 1 - 1 ∧
    (repS { retiring := some 3, retNext := 137328 } true).rep.retNext < 137329 - (repS { retiring := some 3, retNext := 137328 } true).rep.rsvRows ∧ 137329 - (repS { retiring := some 3, retNext := 137329 } true).rep.rsvRows ≤ 137329 ∧
    (repS {} true).permWait = false ∧ (repS {} true).quiet = true ∧ bitsOf (0 : W64) 11 0 = 0 ∧ reserveFor (repS {} true).build (repS {} true).rep.retired.length ≤ 0 ∧ (repS {} true).rep.moved = [] ∧
    (collS (collE 0 .coll)).quiet = false ∧ bitsOf (0 : W64) 11 0 < reserveFor .t 1 := by decide +kernel
/-- 256 permanent staged records hold a permanent write back, 255 do not; 10 and 85 degrees C are inside the writing window. -/
theorem witness_RepairAndWaitingWrites_records : (let r : HlogRec := { tick := 0, seq := 0, kind := 5, perm := true, status := 0, unit := 0, detail := 0 }
     (repS { staged := List.replicate 256 r } true).permWait = true ∧ (repS { staged := List.replicate 255 r } true).permWait = false) ∧
    (let s := fun (t : Int) => { repS {} true with pow := { tg := t, winQ := [.svn 3, .journal] } }
     (s 40).windowOpen = true ∧ (s 340).windowOpen = true ∧ (s 39).windowOpen = false ∧ (s 341).windowOpen = false ∧ (s 40).pow.winQ = .svn 3 :: [.journal] ∧ WinWrite.svn 3 ≠ .fuse ∧ WinWrite.fuse ∉ (s 39).pow.winQ) ∧
    (repS {} true).rep.hlog.length + (repS {} true).rep.staged.length < 4096 ∧ (repS {} true).windowOpen = true ∧ (repS { pfull := true } true).rep.pfull = true ∧ (∀ r ∈ (repS {} true).rep.rows, r.switched = false ∨ r.fused = true) := by decide +kernel
/-- A column is busy while an engine works in it; the next persist is due 1 s after the last; a fuse that waits for a cue of the HBM. -/
theorem witness_RepairAndWaitingWrites_due : columnBusy (repS {} false) 0 0 = false ∧ columnBusy { repS {} false with start := { phase := .run, recover := [(0, 0)] } } 0 0 = true ∧
    (∀ x, (repS {} true).rep.persistAt = some x → x + 1000000000 ≤ (repS {} true).time.ref) ∧ ¬ (∀ x, (repS { persistAt := some 1 } true).rep.persistAt = some x → x + 1000000000 ≤ (repS { persistAt := some 1 } true).time.ref) ∧
    (repS {} true).rep.laneWait = [] ∧ (repS {} true).rep.stageWait.length ≤ 256 ∧
    (let s : State := { repS { rows := [{ addr := hbmBase, spare := 0, switched := true }] } true with pow := { tg := 40, winLater := [.fuse] } }
     s.windowOpen = true ∧ s.pow.winQ = [] ∧ ({ s with reels := (cued { cue0 .admitted 9 with decl := [0, 0, 0, 0, 4096] } th0 8).reels } : State).hbmCued = true ∧ s.pow.winLater = .fuse :: [] ∧ s.rep.pfull = false ∧ (∃ r ∈ s.rep.rows, r.switched = true ∧ r.fused = false ∧ winOf r.addr = .hbm)) := by
  refine ⟨by decide +kernel, by decide +kernel, ?_, ?_, rfl, by decide, by decide +kernel, rfl, by decide +kernel, rfl, rfl, ⟨_, List.mem_singleton_self _, rfl, rfl, by decide +kernel⟩⟩
  · intro x hx
    exact absurd hx (by simp [repS])
  · intro h
    exact absurd (h 1 rfl) (by decide)
theorem witness_RepairAndWaitingWrites_swaps : bitOf (0x103 : W64) 8 = true ∧ bitsOf (0x103 : W64) 7 0 = 3 ∧ (repS {} true).rep.tspBusy = false ∧ (repS {} true).tileThere 3 = true ∧ bitOf (3 : W64) 8 = false ∧
    (let s := repS { tspQueue := [3], tspBusy := true } true
     s.rep.tspQueue = 3 :: [] ∧ s.rep.tspRetiring = false ∧ (∀ y ∈ s.rep.spareOf, y.1 / 16 ≠ 3 / 16) ∧ 3 / 16 ∉ s.rep.usedSpare ∧ (s.dom (4 * (3 / 16) + 3)).st = 2 ∧ s.permWait = false) ∧
    (1 ∈ (repS {} true).rep.dirActive ∧ 2 ∉ (repS {} true).rep.dirActive ∧ (repS {} true).rep.dirFailed.length < (repS {} true).rep.dirStandby.length) ∧
    (let s := repS { dirActive := [1], dirFailed := [0] } true
     s.rep.dirFailed = 0 :: [] ∧ s.rep.dirStandby = 2 :: [3] ∧ s.permWait = false) ∧ (repS { dirStandby := [] } true).rep.dirStandby.length ≤ (repS { dirStandby := [] } true).rep.dirFailed.length := by decide +kernel

/-! ### Domains and resets -/

def domS (n : Nat) (d : Dom) : State := { run0 with pow := { doms := [(n, d)] } }
/-- Domain 95 is the last of the PH7-T. -/
theorem witness_DomainsAndResets_domains : run0.start.phase ≠ .safe ∧ domThere run0.build 95 = true ∧ domThere run0.build 96 = false ∧ bitOf (1 : W64) 0 = true ∧ bitOf (1 : W64) 1 = false ∧ bitOf (2 : W64) 1 = true ∧ bitOf (2 : W64) 0 = false ∧
    bitOf (3 : W64) 0 = bitOf (3 : W64) 1 ∧ quietThreads (domS 64 { st := 1 }) = true ∧ (domS 64 { st := 1 }).start.ioPend = false ∧ (domS 64 { st := 1 }).start.rstBusy = false ∧ ((domS 64 { st := 1 }).dom 64).evt = false ∧
    ((domS 64 { st := 1 }).dom 64).st = 1 ∧ ((domS 64 { st := 1 }).dom 64).pendOff = false ∧ ((domS 95 { st := 1, pendOff := true }).dom 95).pendOff = true ∧ ((domS 64 {}).dom 64).st ≠ 1 ∧ ((domS 81 { st := 3 }).dom 81).st = 3 ∧
    (∀ c, anchorCol (domS 81 { st := 3 }) = some c → c.1 + 64 ≠ 81) ∧ ((domS 68 { st := 3, pendOn := true }).dom 68).st = 3 := by
  refine ⟨?_, ?_, ?_, ?_, ?_, ?_, ?_, ?_, ?_, ?_, ?_, ?_, ?_, ?_, ?_, ?_, ?_, ?_, ?_⟩
  case refine_18 =>
    have h : anchorCol (domS 81 { st := 3 }) = none ∨ (anchorCol (domS 81 { st := 3 })).any (fun c => c.1 + 64 != 81) = true := by decide +kernel
    intro c hc
    rcases h with h | h
    · rw [h] at hc; simp at hc
    · rw [hc] at h; simpa using h
  all_goals decide +kernel
def rstS (x : Start) : State := { dev th0 with start := x }
theorem witness_DomainsAndResets_resets : (rstS { phase := .run, rstBusy := true }).start.rstBusy = true ∧ (rstS { phase := .run }).start.rstBusy = false ∧ domThere (rstS { phase := .run }).build 96 = false ∧ (rstS { phase := .run }).tileThere 255 = true ∧
    ({ run0 with build := .s } : State).tileThere 64 = false ∧ domThere run0.build 64 = true ∧ (rstS { phase := .run }).cues = [] ∧ swapping (repS { tspQueue := [3], tspRetiring := true } true) 3 = true ∧ (repS { tspQueue := [3], tspRetiring := true } true).tileThere 3 = true ∧
    swapping (rstS { phase := .run }) 3 = false ∧ quietThreads (rstS { phase := .run }) = true ∧ liveOn (rstS { phase := .run }) 4 = [] ∧ liveOn (rstS { phase := .run }) 3 = [r0] ∧ reelThreads (rstS { phase := .run }) 1 = [] ∧ reelThreads (rstS { phase := .run }) 0 = [r0] ∧
    (linked run0).links.reqs = [] ∧ (List.range (Config.ports (linked run0).build)).filter (fun n => portIsUp (linked run0) n || ((linked run0).port n).retraining) = [3] := by decide +kernel
theorem witness_DomainsAndResets_io : (let s := rstS { phase := .run, rstBusy := true, rstKind := 3, ioAssert := true, ioDown := [12, 13] }
     s.start.rstBusy = true ∧ s.start.ioAssert = true ∧ s.start.ioPend = false) ∧
    (let s := rstS { phase := .run, rstBusy := true, rstKind := 3, ioDown := [12, 13] }
     s.start.ioAssert = false ∧ s.start.rstKind = 3 ∧ s.start.ioDown = 12 :: [13] ∧ 12 ∉ [13] ∧ 3 ∉ s.start.ioDown ∧ portIsUp s 3 = false) ∧
    (let s := rstS { phase := .run, rstBusy := true, rstKind := 3, ioDown := [13] }
     s.start.ioDown = [13] ∧ s.host.reqs = [] ∧ (∀ k, (s.dma k).cur = none)) ∧ 13 ∉ (rstS { phase := .run }).start.ioDown ∧
    (let s := repS { tspQueue := [4], tspRetiring := true } true
     s.rep.tspQueue = 4 :: [] ∧ tileIdle s 4 = true ∧ s.permWait = false ∧ s.start.tileWait ≠ some 4 ∧ quietThreads s = true) ∧ tileIdle (repS { tspQueue := [3], tspRetiring := true } true) 3 = false := by
  refine ⟨?_, ?_, ⟨?_, ?_, fun k => rfl⟩, ?_, ?_, ?_⟩ <;> decide +kernel

/-! ### Neotte -/

def portS (p : Port) : State := { run0 with links := { ports := [(3, p)] } }
def goodFlit (seq : Nat) : Flit := { kind := 0, vc := 3, seq, ack := 4095, slots := List.replicate 240 0 }
/-- The check value of CRC-64/XZ: that of the digits 1 to 9. -/
theorem test_crc64 : crc64 [0x31, 0x32, 0x33, 0x34, 0x35, 0x36, 0x37, 0x38, 0x39] = 0x995DC9BBDF1939FA := by decide +kernel
set_option maxRecDepth 100000 in
/-- A flit is what its lanes bring; a wrong bit makes it invalid, and so does a codeword of 16 wrong symbols. -/
theorem test_flit_lanes : flitOf (flitLanes (goodFlit 9)) [(15, true)] = some (goodFlit 9) ∧ flitOf (flitLanes (goodFlit 9)) [(16, true)] = none ∧
    flitOf ((flitLanes (goodFlit 9)).modify 5 (fun l => l.modify 7 (· ^^^ 1))) [] = none := by decide +kernel
set_option maxRecDepth 100000 in
/-- Sequence numbers wrap at 4096; the eighth request for replay is the last. -/
theorem witness_NeottePorts_flits : portIsUp run0 3 = false ∧ portIsUp (portS { st := 2 }) 3 = true ∧ flitOf (flitLanes (goodFlit 0)) [] = some (goodFlit 0) ∧ flitOf [] [] = none ∧
    (flitOf (flitLanes { goodFlit 0 with kind := 2 }) []).any (fun f => decide (2 ≤ f.kind)) = true ∧ ((portS { st := 2, naks := 7 }).port 3).naks < 8 ∧ ¬ ((portS { st := 2, naks := 8 }).port 3).naks < 8 ∧
    ((portS { st := 2, nakWait := true, seen := some 4095 }).port 3).nakWait = true ∧ (4095 + 4096 - 4094) % 4096 < 2048 ∧ ((portS { st := 2, nakWait := true, seen := some 4094 }).port 3).seen = some 4094 ∧
    (goodFlit 4095).seq ≠ 4094 ∧ ((4095 : Nat) + 4096 - 4094) % 4096 < 2048 ∧ ((portS { st := 2 }).port 3).nakWait = false ∧ (goodFlit 0).seq = (((portS { st := 2 }).port 3).rxSeq + 1) % 4096 ∧
    (goodFlit 1).seq ≠ (((portS { st := 2 }).port 3).rxSeq + 1) % 4096 ∧ (goodFlit 0).nak = false ∧ ((portS { st := 2 }).port 3).queue = [] ∧ linkReady (portS { st := 2 }) 3 3 = true := by decide +kernel
def tmS (root had : Bool) : State := { portS { st := 2, peer := 7 } with time := { root, parent := 7, hadAlign := had, tmb := 10 } }
theorem witness_NeottePorts_idle : ({ kind := 1 } : Flit).nak = false ∧ portIsUp (tmS false false) 3 = true ∧ ((tmS false false).port 3).queue = [] ∧ ((tmS false false).port 3).cur = [] ∧
    (tmS true false).time.root = true ∧ (tmS false false).time.root = false ∧ ((tmS false false).port 3).peer = (tmS false false).time.parent ∧ (tmS false false).time.hadAlign = false ∧ (tmS false false).cues = [] ∧
    (tmS false true).time.hadAlign = true := by decide +kernel
/-- This device sent at 7 what its parent received at 12, and the parent sends at 14 what arrives at 10: the offset is 4.5, and the count steps by 4. -/
theorem test_align : (after (.idleFlit 3 { kind := 1, ack := 4095 } 14 7 12) (tmS false false)).time.tmb = 14 ∧ (after (.idleFlit 3 { kind := 1, ack := 4095 } 14 7 12) (tmS false false)).time.offset = 4 := by decide +kernel
/-- A LOST for this device over an UP port, and types of no row. -/
theorem witness_NeottePorts_types : (let s := linked run0
     let m : Msg := { mtype := mtLOST, dst := 5, src := 7, param := 9 }
     portIsUp s 3 = true ∧ s.links.claimed = true ∧ m.dst = s.ownId) ∧ ({ mtype := 0x3D, dst := 5, src := 7 } : Msg).mtype ∈ [0, 0x06, 0x10, 0x14, 0x20, 0x24, 0x2F, 0x3D, 0xFF] := by decide +kernel
theorem witness_NeottePorts_training : (let s := { run0 with pow := { doms := [(80, { st := 2 })] } }
     11 < Config.ports s.build ∧ (s.port 11).st ≠ 2 ∧ (s.port 11).retraining = false ∧ 11 ∉ s.rep.failedPorts ∧ (s.dom (69 + 11)).st = 2) ∧ ¬ (run0.dom (69 + 11)).st = 2 ∧
    ¬ (Config.ports run0.build ≤ 3 ∨ 8 < 7 ∨ 3 ∈ run0.rep.failedPorts ∨ (3, 7) ∈ run0.rep.deadLanes) ∧ ¬ ((∃ x ∈ run0.rep.deadLanes, x.1 = 3) ∨ run0.rep.pfull = true ∨ run0.permWait = true) ∧
    (let s := { run0 with rep := { deadLanes := [(3, 2)] } }
     (∃ x ∈ s.rep.deadLanes, x.1 = 3) ∧ portIsUp s 3 = false ∧ (s.port 3).retraining = false ∧ (3, 2) ∈ s.rep.deadLanes) ∧ ((portS { st := 1, retraining := true }).port 3).retraining = true ∧ ((portS { st := 1, retraining := true }).port 3).queue = [] ∧
    (portS { st := 2 }).links.reqs = [] ∧ (portS { st := 2 }).bank.ops = [] ∧ (portS { st := 2 }).bank.groups = [] ∧ (portS { st := 2 }).pairs.mir = [] ∧ ((portS { st := 2 }).split 4).pend = false ∧ quietThreads (portS { st := 2 }) = true := by decide +kernel
def idS (valid claimed : Bool) : State := { portS { st := 2 } with links := { ports := [(3, { st := 2 })], board := 2, idValid := valid, claimed, devid := if claimed then 16 else 0xFFF }, sec := { unitTag := 9 } }
theorem only3 {s : State} {p : Port} (hp : s.links.ports = [(3, p)]) (k : Nat) (h : portIsUp s k = true) : k = 3 := by
  by_cases hk : k = 3
  · exact hk
  · have hf : mget ({} : Port) s.links.ports k = {} := by
      rw [hp, mget, mfind, if_neg (by simpa using fun e => hk e.symm)]
      rfl
    have h2 : (mget ({} : Port) s.links.ports k).st = 2 := by
      have h1 := h
      simp only [portIsUp, State.port, Bool.and_eq_true, beq_iff_eq] at h1
      exact h1.2
    rw [hf] at h2
    exact absurd h2 (by decide)
/-- A claim of this device's provisional ID 16 by tag 8, lower than its own 9. -/
theorem witness_NeottePorts_claims : portIsUp (idS true false) 3 = true ∧ (∀ k, portIsUp (idS true false) k = true → k = 3) ∧ (idS true false).links.idValid = true ∧ (idS true false).links.conflict = false ∧ 16 = (idS true false).provisional ∧
    (8 : W64) ≠ (idS true false).tag ∧ (8 : W64).toNat < (idS true false).tag.toNat ∧ (17, 8) ∉ (idS true false).links.claims ∧ 17 ≠ (idS true false).provisional ∧ bitOf (0x202 : W64) 9 = true ∧ upPorts run0 = [] ∧ run0.links.idValid = false ∧
    (idS true false).links.claimed = false ∧ (idS true true).links.claimed = true ∧ quietThreads (idS true true) = true ∧ 7 ≠ (idS true true).ownId ∧ 7 ∉ (idS true true).links.lost ∧ (idS true true).pairs.pmir = [] ∧
    (idS true true).time.root = true := by
  refine ⟨?_, only3 rfl, ?_⟩ <;> decide +kernel

/-! ### Remote memory -/

/-- A message from device 7 to this device's near memory, M0 on. -/
def remS : State := { linked (dev th0) with obs := {} }
def rmsg (ty addr param : Nat) (data : List Byte) : Msg := { mtype := ty, dst := 5, src := 7, addr, param, data }
theorem witness_RemoteMemory_home : arrives remS 3 (rmsg mtRD 0x1080 128 []) = true ∧ remS.obs.cntEn = false ∧ quietThreads remS = true ∧ winOf 0x1080 = .near ∧ remS.links.homeQ = [] ∧ ({ rmsg mtRD 0x1080 0 [] with len := 128 } : Msg).len = 128 ∧ (0x1080 : Nat) % 8 = 0 ∧ remS.bank.roll = [] ∧ remS.links.watches = [] ∧
    (∀ x ∈ remS.poison, x * 32 + 32 ≤ 0x1080 ∨ 0x1080 + 4096 ≤ x * 32) ∧ homeStatus remS 0x1080 128 = 0 ∧ homeWaits remS 0x1080 128 false = false ∧ 128 ≤ 256 - 0x1080 % 256 ∧ homeStatus remS 0x1080 8 = 0 ∧ homeWaits remS 0x1080 8 true = false ∧ homeWaits remS 0x1080 8 false = false ∧
    homeStatus remS 0x1000 4096 = 0 ∧ homeWaits remS 0x1000 4096 false = false ∧ homeStatus remS 0x300000000 8 = stNoTarget ∧ homeStatus remS 0xBD00000 8 = stPermFault ∧ routePort remS 7 = some 3 ∧ linkReady remS 3 1 = true ∧ winOf 0x300000000 ≠ .host := by decide +kernel
theorem witness_RemoteMemory_forward : (let s := { linked run0 with links := { (linked run0).links with ports := [(3, { st := 2 }), (4, { st := 2 })], rt := [(9, { v := true, port := 4 })] } }
     let m := { rmsg mtRD 0 8 [] with dst := 9, hops := 14 }
     portIsUp s 3 = true ∧ s.links.claimed = true ∧ m.dst ≠ s.ownId ∧ (s.route m.dst).v = true ∧ m.hops < 15 ∧ linkReady s (s.route m.dst).port (vcOf m.mtype) = true ∧ linkReady s 4 (vcOf mtRDATA) = true) := by decide +kernel
def remReq (own : RemOwner) : RemReq := { tag := 6, dst := 7, port := 3, mtype := mtRD, owner := own, msg := rmsg mtRD 0 8 [] }
def remWait (own : RemOwner) (t : Thread) : State := let s := linked (dev t); { s with links := { s.links with reqs := [remReq own] } }
theorem witness_RemoteMemory_answers : (let s := remWait (.core 2 1 5 8 1) th0
     let m := { rmsg mtRDATA 0 0 [] with tag := 6 }
     arrives s 3 m = true ∧ quietThreads s = true ∧ answered s m = some (remReq (.core 2 1 5 8 1)) ∧ (∀ x ∈ s.links.reqs, x.waiting = false) ∧ s.links.reqs.find? (fun x => x.tag == m.tag && x.mtype != 0) = some (remReq (.core 2 1 5 8 1)) ∧
       stPermFault.toNat % 65536 ≠ 0 ∧ answered s { m with tag := 7 } = none) ∧
    (let t := { th0 with held := some ⟨.waitMem (.t r0) {}, .wait⟩, wait := some { rd := 3, cond := .mem (7 * 2 ^ 44) 0 1, limit := 0 } }
     let s := remWait (.watch r0) t
     let m := { rmsg mtNOTIFY 0 0 (leBytes 8 1) with tag := 6 }
     arrives s 3 m = true ∧ waitingOnly s = true ∧ answered s m = some (remReq (.watch r0)) ∧ (s.thread r0).wait.isSome = true) ∧ (∀ q ∈ (linked run0).links.reqs, q.tag ≠ 6 ∨ q.mtype = 0) := by decide +kernel
/-- A request of device 9 waits at its home before one of device 7, or after it. -/
theorem witness_RemoteMemory_queue : (∀ x ∈ ({ remS with links := { remS.links with homeQ := [(3, { rmsg mtWR 0 0 [] with src := 9 })] } } : State).links.homeQ, x.2.src ≠ (rmsg mtRD 0 0 []).src) ∧
    ¬ (∀ x ∈ ({ remS with links := { remS.links with homeQ := [(3, rmsg mtWR 0 0 [])] } } : State).links.homeQ, x.2.src ≠ (rmsg mtRD 0 0 []).src) ∧
    homeWaits { remS with start := { remS.start with recover := [(nearLayer 0x2000, nearCol 0x2000)] } } 0x2000 8 false = true := by decide +kernel
theorem witness_RemoteMemory_clap_tree : (treePorts (treed run0)).filter (fun n => n != 3) = [] ∧ (treePorts (treed run0)).filter (fun n => n != 4) = [3] ∧ linkReady (treed run0) 3 3 = true ∧ (treed run0).obs.cntEn = false ∧
    (treed run0).links.claimed = true ∧ ¬ ([10, 11, 12, 13] : List Nat).length < 4 := by decide +kernel
theorem witness_RemoteMemory_clap : (let s : State := { linked run0 with obs := { cntEn := true, pending := [10, 11, 12] }, time := { tmb := 8 } }
     portIsUp s 3 = true ∧ s.links.claimed = true ∧ (9 : W64).toNat ∉ s.obs.pending ∧ (10 : W64).toNat ∈ s.obs.pending ∧ s.time.tmb.toNat < (9 : W64).toNat ∧ s.obs.pending.length < 4 ∧ (∀ k, portIsUp s k = true → k = 3)) :=
  ⟨by decide +kernel, by decide +kernel, by decide +kernel, by decide +kernel, by decide +kernel, by decide +kernel, only3 rfl⟩

/-! ### Pairs, export and the switch of images -/

def mirS (m : Mirror) : State := withWords 0x4000 [0x10000, 0x20000] { linked (dev th0) with pairs := { mir := [(2, m)] }, xl := { base := [⟨0, 0x40000000, 0x000050000000007F⟩] } }
theorem witness_PairsExportAndSwitch_mirror : run0.start.phase ≠ .safe ∧ ((mirS {}).mir 2).en = false ∧ bitOf (1 : W64) 0 = true ∧ bitOf (0 : W64) 0 = false ∧ ((mirS { en := true, st := 2 }).mir 2).en = true ∧
    (regionEntries (mirS { list := 0x4000, count := 1 }) 0x4000 1).bind (regionBlocks (mirS { list := 0x4000, count := 1 }) none) = some [(0x500000010000, 0x10000), (0x500000020000, 0x10000)] ∧
    (regionEntries run0 0 1).bind (regionBlocks run0 none) = none ∧ ((mirS { st := 1 }).mir 2).st = 1 ∧ ((mirS { st := 2, unacked := true }).mir 2).unacked = true ∧ ((mirS { sealed_ := some 3 }).mir 2).sealed_ = some 3 ∧
    ((mirS {}).mir 2).sealed_ ≠ some 3 ∧ (mirS {}).xl.flush = false ∧ (mirS {}).links.claimed = true ∧ run0.links.claimed = false ∧
    bitsOf (0x9 : W64) 12 1 ≠ (mirS {}).ownId ∧ bitsOf (0xA : W64) 12 1 = (mirS {}).ownId ∧ ((mirS { st := 2, peer := 7 }).mir 2).peer = 7 := by decide +kernel
def pmS (p : PMirror) : State := { linked run0 with pairs := { pmir := [(2, p)] } }
/-- A reserve of ceil(13/4 I) + 1 units just serves; one unit less does not. -/
theorem witness_PairsExportAndSwitch_slot : (let f := fun (s : State) => (List.range 16).find? (fun k => (s.pmir k).st == 1 && (s.pmir k).arm && (s.pmir k).primary == 7)
     f (pmS { st := 1, arm := true, primary := 7, size := 14 }) = some 2 ∧ f run0 = none) ∧ ¬ 14 < reserveNeed 4 ∧ 13 < reserveNeed 4 ∧ (7 : Nat) ≠ (pmS {}).ownId ∧ (pmS {}).pins.legacy = false ∧
    slotOfReel (pmS { st := 2, from_ := 7, reel := 4 }) 7 4 = some 2 ∧ ((pmS { st := 2, from_ := 7, reel := 4 }).pmir 2).taking = false ∧ ((pmS { st := 2, from_ := 7, reel := 4 }).pmir 2).sealed_ = none ∧
    ((pmS { st := 2, from_ := 7, reel := 4 }).pmir 2).due = none ∧ ((pmS { st := 2, from_ := 7, reel := 4, frame := [⟨0, 1, 0, []⟩] }).pmir 2).frame.length = 1 ∧ slotOfReel (pmS {}) 7 4 = none ∧
    ((pmS { st := 2, taking := true, sealed_ := some (3, 0, 0) }).pmir 2).sealed_ = some (3, 0, 0) ∧ ((pmS { st := 2, taking := true }).pmir 2).taking = true ∧ ((pmS { st := 4 }).pmir 2).st = 4 ∧
    ((pmS { st := 2, taking := true, sealed_ := some (3, 0, 0), ans := some false }).pmir 2).ans = some false ∧ ((pmS { st := 2, frame := [⟨0, 1, 0, []⟩], sealed_ := some (3, 2, 0) }).pmir 2).sacked = false ∧
    (2 : Nat) ≤ ((pmS { frame := [⟨0, 1, 0, []⟩] }).pmir 2).frame.length + 1 ∧ ((pmS { due := none }).pmir 2).frame = [] ∧ bitOf (0 : W64) 0 = false := by decide +kernel
def expS (n : Nat) : State := withWords 0x4000 [n * 2 ^ 8, 0x5000, 0x80000] (withWords 0x5000 [0x10000, 0x10000] (let s := mirS {}; { s with pairs := { expDesc := 0x4000 } }))
theorem witness_PairsExportAndSwitch_export : (expS 1).pairs.expBusy = false ∧ ({ run0 with pairs := { expBusy := true, expRun := true } } : State).pairs.expBusy = true ∧ fwBytes run0 0 24 = none ∧
    (fwBytes (expS 1) 0x4000 24).isSome = true ∧ (let w := fun n => wordsOf 3 ((fwBytes (expS n) 0x4000 24).getD [])
      expCount (w 1) = 1 ∧ expCount (w 0) = 0 ∧ 64 < expCount (w 65) ∧ expBlocks (expS 1) none (w 1) = some [(0x500000010000, 0x10000)] ∧ expBlocks (expS 1) (some .r) (w 1) = some [(0x500000010000, 0x10000)] ∧
      expBlocks { expS 1 with xl := { base := [⟨0, 0x40000000, 0x0000500000000001⟩] } } (some .r) (w 1) = none ∧ expBlocks run0 none (w 1) = none) ∧
    (let s : State := { run0 with pairs := { expBusy := true, expTag := 0x10000 }, bank := { commit := [(0, { sent := 3, done := 3, v := true })] } }
     s.pairs.expBusy = true ∧ s.pairs.expRun = false ∧ s.xl.flush = false ∧ (s.commitWord 0).v = true ∧ (s.commitWord 0).res = false ∧ (s.commitWord 0).done ≠ s.pairs.expTag ∧ ∀ x ∈ s.bank.roll, ¬ (x.mark = 2 ∧ x.group = 0 ∧ x.step = 3)) ∧
    ({ run0 with xl := { flush := true } } : State).xl.flush = true ∧ ({ run0 with pairs := { expBusy := true, expRun := true, expWords := [0, 0, 0] } } : State).pairs.expWords ≠ [] ∧ (traced 0 0).host.bme = true ∧ (traced 0 0).host.degraded = false := by decide +kernel
theorem witness_PairsExportAndSwitch_switch : (let s : State := { repS { fwBusy := true, fwVerified := true, fwLimit := 3 } true with pairs := {} }
     s.rep.fwBusy = true ∧ s.rep.fwSwitching = false ∧ switchPoint s = true ∧ s.rep.fwLimit ≠ 0) ∧ switchPoint (collS (collE 0 .coll)) = false ∧
    (let s := repS { fwBusy := true, fwSwitching := true, fwVerified := true } true
     s.rep.fwSwitching = true ∧ s.permWait = false ∧ quietThreads s = true ∧ s.windowOpen = true) ∧ run0.rep.fwVerified = false := by decide +kernel

/-! ### Power -/

def powS (p : Power) : State := { run0 with pow := p }
/-- A sensor that has differed for 1 ms, one that has agreed for 1 s, and a mean estimate of 10 W at 4/5 and 6/5 of it. -/
theorem witness_GafferAndPower : (powS {}).cues = [] ∧ (powS {}).obs.trcEn = false ∧ State.reset.islandUp = false ∧ (powS {}).islandUp = true ∧
    (0 : Nat) ∈ (powS { suspect := [0] }).pow.suspect ∧ (0 : Nat) ∉ (powS {}).pow.suspect ∧ (powS { thr := true, tg := 420 }).pow.thr = true ∧ (powS {}).pow.req = none ∧ (powS { req := some 720 }).pow.req = some 720 ∧
    3 ≤ (powS { avsNak := 2 }).pow.avsNak + 1 ∧ (powS { avsNak := 1 }).pow.avsNak + 1 < 3 ∧ (powS {}).pow.avsf = false ∧ (powS { avsf := true }).pow.avsf = true ∧ (powS {}).pow.railMw = none ∧ (powS { railMw := some 5 }).pow.railMw = some 5 ∧
    (powS { senseOff := [500] }).pow.senseOff.getD 0 0 = 500 ∧ (powS { senseOff := [499] }).pow.senseOff.getD 0 0 < 500 ∧ ¬ (powS { senseOn := [500000] }).pow.senseOn.getD 0 0 < 500000 ∧
    (powS { kSum := 10000000, kCount := 1, railMw := some 5000 }).pow.kSum ≠ 0 ∧ 4 * 10000000 ≤ 5 * ((4000 * 750 + 5000 * 1000) * 1) ∧ 5 * ((4000 * 750 + 5000 * 1000) * 1) ≤ 6 * 10000000 ∧ 5 * ((2999 * 1000 + 5000 * 1000) * 1) < 4 * 10000000 ∧
    6 * 10000000 < 5 * ((7001 * 1000 + 5000 * 1000) * 1) ∧ (powS { kSum := 0 }).pow.kSum = 0 ∧ mfind (powS {}).sec.secDig 4 = none ∧ (79 : Nat) < 80 ∧ (80 : Nat) ≤ 80 ∧ run0.start.phase ≠ .safe := by decide +kernel
theorem witness_GafferAndPower_foley : (let s := waiting none 9 8
     s.pow.foleyEn = true ∧ (s.tile 3).foley = false ∧ waitsForFoley (s.tile 3) = true ∧ s.obs.trcEn = false) ∧ waitsForFoley ((dev th0).tile 3) = false := by decide +kernel

/-! ### Takes and trips -/

def stS (x : Start) : State := { start := x }
theorem witness_TakesAndTrips_takes : State.reset.start.phase = .off ∧ run0.start.phase ≠ .off ∧ stageMay run0 = false ∧ stageMay (stS { phase := .take }) = true ∧ stageMay (stS { phase := .take, stage := 4 }) = false ∧
    stageMay (stS { phase := .take, stage := 4, railsOk := true }) = true ∧ stageMay (stS { phase := .take, stage := 11, perst := true }) = false ∧ stageMay (stS { phase := .take, stage := 11, perst := false }) = true ∧
    stageMay (stS { phase := .take, stage := 8 }) = true ∧ (stS { phase := .take, stage := 3 }).sec.lc ≠ 4 ∧ (stS { phase := .take }).aMode 8 = false ∧ ({ stS { phase := .take, stage := 10 } with host := { splits := [(8, { act := true })] } } : State).aMode 8 = true ∧
    (stS { phase := .failed }).start.phase = .failed ∧ (stS { phase := .safe }).start.phase = .safe ∧ startAllowed run0 = true ∧ startAllowed (stS { phase := .tripHold }) = false ∧ startAllowed (powS { shutThr := true }) = false ∧ run0.start.rstBusy = false ∧ run0.pins.legacy = false ∧
    run0.cache.quarters = 0 ∧ stillFail [(3, true)] run0 (spareTiles [(3, true)] run0) = [] ∧ stagePath run0 9 ≠ 1 ∧ stillFail [(3, false)] run0 (spareTiles [(3, false)] run0) = [3] ∧
    stagePath { run0 with start := { sel := [(9, 1)] } } 9 = 1 ∧ (stS { phase := .run, perst := false }).start.perst = false ∧ run0.start.perst = true := by decide +kernel
theorem witness_TakesAndTrips_trips : (stS { phase := .off }).start.phase = .off ∧ (stS { phase := .run, railsOk := true }).start.railsOk = true ∧ (stS { phase := .take }).start.railsOk = false ∧ (stS { phase := .clockHold }).start.phase = .clockHold ∧
    (powS { shut := true }).pow.shut = true ∧ (powS { shut := true }).started = true ∧ (powS { shut := true }).cues = [] ∧ (powS { shut := true }).pairs.mir = [] ∧
    (let s := { run0 with sec := { offPend := true } }
     s.sec.offPend = true ∧ s.admitted = [] ∧ s.started = true) ∧ run0.pins.legacy = false ∧ ({ run0 with pins := { legacy := true } } : State).pins.legacy = true ∧ (479 : Int) < 480 ∧ (480 : Int) ≤ 480 ∧
    (let s : State := { start := { phase := .down }, pow := { tripped := true, tripCool := true } }
     s.pow.tripped = true ∧ s.pow.tripCool = true ∧ s.pow.tripDrive = false ∧ s.islandUp = true) ∧ (stS { phase := .tripHold }).start.phase = .tripHold ∧
    (powS { tg := 40 }).windowOpen = true ∧ (powS { tg := 39 }).windowOpen = false ∧ WinWrite.clrsel ∉ (powS { tg := 39 }).pow.winQ := by decide +kernel

/-! ### Security, debug, the mailbox and the board -/

/-- A token of kind 1 and level 2 for lifecycle state 1, its other words zero. -/
def tokS : State := { run0 with sec := { lc := 1, nonceOk := true, bernDig := digest64 (List.replicate 64 0), tokWin := [(0, 0x21), (1, 0x08)], dbgBusy := true, req := 2, openReq := 2 } }
theorem tokS_key : tokBytes tokS 64 64 = List.replicate 64 0 := by decide +kernel
/-- The token passes when its signature holds, and fails when it does not. -/
theorem witness_SecurityAndDebug_token : tokenCheck tokS 1 2 true stDebugDenied .bernufort =
    if Config.slhVerify (List.replicate 64 0) (tokBytes tokS 0 192) (tokBytes tokS 192 29792) then stOk else stTokenInvalid := by
  have h1 : tokForm tokS 1 2 = true := by decide +kernel
  have h2 : tokWord tokS 1 = tokS.tag := by decide +kernel
  have h3 : bitsOf (tokWord tokS 0) 13 11 = tokS.sec.lc := by decide +kernel
  have h4 : leNat (tokBytes tokS 16 32) = tokS.sec.nonce.toNat := by decide +kernel
  have h5 : bitOf (tokWord tokS 0) 14 = false := by decide +kernel
  have h6 : tokWord tokS 6 = 0 := by decide +kernel
  have h7 : tokS.sec.nonceOk = true := rfl
  have h8 : tokS.sec.bernDig = digest64 (List.replicate 64 0) := rfl
  simp only [tokenCheck, h1, h2, h3, h4, h5, h6, h7, h8, tokS_key]
  cases hs : Config.slhVerify (List.replicate 64 0) (tokBytes tokS 0 192) (tokBytes tokS 192 29792) <;> simp
theorem witness_SecurityAndDebug_lifecycle : (∀ o ∈ [(0, 0), (1, 1)], lcListed o.1 o.2 = some .none) ∧ lcListed 1 0 = none ∧ run0.sec.lcBusy = false ∧ run0.sec.next = 7 ∧ ({ run0 with sec := { next := 1 } } : State).sec.next ≠ 7 ∧ run0.sec.slot ≠ 7 ∧
    (powS { tg := 40 }).windowOpen = true ∧ (powS { tg := 341 }).windowOpen = false ∧ run0.sec.chain = [] ∧ ({ run0 with sec := { lc := 1 } } : State).sec.lc = 1 ∧ imgSvn (imgSlot run0 0) ≤ run0.sec.minSvn ∧
    (let s := { run0 with sec := { imgA := [0, 0, 0, 3] } }
     s.sec.minSvn < imgSvn (imgSlot s s.rep.fwActive)) ∧ run0.sec.imgBusy = false ∧ run0.sec.imgWait = false ∧ ({ run0 with sec := { imgBusy := true } } : State).sec.imgBusy = true := by decide +kernel
theorem witness_SecurityAndDebug_open : (let s := { run0 with sec := { dbgBusy := true, openReq := 4 } }
     s.sec.dbgBusy = true ∧ s.sec.d3hot = false ∧ s.admitted = [] ∧ s.rep.fwBusy = false ∧ openNeeds s.sec.lc s.sec.openReq = some .none) ∧ openNeeds 1 4 = none ∧ openNeeds tokS.sec.lc tokS.sec.openReq = some .bernufort ∧ openNeeds 0 5 = none ∧
    (let s := { tokS with sec := { tokS.sec with nonceOk := false } }
     s.sec.dbgBusy = true ∧ tokenCheck s 1 s.sec.openReq true stDebugDenied .bernufort = stTokenInvalid) ∧ safe0.start.phase = .safe ∧ run0.start.phase ≠ .safe ∧ run0.sec.level = 0 := by decide +kernel
/-- A thread halted for debug with an ADD fetched. -/
def dbg (h : Bool) : State := { dev { th0 with dbgHalt := h, fetched := [0x0005001000230001, 0, 0, 0] } with sec := { level := 3, thrTile := 3, thrTh := 1 } }
theorem witness_SecurityAndDebug_threads : (dbg true).dbgThreads = true ∧ tstate (dbg true) = 1 ∧ tstate (dbg false) ≠ 1 ∧ 4 ≤ ((dbg true).thread r0).fetched.length ∧ (nextInstr r0 ((dbg true).thread r0)).any (fun x => x.1.isSome) = true ∧
    (dev th0).dbgThreads = false ∧ quietThreads (dbg true) = true ∧ (3 : Nat) < 256 ∧ (0x2FF8 : Nat) % 8 = 0 ∧ 0x1000 ≤ 0x2FF8 ∧ 0x2FF8 < 0x3000 := by decide +kernel
theorem witness_SecurityAndDebug_power : (let s := { run0 with sec := { level := 4, d3hot := true } }
     s.sec.d3hot = true ∧ s.sec.retention = false ∧ s.admitted = [] ∧ s.sec.level = 4) ∧ (let s : State := { dbg true with sec := { level := 3, expiry := 9 }, time := { tmb := 9 } }
     s.expired = true ∧ quietThreads s = true ∧ s.sec.level ≠ 0) ∧ (let s : State := { dbg true with sec := { level := 3, expiry := 9 }, time := { tmb := 8 } }
     s.expired = false) := by decide +kernel

def keys : List (Nat × Nat × BitVec 256) := [(1, 0, 5), (1, 1, 6), (1, 2, 7)]
def ideS (a : Option Nat) : State := { run0 with sec := { sessions := [2], opening := [3], ide := [{ session := 2, stream := 4, keys := keys, active := a }], lc := 2, chain := [1, 2, 3] } }
theorem witness_MailboxAndIde : State.reset.start.phase ≠ .run ∧ (ideS none).start.phase = .run ∧ (ideS none).sec.lc ≠ 4 ∧ ({ run0 with sec := { lc := 4 } } : State).sec.lc = 4 ∧ (2 : Nat) < (ideS none).sec.chain.length ∧ ¬ (3 : Nat) < (ideS none).sec.chain.length ∧
    (2 : Nat) ∈ (ideS none).sec.sessions ∧ 3 ∈ (ideS none).sec.opening ∧ 5 ∉ (ideS none).sec.sessions ∧ ¬ 4 ≤ (ideS none).sec.sessions.length + (ideS none).sec.opening.length ∧ (List.replicate 1568 (0 : Byte)).length = 1568 ∧
    (4 : Nat) < 5 ∧ (∀ x ∈ (ideS none).sec.ide, x.stream = 4 → x.session = 2) ∧ ((ideS none).sec.ide.find? (fun x => x.stream == 4)).any (fun x => x.session != 3) = true ∧
    (∃ x ∈ (ideS none).sec.ide, (x.stream = 4 ∧ x.session = 2) ∧ ∀ k, k < 3 → ∃ y, (1, k, y) ∈ x.keys) ∧ (∃ x ∈ (ideS (some 1)).sec.ide, (x.stream = 4 ∧ x.session = 2) ∧ x.active = some 1) ∧ (∀ x ∈ (ideS none).sec.ide, x.active ≠ some 1) := by
  refine ⟨?_, ?_, ?_, ?_, ?_, ?_, ?_, ?_, ?_, ?_, List.length_replicate, ?_, ?_, ?_, ⟨_, List.mem_singleton_self _, ⟨rfl, rfl⟩, ?_⟩, ⟨_, List.mem_singleton_self _, ⟨rfl, rfl⟩, rfl⟩, ?_⟩
  case refine_14 =>
    intro k hk
    rcases (by omega : k = 0 ∨ k = 1 ∨ k = 2) with rfl | rfl | rfl
    · exact ⟨5, by simp [keys]⟩
    · exact ⟨6, by simp [keys]⟩
    · exact ⟨7, by simp [keys]⟩
  all_goals decide +kernel

theorem witness_BoardAndTestPort : State.reset.start.phase = .off ∧ run0.start.phase ≠ .off ∧ (List.replicate 8 (0 : BitVec 16)).length = 8 ∧ run0.start.rstBusy = false ∧ startAllowed run0 = true ∧ run0.cache.quarters = 0 ∧ run0.pins.legacy = false ∧
    (8 ≤ 64 ∧ 64 ≤ 64 ∧ (2 ^ 28 - 64) + 64 ≤ 2 ^ 28) ∧ (0x30 : BitVec 7).toNat = 0x30 + run0.pins.bpos ∧ (0x31 : BitVec 7).toNat ≠ 0x30 + run0.pins.bpos ∧ run0.start.perst = true ∧ (stS { phase := .run, perst := false }).start.perst = false ∧
    7 < (8 : Byte).toNat ∧ (0 : Byte).toNat = 0 ∧ rstS { phase := .run, rstBusy := true } ≠ rstS { phase := .run } := by decide +kernel

/-- The first and last address of near memory, and both sides of a bank's, a column's and a layer's edge. -/
theorem witness_NearAddressSelects : [0, 0x5FFFFF, 0x600000, 0xBFFFFFF, 0xC000000, 0x2FFFFFFFF, 0x300000000, 5 * 0x300000000 - 1].map (fun a => (decide (a < 5 * 0x300000000), nearLayer a, nearCol a, nearBank a)) =
    [(true, 0, 0, 0), (true, 0, 0, 0), (true, 0, 0, 1), (true, 0, 0, 31), (true, 0, 1, 0), (true, 0, 63, 31), (true, 1, 0, 0), (true, 4, 63, 31)] := by decide +kernel

theorem witness_StepKeepsMemoryCanonical : (withOp (op0 .store .none true)).Inv ∧ ∃ t, step { withOp (op0 .store .none true) with pending := [.storeAck 3 4 0] } = .next t :=
  ⟨by unfold State.Inv; decide +kernel, by simp only [step]; exact ⟨_, rfl⟩⟩

/-! ### Worked examples of the manual -/

/-- Example 2.3: -1.75, 300 and 2^-8 in the element formats, round to nearest, without saturation. -/
theorem test_encodings : [fF32, fF16, fBF16, fE4M3, fE5M2, fE3M2, fE2M3, fE2M1].map (fun f => ([Num.fin true 7 (-2), .fin false 75 2, .fin false 1 (-8)]).map (fun x => ((f.conv .rne false 0 x).pat, (f.conv .rne false 0 x).flags))) =
    [[(0xBFE00000, 0), (0x43960000, 0), (0x3B800000, 0)], [(0xBF00, 0), (0x5CB0, 0), (0x1C00, 0)], [(0xBFE0, 0), (0x4396, 0), (0x3B80, 0)], [(0xBE, 0), (0x79, 0), (0x02, 0)], [(0xBF, 0), (0x5D, 0), (0x1C, 0)],
     [(0x2F, 0), (0x1F, fOF), (0, fUF)], [(0x2E, 0), (0x1F, fOF), (0, fUF)], [(0xC, 0), (0x7, fOF), (0, fUF)]] := by decide +kernel
/-- Example 2.3, the I8 row, and its three cells that change under RTZ. -/
theorem test_encodings_i8 : ([Num.fin true 7 (-2), .fin false 75 2, .fin false 1 (-8)]).map (fun x => ((convI8 .rne 0 x).pat, (convI8 .rne 0 x).flags)) = [(0xFE, 0), (0x7F, fOF), (0, fUF)] ∧
    (convI8 .rtz 0 (.fin true 7 (-2))).pat = 0xFF ∧ (fE5M2.conv .rtz false 0 (.fin false 75 2)).pat = 0x5C ∧ (fE2M1.conv .rtz false 0 (.fin true 7 (-2))).pat = 0xB ∧ (fE4M3.conv .rtz false 0 (.fin false 75 2)).pat = 0x79 := by decide +kernel
/-- Example 2.1: 13.0, 5.0, -0.9 as F32 and 2.0 in a group of E2M1. -/
theorem test_group : (let r := groupConv (.fl fE2M1) [.fin false 13 0, .fin false 5 0, fF32.decode 0xBF666666, .fin false 2 0] (fun _ => 0)
     (r.1, r.2.1, r.2.2.map (fun c => ((c 0).pat, (c 0).flags)))) = (0x81, 0, [(5, 0), (2, 0), (8, fUF), (1, 0)]) ∧ packElems 4 [5, 2, 8, 1] = [0x25, 0x18] := by decide +kernel
/-- Example 2.1 under stochastic rounding: a draw below 16384 of 65536 takes 13.0 up to 4.0 in units of its scale. -/
theorem test_group_sr : ((fE2M1.conv .sr false 0 (.fin false 13 (-2))).pat, (fE2M1.conv .sr false 65535 (.fin false 13 (-2))).pat) ∈ [(6, 5), (5, 6)] := by decide +kernel
/-- Example 2.4: 1.2e-5 and 3.0e-6, given to 40 binary places, as L8. -/
theorem test_l8 : scaleCode .l8 [.fin false 13194140 (-40), .fin false 3298535 (-40)] = 0x6F ∧ (convL8 (-16) (.fin false 3298535 (-40))).pat = 0xEC ∧ (convL8 (-16) (.fin false 13194140 (-40))).pat = 0xFC := by decide +kernel
/-- Example 2.2: an I4 element under a zero point of -5, and by a codebook whose entry 13 is -1.75. -/
theorem test_i4 : (fE4M3.conv .rne false 0 (expandI4 (fun _ => 0) true 0x0B 0xD)).pat = 0x40 ∧ (fE4M3.conv .rne false 0 (expandI4 (fun k => if k = 16 * 7 + 13 then 0xBE else 0) false 7 0xD)).pat = 0xBE := by decide +kernel
/-- Example 3.2: three products into a ledger. -/
def el (p sc : Nat) : Option (Machine.Num × Nat) := some (fE4M3.decode p, sc)
theorem test_ledger : (let o1 := addLedger (-18) {} (mkProd (-18) (el 0x3C 0x7F) (el 0x44 0x81))
     let o2 := addLedger (-18) o1 (mkProd (-18) (el 0x38 0x7F) (el 0xB0 0x61))
     let o3 := addLedger (-18) o2 (mkProd (-18) (el 0x38 0xA6) (el 0x38 0x9E))
     (o1.l, o1.anchor, o1.v) = (0x120000, -16, true) ∧ (o2.l, o2.anchor, o2.spread) = (0x11FFFFFFFE0000, -48, 32) ∧ o3 = { o2 with rng := true }) := by decide +kernel
/-- Example 3.3: a window with exponent 9 takes 0.171875 as one unit of 0.25. -/
theorem test_tally : (let ps := [mkProd (-18) (el 0x57 0x7F) (el 0x58 0x7F), mkProd (-18) (el 0x3B 0x7F) (el 0x20 0x7F)]
     windowExp ps = some 9 ∧ (promote (ps.foldl (addTally (-18)) { anchor := 9 }) true).part = 0x43704000) := by decide +kernel
/-- Example 3.4: 496 - 2^-29 and -20 drained under one table entry to E4M3. -/
theorem test_rescale : (let e : BitVec 128 := 0x0000001043E00000000000003F000000
     let a := rescale false { l := 496 * 2 ^ 29 - 1, anchor := -29 } e
     let b := rescale false { l := -20 } e
     ((fE4M3.conv .rne false 0 a.1).pat, (fE4M3.conv .rne false 0 b.1).pat, b.2, (fE4M3.conv .rne false 0 b.1).flags) = (0x77, 0x00, 0, 0)) := by decide +kernel
/-- Example 5.1: the descriptor of an A operand. -/
theorem test_descriptor : (let d : DReg := BitVec.ofNat 256 (0x4130000200000000 + 0x40001000 * 2 ^ 64 + 0x200000000 * 2 ^ 128)
     dBase d = 0x200000000 ∧ dFmt d = 3 ∧ dScaled d = true ∧ dGaxis d = 0 ∧ dRank d = 2 ∧ dExt d 0 = 4096 ∧ dExt d 1 = 1024 ∧ dStride d 1 = 8192) := by decide +kernel
/-- Examples 7.1 and 7.2: a bank, a roll region, and the home of an HBM line. -/
theorem test_places : colBase 2 53 = 0x87C000000 ∧ (nearLayer 0x87F600000, nearCol 0x87F600000, nearBank 0x87F600000) = (2, 53, 9) ∧ slotAddr 2 53 0 = 0x887D00000 ∧
    (cS { quarters := 0xF000F }).lineHome 0x510000042 = (6, 2306) ∧ hbmPcOf .t 0x42000 = 66 := by decide +kernel
/-- Example 8.1: one parameter of an AdamW update. -/
def adamD : UpdDesc := [0, 0, 0, 0, 0, 0, 0, 0, 0, 0, 0, 0x3A8000003A800000, 0x3F7000003F600000, 0x0000000035800000, 0x3F8000003F800000, 0, 0]
theorem test_adamw : (let g := gradOf 0x3A800000 0x5800
     let r := updateOne adamD (0x3F000000, 0) g (decodeScaled (.fl fE4M3) 0x7F 0x18) (decodeScaled .l8 0x79 0xFF)
     (g.1, r.1.1, r.2.1.1, r.2.2.1) = (0x3E000000, 0x3EFFB800, 0x3D900000, 0x3C800000)) := by decide +kernel
theorem test_adamw_stored : (let code := fun (e : Elem) (x : Nat) => let r := groupConv e [f32 x] (fun _ => 0); (r.1, r.2.2.map (fun c => (c 0).pat))
     (code (.fl fE4M3) 0x3EFFB800, code (.fl fE4M3) 0x3D900000, code .l8 0x3C800000) = ((0x76, [0x78]), (0x73, [0x79]), (0x79, [0xFF]))) := by decide +kernel
/-- Example 10.3: the sums of a DIRECT reduction in two orders of arrival. -/
theorem test_direct : ([(0x4B800000, 0), (0xCB800000, 0), (0x3F800000, 0)] : List FVal).foldl fAdd (0x3F800000, 0) = (0x3F800000, 0) ∧ ([(0x3F800000, 0), (0x4B800000, 0), (0xCB800000, 0)] : List FVal).foldl fAdd (0x3F800000, 0) = (0x40000000, 0) := by decide +kernel
/-- Example 10.1: position 3 of board 17 is device 139. -/
theorem test_device_id : (after (.idCfgWrite (17 + 2 ^ 9)) { run0 with pins := { bpos := 3 } }).ownId = 139 := by decide +kernel
/-- Example 11.2: an enable of domain 9 during its stop, and the end of that stop. -/
theorem test_enable_in_stop : (after (.enReq 9 0x41) (domS 9 { st := 3 })).dom 9 = { st := 3, pendOn := true, evt := true, status := stDeferred } ∧ ((after (.domainStopComplete 9) (domS 9 { st := 3, pendOn := true })).dom 9).st = 1 := by decide +kernel
/-- Example 13.1: the reserve of two retirements. -/
theorem test_reserve : reserveFor .t 2 = 537 ∧ 287999787008 - 537 * 512 * 4096 = (repS { rsvRows := 537 } true).hbmEnd := by decide +kernel
/-- Example 14.1: launch word 0 and completion word 0. -/
theorem test_records : lrec 1 1 0x42 0 0 = [0x00420101, 0, 0, 0, 0, 0, 1, 2, 3, 4] ∧ complWord { cid := 0x42, status := 0, slot := some 2, q := 1, tick := 0 } false = 0x0000003400000042 := by decide +kernel
/-- Example 17.1: PERM_FAULT of thread 6 of reel 3 on tile 181, 300 ticks after the last record of its source. -/
theorem test_trace : (let s : State := { run0 with obs := { trcEn := true, fifos := [(11, { last := some 700 })] }, time := { tmb := 1000 } }
     (mget {} (trace 0x07 (some 181) 6 3 0x303 s).obs.fifos 11 : Fifo).recs) = [[0x000C0C0962CCC50E]] := by decide +kernel
/-- Example 12.1: cues P and S admitted, cue F with its three deadlines. -/
def cueX (num array near rel dl : Nat) (st : CueSt) : Cue := { st, r := r0, rd := 0, decl := [0, BitVec.ofNat 64 array, 0, BitVec.ofNat 64 near, 0, 0, BitVec.ofNat 64 (rel * 2 ^ 24)], deadline := dl, num }
def ex121 : State := { run0 with reels := [(0, { state := 1, seqs := [(0, { seq0 with tiles := List.range 64, cue := some (cueX 1 320000 96000000 0 1400000 .admitted) }), (1, { seq0 with tiles := [5], cue := some (cueX 2 400000000 0 0 2000000000 .admitted) }), (2, { seq0 with tiles := List.range 64 })] })], pow := { op := 2 }, time := { tmb := 1000000 } }
theorem test_admission : [1900000, 1500000, 1200000].map (fun d => admitTest ex121 0 2 (cueX 3 240000 48000000 1 d .awaiting)) = [stOk, stRejectCapacity, stRejectDeadline] := by decide +kernel
theorem test_bound : (let F := cueInOf ex121 0 2 (cueX 3 240000 48000000 1 1900000 .awaiting)
     let zs := ex121.admitted.map (fun z => cueInOf ex121 z.1 z.2.1 z.2.2)
     (boundH ex121 [F] F, boundH ex121 (zs ++ [F]) F, (zs.drop 1).map (boundH ex121 (zs ++ [F])))) = (1244500, 1585500, [251414000]) := by decide +kernel

/-- Example 15.1: DBG_THR_CTL = 0x260C halts thread 6 of logical tile 12. -/
theorem test_thread_halt : (let s := { run0 with tiles := [(12, { threads := [(6, th0)] })], sec := { level := 3 } }
     ((after (.registerWrite 0xC00030 8 0x260C) s).thread ⟨12, 6⟩).dbgHalt) = true := by decide +kernel
/-- Example 15.1: DBG_SESS = 0x98 asks for D3. -/
theorem test_open_request : (after (.registerWrite 0xC00000 8 0x98) run0).sec = { req := 3, openReq := 3, dbgBusy := true } := by decide +kernel

/-! ### One step of each kind of work -/

/-- ADD writes RD, and counts the program counter on by a word. -/
theorem test_add : ((after (.add (.t r0) { rd := 3, ra := 2, i := true, imm := 1 }) (dev th0)).thread r0).sreg 3 = 0 ∧ ((after (.add (.t r0) { rd := 3, ra := 2, i := true, imm := 1 }) (dev th0)).thread r0).pc = 0x108 := by decide +kernel
/-- A write of s0 is discarded. -/
theorem test_add_s0 : ((after (.add (.t r0) { rd := 0, ra := 1, rb := 2 }) (dev th0)).thread r0).sreg 0 = 0 := by decide +kernel
/-- SEM.CAS at its home swaps a word that compares equal, and leaves another. -/
theorem test_sem : (after (.semHomePerform 3 4) (withOp { op0 .sem (.scalar 5 8) true with semOp := 2, a := 0, b := 9 })).word 0x1000 = 9 ∧
    (after (.semHomePerform 3 4) (withOp { op0 .sem (.scalar 5 8) true with semOp := 2, a := 1, b := 9 })).word 0x1000 = 0 := by decide +kernel
/-- A store's bytes reach memory in the order of their addresses. -/
theorem test_store : (after (.storeAck 3 4 0) (withOp { op0 .store .none true with data := leBytes 8 0x0102030405060708 })).bytes 0x1000 3 = [8, 7, 6] := by decide +kernel
/-- Power-on begins a cold take and samples the straps. -/
theorem test_reset_start : (after (.alwaysOnStart 3 1 false false) State.reset).start.phase = .take ∧ (after (.alwaysOnStart 3 1 false false) State.reset).pins.bpos = 3 := by decide +kernel
/-- A group's step counts from 65535 to 0. -/
theorem test_roll : ((after (.tollContributionSend 7) (tollS { joined := [4], step := 65535 } [tollOp])).group 7).step = 0 := by decide +kernel

end Sys2Proof.Tests
end

/-! ### Reset values

No map of the reset state lists an entry, so whatever a key names reads as its structure's default values. -/

section
namespace Sys2Proof.Machine

theorem reset_thread (r : TRef) : State.reset.thread r = {} := rfl
theorem reset_tile (n : Nat) : State.reset.tile n = {} := rfl
theorem reset_reel (n : Nat) : State.reset.reel n = {} := rfl
theorem reset_port (n : Nat) : State.reset.port n = {} := rfl
theorem reset_route (d : Nat) : State.reset.route d = {} := rfl
theorem reset_dom (n : Nat) : State.reset.dom n = {} := rfl
theorem reset_split (f : Nat) : State.reset.split f = {} := rfl

theorem Thread.sreg_default (n : Nat) : ({} : Thread).sreg n = 0 := by
  unfold Thread.sreg
  split
  · rfl
  · rfl
theorem Thread.vreg_default (n : Nat) : ({} : Thread).vreg n = 0 := rfl
theorem Thread.dreg_default (n : Nat) : ({} : Thread).dreg n = 0 := rfl
theorem Thread.mreg_zero (t : Thread) : t.mreg 0 = BitVec.allOnes 128 := rfl

end Sys2Proof.Machine

open Sys2Proof Sys2Proof.Machine

/-- Settles O3: each table's registers are the default values of the structure that holds them. -/
theorem resetRegisterValues : Obligations.ResetRegisterValues := by
  unfold Obligations.ResetRegisterValues
  refine ⟨rfl, rfl, fun r => ?threads, fun n => ?tiles, fun n => ?reels, rfl, rfl, rfl, rfl, rfl, rfl, rfl, fun n => ?ports, fun d => ?routes,
    rfl, rfl, rfl, rfl, rfl, rfl, rfl, rfl, fun n => ?domains, rfl, rfl, rfl, rfl, rfl, rfl, fun f => ?splits, rfl, rfl, rfl⟩
  case threads =>
    rw [reset_thread]
    exact ⟨rfl, rfl, rfl, rfl, fun n => ⟨Thread.sreg_default n, Thread.vreg_default n, Thread.dreg_default n⟩, Thread.mreg_zero _⟩
  case tiles =>
    rw [reset_tile]
    exact ⟨rfl, rfl, rfl, rfl, rfl, rfl, rfl, fun _ => rfl⟩
  case reels =>
    rw [reset_reel]
    exact ⟨rfl, rfl, rfl, rfl, rfl⟩
  case ports =>
    rw [reset_port]
    exact ⟨rfl, rfl, rfl⟩
  case routes => rw [reset_route]
  case domains => rw [reset_dom]
  case splits =>
    rw [State.aMode, reset_split]
    exact ⟨rfl, rfl, rfl⟩

/-- Settles O5: no byte is listed at reset. -/
theorem resetMemoryCanonical : Obligations.ResetMemoryCanonical := rfl

end

section

namespace Sys2Proof.Machine

/-! ### The form of memory through every function of the model

`State.Inv` speaks of the listed bytes and of the undefined ranges alone. Each function of the model that gives a state has one
lemma here, in the model's order, proved from the lemmas of the functions it calls:
- `Inv_f_iff` where `f` writes no memory: the state that `f` gives meets the invariant exactly when the given one does;
- `Inv_f` where `f` may write memory or runs a continuation: the invariant is kept, if the continuation keeps it;
- `resInv_f` where `f` answers an outcome and `optInv` where it answers a state or none.
Only `State.put`, `State.zero`, `State.undefine` and a cold start write memory itself; the laws of memory answer for the first three. -/

/-- What an outcome goes on with has its memory in canonical form. -/
def resInv (r : Res) : Prop :=
  match r with
  | .next t => t.Inv
  | _ => True

/-- The state found, if one is, has its memory in canonical form. -/
def optInv (o : Option State) : Prop := ∀ t, o = some t → t.Inv

@[simp] theorem resInv_next (t : State) : resInv (.next t) ↔ t.Inv := Iff.rfl
@[simp] theorem optInv_none : optInv none := fun _ h => nomatch h
@[simp] theorem optInv_some (t : State) : optInv (some t) ↔ t.Inv := by simp [optInv]

/-- An update of any other fields than the bytes of memory and the undefined ranges. -/
@[simp] theorem State.Inv_with_iff (s : State) (pending : List Instr) (build : Build) (freeCtr : Nat) (poison : List Nat)
    (tiles : SMap Tile) (cores : SMap Core)
    (reels : SMap Reel) (bank : Bank) (xl : Xlate) (cache : Cache) (rep : Repair) (links : Links) (pairs : Pairs) (pow : Power)
    (time : Time) (floor : Floor) (host : HostIf) (sec : Sec) (start : Start) (obs : Obs) (pins : Pins) (cueOrder opSeq : Nat) :
    ({ s with
        pending, build, freeCtr, poison, tiles, cores, reels, bank, xl, cache, rep, links, pairs, pow, time, floor, host, sec, start, obs, pins
        cueOrder, opSeq } : State).Inv ↔ s.Inv := Iff.rfl

@[simp] theorem State.Inv_ite (c : Prop) [Decidable c] (s t : State) : (if c then s else t).Inv ↔ if c then s.Inv else t.Inv := by
  split <;> rfl

@[simp] theorem Inv_foldl_iff {α : Type} (f : State → α → State) (l : List α) (s : State) (hf : ∀ s x, (f s x).Inv ↔ s.Inv) :
    (l.foldl f s).Inv ↔ s.Inv := by
  induction l generalizing s with
  | nil => rfl
  | cons x l ih => exact (ih _).trans (hf s x)

@[simp] theorem Inv_foldl {α : Type} {f : State → α → State} {l : List α} {s : State} (h : s.Inv) (hf : ∀ s x, s.Inv → (f s x).Inv) :
    (l.foldl f s).Inv := by
  induction l generalizing s with
  | nil => exact h
  | cons x l ih => exact ih (hf s x h)

theorem optInv_getD {o : Option State} {s : State} (ho : optInv o) (h : s.Inv) : (o.getD s).Inv := by
  cases o with
  | none => exact h
  | some t => exact ho t rfl

theorem optInv_map {o : Option State} {f : State → State} (ho : optInv o) (hf : ∀ s, s.Inv → (f s).Inv) : optInv (o.map f) := by
  cases o with
  | none => exact optInv_none
  | some t => exact (optInv_some _).2 (hf t (ho t rfl))

theorem optInv_bind {o : Option State} {f : State → Option State} (ho : optInv o) (hf : ∀ s, s.Inv → optInv (f s)) : optInv (o.bind f) := by
  cases o with
  | none => exact optInv_none
  | some t => exact hf t (ho t rfl)

theorem Inv_foldl_fst {α β : Type} {f : State × β → α → State × β} {l : List α} {p : State × β} (h : p.1.Inv)
    (hf : ∀ p x, p.1.Inv → (f p x).1.Inv) : (l.foldl f p).1.Inv := by
  induction l generalizing p with
  | nil => exact h
  | cons x l ih => exact ih (hf p x h)

theorem Inv_foldl_snd {α β : Type} {f : β × State → α → β × State} {l : List α} {p : β × State} (h : p.2.Inv)
    (hf : ∀ p x, p.2.Inv → (f p x).2.Inv) : (l.foldl f p).2.Inv := by
  induction l generalizing p with
  | nil => exact h
  | cons x l ih => exact ih (hf p x h)

theorem Inv_foldl_snd_iff {α β : Type} (f : β × State → α → β × State) (l : List α) (p : β × State)
    (hf : ∀ p x, (f p x).2.Inv ↔ p.2.Inv) : (l.foldl f p).2.Inv ↔ p.2.Inv := by
  induction l generalizing p with
  | nil => rfl
  | cons x l ih => exact (ih _).trans (hf p x)

theorem State.Inv_ite_of {c : Prop} [Decidable c] {s t : State} (hs : s.Inv) (ht : t.Inv) : (if c then s else t).Inv := by
  split
  · exact hs
  · exact ht

theorem State.Inv_ite_iff_of {c p : Prop} [Decidable c] {s t : State} (hs : s.Inv ↔ p) (ht : t.Inv ↔ p) : (if c then s else t).Inv ↔ p := by
  split
  · exact hs
  · exact ht

theorem resInv_ite_of {c : Prop} [Decidable c] {r q : Res} (hr : resInv r) (hq : resInv q) : resInv (if c then r else q) := by
  split
  · exact hr
  · exact hq

/-! ### The functions of Machine/Ops.lean -/

@[simp] theorem State.Inv_setTile_iff (s : State) (t : Nat) (x : Tile) : (State.setTile s t x).Inv ↔ s.Inv := Iff.rfl
@[simp] theorem State.Inv_modTile_iff (s : State) (t : Nat) (f : Tile → Tile) : (State.modTile s t f).Inv ↔ s.Inv := Iff.rfl
@[simp] theorem State.Inv_setThread_iff (s : State) (r : TRef) (x : Thread) : (State.setThread s r x).Inv ↔ s.Inv := Iff.rfl
@[simp] theorem State.Inv_modThread_iff (s : State) (r : TRef) (f : Thread → Thread) : (State.modThread s r f).Inv ↔ s.Inv := Iff.rfl
@[simp] theorem State.Inv_setCore_iff (s : State) (p c : Nat) (x : Core) : (State.setCore s p c x).Inv ↔ s.Inv := Iff.rfl
@[simp] theorem State.Inv_modCore_iff (s : State) (p c : Nat) (f : Core → Core) : (State.modCore s p c f).Inv ↔ s.Inv := Iff.rfl
@[simp] theorem State.Inv_modReel_iff (s : State) (n : Nat) (f : Reel → Reel) : (State.modReel s n f).Inv ↔ s.Inv := Iff.rfl

@[simp] theorem State.Inv_modSeq_iff (s : State) (reel slot : Nat) (f : Seq → Seq) : (State.modSeq s reel slot f).Inv ↔ s.Inv := by
  unfold State.modSeq
  split <;> simp

@[simp] theorem State.Inv_modDom_iff (s : State) (n : Nat) (f : Dom → Dom) : (State.modDom s n f).Inv ↔ s.Inv := Iff.rfl
@[simp] theorem State.Inv_modPort_iff (s : State) (n : Nat) (f : Port → Port) : (State.modPort s n f).Inv ↔ s.Inv := Iff.rfl
@[simp] theorem State.Inv_setRoute_iff (s : State) (d : Nat) (x : Rt) : (State.setRoute s d x).Inv ↔ s.Inv := Iff.rfl
@[simp] theorem State.Inv_modSplit_iff (s : State) (f : Nat) (g : Split → Split) : (State.modSplit s f g).Inv ↔ s.Inv := Iff.rfl
@[simp] theorem State.Inv_modGroup_iff (s : State) (g : Nat) (f : Group → Group) : (State.modGroup s g f).Inv ↔ s.Inv := Iff.rfl
@[simp] theorem State.Inv_modBop_iff (s : State) (id : Nat) (f : BOp → BOp) : (State.modBop s id f).Inv ↔ s.Inv := Iff.rfl
@[simp] theorem State.Inv_dropBop_iff (s : State) (id : Nat) : (State.dropBop s id).Inv ↔ s.Inv := Iff.rfl
@[simp] theorem State.Inv_modDma_iff (s : State) (k : Nat) (f : Dma → Dma) : (State.modDma s k f).Inv ↔ s.Inv := Iff.rfl
@[simp] theorem State.Inv_fresh_iff (s : State) : (State.fresh s).2.Inv ↔ s.Inv := Iff.rfl

@[simp] theorem Inv_hostWrite {k : State → State} {s : State} (h : s.Inv) (hk : ∀ s, s.Inv → (k s).Inv) : (hostWrite k s).Inv := by
  simp [hostWrite, h, hk]

@[simp] theorem State.Inv_addFlags_iff (s : State) (r : TRef) (f : BitVec 4) : (State.addFlags s r f).Inv ↔ s.Inv := Iff.rfl
@[simp] theorem Inv_cntFix_iff (t k n : Nat) (s : State) : (cntFix t k n s).Inv ↔ s.Inv := by simp [cntFix]
@[simp] theorem Inv_cntPmc_iff (t ev reel n : Nat) (s : State) : (cntPmc t ev reel n s).Inv ↔ s.Inv := by simp [cntPmc]
@[simp] theorem Inv_cntBase_iff (i n : Nat) (s : State) : (cntBase i n s).Inv ↔ s.Inv := by simp [cntBase]
@[simp] theorem Inv_cntReel_iff (reel w n : Nat) (s : State) : (cntReel reel w n s).Inv ↔ s.Inv := by simp [cntReel]

@[simp] theorem Inv_trace_iff (typ : Nat) (tile : Option Nat) (th reel arg : Nat) (s : State) :
    (trace typ tile th reel arg s).Inv ↔ s.Inv := by
  simp [trace]

@[simp] theorem Inv_raDrop_iff (t : Nat) (p : RaSector → Bool) (s : State) : (raDrop t p s).Inv ↔ s.Inv := by simp [raDrop]
@[simp] theorem Inv_foleyLeave_iff (t : Nat) (s : State) : (foleyLeave t s).Inv ↔ s.Inv := by simp [foleyLeave]
@[simp] theorem State.Inv_send_iff (s : State) (o : Out) : (State.send s o).Inv ↔ s.Inv := Iff.rfl
@[simp] theorem Inv_msixFire_iff (vec : Nat) (s : State) : (msixFire vec s).Inv ↔ s.Inv := by simp [msixFire]
@[simp] theorem Inv_eqWrite_iff (words : Bool → List W64) (s : State) : (eqWrite words s).Inv ↔ s.Inv := by simp [eqWrite]
@[simp] theorem Inv_eqDrop_iff (s : State) : (eqDrop s).Inv ↔ s.Inv := Iff.rfl
@[simp] theorem Inv_eqOverflow_iff (s : State) : (eqOverflow s).Inv ↔ s.Inv := by simp [eqOverflow]

@[simp] theorem Inv_event_iff (st : Status) (typ reel slot tile th : Nat) (a0 a1 : W64) (s : State) :
    (event st typ reel slot tile th a0 a1 s).Inv ↔ s.Inv := by
  simp [event]

@[simp] theorem Inv_queueEvent_iff (st : Status) (reel queue arg1 : Nat) (s : State) : (queueEvent st reel queue arg1 s).Inv ↔ s.Inv := by
  simp [queueEvent]

@[simp] theorem Inv_dropCount_iff (s : State) : (dropCount s).Inv ↔ s.Inv := Iff.rfl

@[simp] theorem Inv_hlogStage_iff (r : HlogRec) (s : State) : (hlogStage r s).Inv ↔ s.Inv := by
  unfold hlogStage
  repeat' split
  all_goals simp

@[simp] theorem Inv_hlog_iff (kind : Nat) (perm : Bool) (st : Status) (unit detail : W64) (s : State) :
    (hlog kind perm st unit detail s).Inv ↔ s.Inv := by
  simp [hlog]

@[simp] theorem Inv_cueClose_iff (reel slot : Nat) (st : Status) (s : State) : (cueClose reel slot st s).Inv ↔ s.Inv := by
  unfold cueClose
  repeat' split
  all_goals simp

@[simp] theorem Inv_affectCues_iff (row : Nat) (p : Nat → Nat → Seq → Bool) (s : State) : (affectCues row p s).Inv ↔ s.Inv :=
  Inv_foldl_iff _ _ _ fun s _ => Inv_foldl_iff _ _ s fun s q => by split <;> simp

@[simp] theorem Inv_cueHit_iff (r : TRef) (st : Status) (s : State) : (cueHit r st s).Inv ↔ s.Inv := by simp [cueHit]

@[simp] theorem Inv_serveCue_iff (reel slot : Nat) (f : Cue → Cue) (s : State) : (serveCue reel slot f s).Inv ↔ s.Inv := by
  unfold serveCue
  split <;> simp

@[simp] theorem State.Inv_modMir_iff (s : State) (reel : Nat) (f : Mirror → Mirror) : (State.modMir s reel f).Inv ↔ s.Inv := Iff.rfl

/-! ### The functions of Machine/Mem.lean -/

@[simp] theorem State.Inv_mark_iff (s : State) (o n : Nat) : (State.mark s o n).Inv ↔ s.Inv := Iff.rfl
@[simp] theorem Inv_memErr_iff (w : Nat) (s : State) : (memErr w s).Inv ↔ s.Inv := by simp [memErr]

/-! ### The functions of Machine/Net.lean -/

@[simp] theorem Inv_emitFlits_iff (n : Nat) (fs : List Flit) (s : State) : (emitFlits n fs s).Inv ↔ s.Inv := by simp [emitFlits]

@[simp] theorem Inv_countSent_iff (n : Nat) (m : Msg) (s : State) : (countSent n m s).Inv ↔ s.Inv := by
  unfold countSent
  split <;> simp

@[simp] theorem Inv_pump_iff (n : Nat) (s : State) : (pump n s).Inv ↔ s.Inv := by simp [pump]
@[simp] theorem Inv_sendOn_iff (n : Nat) (m : Msg) (s : State) : (sendOn n m s).Inv ↔ s.Inv := by simp [sendOn]

@[simp] theorem Inv_sendMsg_iff (m : Msg) (s : State) : (sendMsg m s).Inv ↔ s.Inv := by
  unfold sendMsg
  split <;> simp

@[simp] theorem Inv_flood_iff (m : Msg) (from_ : Option Nat) (s : State) : (flood m from_ s).Inv ↔ s.Inv := by simp [flood]

@[simp] theorem Inv_notifyWrites_iff (o n : Nat) (s : State) : (notifyWrites o n s).Inv ↔ s.Inv := by
  unfold notifyWrites
  refine Inv_foldl_iff _ _ _ fun s x => ?_
  split <;> simp

@[simp] theorem Inv_discardMsg_iff (port : Nat) (s : State) : (discardMsg port s).Inv ↔ s.Inv := by simp [discardMsg]
@[simp] theorem Inv_forward_iff (m : Msg) (inPort : Nat) (s : State) : (forward m inPort s).Inv ↔ s.Inv := by simp [forward]

@[simp] theorem Inv_onMsg {port : Nat} {m : Msg} {k : State → State} {s : State} (h : s.Inv) (hk : ∀ s, s.Inv → (k s).Inv) :
    (onMsg port m k s).Inv := by
  simp [onMsg, h, hk]

@[simp] theorem Inv_noteFrom_iff (port dev : Nat) (s : State) : (noteFrom port dev s).Inv ↔ s.Inv := Iff.rfl

@[simp] theorem Inv_sendReq_iff (m : Msg) (owner : RemOwner) (s : State) : (sendReq m owner s).1.Inv ↔ s.Inv := by
  unfold sendReq
  split <;> simp

@[simp] theorem Inv_reqsGo_iff (s : State) : (reqsGo s).Inv ↔ s.Inv := by
  unfold reqsGo
  refine Inv_foldl_iff _ _ _ fun s x => ?_
  split <;> simp

@[simp] theorem Inv_dropReq_iff (tag : Nat) (s : State) : (dropReq tag s).Inv ↔ s.Inv := by simp [dropReq]

/-! ### The functions of Machine/Xlate.lean -/

@[simp] theorem Inv_installTile_iff (t va : Nat) (s : State) : (installTile t va s).Inv ↔ s.Inv := by
  unfold installTile
  split <;> simp

@[simp] theorem Inv_installBase_iff (e : XEntry) (s : State) : (installBase e s).Inv ↔ s.Inv := by simp [installBase]
@[simp] theorem Inv_needPage_iff (va agent : Nat) (s : State) : (needPage va agent s).Inv ↔ s.Inv := by simp [needPage]

/-! ### The functions of Machine/Cache.lean -/

@[simp] theorem State.Inv_modLine_iff (s : State) (l : Nat) (f : CLine → CLine) : (State.modLine s l f).Inv ↔ s.Inv := Iff.rfl
@[simp] theorem State.Inv_setLines_iff (s : State) (ls : List CLine) : (State.setLines s ls).Inv ↔ s.Inv := Iff.rfl

@[simp] theorem State.Inv_touchLine_iff (s : State) (l : Nat) : (State.touchLine s l).Inv ↔ s.Inv := by
  unfold State.touchLine
  split <;> simp

@[simp] theorem State.Inv_evict_iff (s : State) (l : Nat) : (State.evict s l).Inv ↔ s.Inv := by
  unfold State.evict
  split <;> simp

theorem State.Inv_of_allocLine {s t : State} {l ca : Nat} (e : s.allocLine l ca = some t) : t.Inv ↔ s.Inv := by
  unfold State.allocLine at e
  split at e
  · cases e
  · cases e
    dsimp only
    split
    · exact State.Inv_evict_iff ..
    · rfl

theorem State.Inv_allocLine {s : State} {l ca : Nat} (h : s.Inv) : optInv (s.allocLine l ca) := fun _ e => (State.Inv_of_allocLine e).2 h

@[simp] theorem Inv_farRead_iff (pa n : Nat) (own : RemOwner) (s : State) : (farRead pa n own s).1.Inv ↔ s.Inv := by
  unfold farRead
  repeat' split
  all_goals simp

@[simp] theorem Inv_requestSector_iff (l sec : Nat) (s : State) : (requestSector l sec s).Inv ↔ s.Inv := by simp [requestSector]

@[simp] theorem Inv_stallBegin_iff (tile : Option (Nat × Nat)) (l ca : Nat) (sectors : BitVec 16) (s : State) :
    (stallBegin tile l ca sectors s).Inv ↔ s.Inv := by
  unfold stallBegin
  split <;> simp

@[simp] theorem Inv_startFill_iff (tile : Option (Nat × Nat)) (l sec ca : Nat) (s : State) : (startFill tile l sec ca s).Inv ↔ s.Inv := by
  unfold startFill
  split
  · simp
  dsimp only
  split
  · simp
  · cases e : s.allocLine l ca with
    | none => simp
    | some t => simp [State.Inv_of_allocLine e]

@[simp] theorem Inv_cacheRead_iff (tile : Option (Nat × Nat)) (pa ca : Nat) (s : State) : (cacheRead tile pa ca s).Inv ↔ s.Inv := by
  simp only [cacheRead]
  repeat' split
  all_goals simp

@[simp] theorem Inv_cacheWrite_iff (pa ca : Nat) (bs : List Byte) (s : State) : (cacheWrite pa ca bs s).Inv ↔ s.Inv := by
  unfold cacheWrite
  split
  · rfl
  dsimp only
  split
  · split
    next t e =>
      rw [State.Inv_modLine_iff]
      split at e
      · cases e
        exact State.Inv_touchLine_iff ..
      · split at e
        · exact State.Inv_of_allocLine e
        · cases e
    · rfl
  · exact State.Inv_modLine_iff ..

@[simp] theorem Inv_cacheDrop_iff (pa : Nat) (s : State) : (cacheDrop pa s).Inv ↔ s.Inv := by
  unfold cacheDrop
  split <;> simp

@[simp] theorem Inv_holdLine {l ca : Nat} {s : State} (h : s.Inv) : optInv (holdLine l ca s) := by
  unfold holdLine
  split
  · exact optInv_none
  dsimp only
  split
  · simp [h]
  split
  · simp [h]
  · exact optInv_map (State.Inv_allocLine h) fun _ h => by simp [h]

@[simp] theorem Inv_holdStall_iff (tile : Option (Nat × Nat)) (l ca : Nat) (s : State) : (holdStall tile l ca s).Inv ↔ s.Inv := by
  simp [holdStall]

@[simp] theorem Inv_releaseLine_iff (l : Nat) (s : State) : (releaseLine l s).Inv ↔ s.Inv := Iff.rfl

/-! ### The functions of Machine/Home.lean -/

@[simp] theorem Inv_staleWrite_iff (o n : Nat) (s : State) : (staleWrite o n s).Inv ↔ s.Inv := Iff.rfl

@[simp] theorem Inv_homeWrite {o ca : Nat} {bs : List Byte} {s : State} (h : s.Inv) : (homeWrite o ca bs s).Inv := by
  simp [homeWrite, h, State.Inv_put]

@[simp] theorem State.Inv_modRoll_iff (s : State) (f : List RollSlot → List RollSlot) : (State.modRoll s f).Inv ↔ s.Inv := Iff.rfl
@[simp] theorem Inv_setMark_iff (x : RollSlot) (mark : Nat) (s : State) : (setMark x mark s).Inv ↔ s.Inv := Iff.rfl

@[simp] theorem Inv_serveCol_iff (reel slot layer col beats : Nat) (s : State) : (serveCol reel slot layer col beats s).Inv ↔ s.Inv := by
  simp [serveCol]

@[simp] theorem Inv_commitSlot {x : RollSlot} {s : State} (h : s.Inv) : (commitSlot x s).Inv := by
  unfold commitSlot
  refine (Inv_setMark_iff ..).2 (Inv_foldl ?_ fun s p h => (Inv_notifyWrites_iff ..).2 (State.Inv_put s _ _ h))
  split
  · exact (Inv_serveCol_iff ..).2 h
  · exact h

@[simp] theorem Inv_commitFirst {o n : Nat} {s : State} (h : s.Inv) : (commitFirst o n s).Inv := by simp +contextual [commitFirst, h]

@[simp] theorem Inv_descWrite {pages : PageMap} {va : Nat} {bs : List Byte} {s : State} (h : s.Inv) : (descWrite pages va bs s).Inv := by
  simp [descWrite, h]

@[simp] theorem Inv_opResult {o : BOp} {s : State} (h : s.Inv) : (opResult o s).Inv := by
  unfold opResult
  split <;> simp [h]

/-! ### The functions of Machine/Ends.lean -/

@[simp] theorem Inv_tokenDone_iff (r : TRef) (tok : Nat) (st : Status) (s : State) : (tokenDone r tok st s).Inv ↔ s.Inv := by
  simp [tokenDone]

@[simp] theorem Inv_freeThread_iff (r : TRef) (s : State) : (freeThread r s).Inv ↔ s.Inv := by simp [freeThread]

@[simp] theorem Inv_cueRecord_iff (reel slot : Nat) (st : Status) (q : Seq) (halts : Nat → Bool) (s : State) :
    (cueRecord reel slot st q halts s).Inv ↔ s.Inv := by
  simp only [cueRecord]
  repeat' split
  all_goals simp

@[simp] theorem Inv_seqEnd_iff (reel slot : Nat) (s : State) : (seqEnd reel slot s).Inv ↔ s.Inv := by
  unfold seqEnd
  repeat' split
  all_goals simp

@[simp] theorem Inv_seqLeave_iff (r : TRef) (reel slot : Nat) (halt : Option Status) (s : State) :
    (seqLeave r reel slot halt s).Inv ↔ s.Inv := by
  simp [seqLeave]

@[simp] theorem Inv_tryEndPlain_iff (r : TRef) (s : State) : (tryEndPlain r s).Inv ↔ s.Inv := by
  simp only [tryEndPlain]
  repeat' split
  all_goals simp

@[simp] theorem Inv_bopEnd {id : Nat} {st : Status} {s : State} (h : s.Inv) : (bopEnd id st s).Inv := by
  unfold bopEnd
  split <;> simp [h]

@[simp] theorem Inv_helperNext_iff (reel : Nat) (s : State) : (helperNext reel s).Inv ↔ s.Inv := Iff.rfl

@[simp] theorem Inv_helperLeave {r : TRef} {reel : Nat} {halt : Option Status} {s : State} (h : s.Inv) :
    (helperLeave r reel halt s).Inv := by
  simp only [helperLeave]
  repeat' split
  all_goals simp [h]

@[simp] theorem Inv_threadLeave {r : TRef} {halt : Option Status} {s : State} (h : s.Inv) : (threadLeave r halt s).Inv := by
  simp [threadLeave, h]

@[simp] theorem Inv_haltThread {r : TRef} {st : Status} {pc : W64} {s : State} (h : s.Inv) : (haltThread r st pc s).Inv := by
  simp [haltThread, h]

@[simp] theorem Inv_tryEnd {r : TRef} {s : State} (h : s.Inv) : (tryEnd r s).Inv := by
  simp only [tryEnd]
  repeat' split
  all_goals simp [h]

@[simp] theorem Inv_bopFinish {id : Nat} {st : Status} {s : State} (h : s.Inv) : (bopFinish id st s).Inv := by
  unfold bopFinish
  split <;> simp [h]

@[simp] theorem Inv_finishAt {r : TRef} {st : Status} {force : Bool} {n : Nat} {pc : W64} {s : State} (h : s.Inv) :
    (finishAt r st force n pc s).Inv := by
  simp [finishAt, h]

@[simp] theorem Inv_complete {r : TRef} {st : Status} {pc : W64} {s : State} (h : s.Inv) : (complete r st pc s).Inv := by simp [complete, h]
@[simp] theorem Inv_finish {r : TRef} {x : Option W64} {st : Status} {s : State} (h : s.Inv) : (finish r x st s).Inv := by simp [finish, h]

@[simp] theorem Inv_finishHalt {r : TRef} {x : Option W64} {st : Status} {s : State} (h : s.Inv) : (finishHalt r x st s).Inv := by
  simp [finishHalt, h]

@[simp] theorem Inv_finishWith {r : TRef} {x : Option W64} {f : Thread → Thread} {s : State} (h : s.Inv) : (finishWith r x f s).Inv := by
  simp [finishWith, h]

@[simp] theorem Inv_hold_iff (r : TRef) (i : Instr) (w : Why) (s : State) : (hold r i w s).Inv ↔ s.Inv := Iff.rfl
@[simp] theorem Inv_granted_iff (r : TRef) (s : State) : (granted r s).Inv ↔ s.Inv := by simp [granted]

@[simp] theorem Inv_issue {r : TRef} {i : Instr} {regs : List Reg} {k : State → State} {s : State} (h : s.Inv)
    (hk : ∀ s, s.Inv → (k s).Inv) : (issue r i regs k s).Inv := by
  simp [issue, h, hk]

@[simp] theorem Inv_illegalT {r : TRef} {x : Option W64} {s : State} (h : s.Inv) : (illegalT r x s).Inv := by simp [illegalT, h]

@[simp] theorem Inv_withAccessMix {r : TRef} {i : Instr} {x : Option W64} {agent : Nat} {l : List (Need × Piece)}
    {k : List (Piece × Nat × Nat) → State → State} {s : State} (h : s.Inv) (hk : ∀ x s, s.Inv → (k x s).Inv) :
    (withAccessMix r i x agent l k s).Inv := by
  unfold withAccessMix
  repeat' split
  all_goals simp [h, hk]

@[simp] theorem Inv_withAccess {r : TRef} {i : Instr} {x : Option W64} {need : Need} {l : List Piece}
    {k : List (Piece × Nat × Nat) → State → State} {s : State} (h : s.Inv) (hk : ∀ x s, s.Inv → (k x s).Inv) :
    (withAccess r i x need l k s).Inv := by
  simp +contextual [withAccess, h, hk]

@[simp] theorem Inv_exception_iff (p c : Nat) (cause : Status) (s : State) : (exception p c cause s).Inv ↔ s.Inv := Iff.rfl

@[simp] theorem Inv_coreRun {p c : Nat} {x : Option W64} {k : State → State} {s : State} (h : s.Inv) (hk : ∀ s, s.Inv → (k s).Inv) :
    (coreRun p c x k s).Inv := by
  unfold coreRun
  repeat' split
  all_goals simp [h, hk]

@[simp] theorem Inv_finishC_iff (p c : Nat) (x : Option W64) (f : Core → Core) (s : State) : (finishC p c x f s).Inv ↔ s.Inv := Iff.rfl

theorem resInv_tOnly {w : Who} {i : Instr} {x : Option W64} {xOk : Bool} {regs : List Reg} {k : TRef → State → State} {s : State}
    (h : s.Inv)
    (hk : ∀ r s, s.Inv → (k r s).Inv) : resInv (tOnly w i x xOk regs k s) := by
  cases w with
  | t r => exact State.Inv_ite_of (Inv_issue h (hk r)) (Inv_illegalT h)
  | c p c => exact Inv_coreRun h fun _ h => (Inv_exception_iff ..).2 h

theorem resInv_cOnly {w : Who} {x : Option W64} {k : Nat → Nat → State → State} {s : State} (h : s.Inv)
    (hk : ∀ p c s, s.Inv → (k p c s).Inv) : resInv (cOnly w x k s) := by
  cases w with
  | t r => exact Inv_illegalT h
  | c p c => exact Inv_coreRun h fun s h => State.Inv_ite_of (hk p c s h) ((Inv_exception_iff ..).2 h)

theorem resInv_both {w : Who} {i : Instr} {x : Option W64} {xOk : Bool} {regs : List Reg} {k : TRef → State → State}
    {kc : Nat → Nat → State → State} {s : State} (h : s.Inv) (hk : ∀ r s, s.Inv → (k r s).Inv) (hkc : ∀ p c s, s.Inv → (kc p c s).Inv) :
    resInv (both w i x xOk regs k kc s) := by
  cases w with
  | t r => exact State.Inv_ite_of (Inv_issue h (hk r)) (Inv_illegalT h)
  | c p c => exact Inv_coreRun h fun s h => State.Inv_ite_of (hkc p c s h) ((Inv_exception_iff ..).2 h)

/-! ### The functions of Machine/Split.lean -/

@[simp] theorem Inv_splitPoint_iff (fn : Nat) (s : State) : (splitPoint fn s).Inv ↔ s.Inv := by simp [splitPoint]
@[simp] theorem Inv_splitRequest_iff (fn : Nat) (req : Bool) (s : State) : (splitRequest fn req s).Inv ↔ s.Inv := Iff.rfl

/-! ### The functions of Machine/Domain.lean -/

@[simp] theorem Inv_domLose {n : Nat} {s : State} (h : s.Inv) : (domLose n s).Inv := by simp +contextual [domLose, h, State.Inv_undefine]
@[simp] theorem Inv_domEvent_iff (n : Nat) (s : State) : (domEvent n s).Inv ↔ s.Inv := by simp [domEvent]
@[simp] theorem Inv_domStop_iff (n : Nat) (s : State) : (domStop n s).Inv ↔ s.Inv := Iff.rfl
@[simp] theorem Inv_domStart_iff (n : Nat) (s : State) : (domStart n s).Inv ↔ s.Inv := Iff.rfl
@[simp] theorem Inv_domOff_iff (n : Nat) (s : State) : (domOff n s).Inv ↔ s.Inv := Iff.rfl
@[simp] theorem Inv_domStatus_iff (n : Nat) (st : Status) (s : State) : (domStatus n st s).Inv ↔ s.Inv := Iff.rfl

@[simp] theorem Inv_domEnable_iff (n : Nat) (s : State) : (domEnable n s).Inv ↔ s.Inv := by
  simp only [domEnable]
  repeat' split
  all_goals simp

@[simp] theorem Inv_domDisable_iff (n : Nat) (s : State) : (domDisable n s).Inv ↔ s.Inv := by
  simp only [domDisable]
  repeat' split
  all_goals simp

@[simp] theorem Inv_domWrite_iff (n : Nat) (v : W64) (s : State) : (domWrite n v s).Inv ↔ s.Inv := by
  unfold domWrite
  repeat' split
  all_goals simp

@[simp] theorem Inv_domStartDone_iff (n : Nat) (s : State) : (domStartDone n s).Inv ↔ s.Inv := by simp [domStartDone]

/-! ### The functions of Machine/Window.lean -/

@[simp] theorem Inv_fuseRow_iff (s : State) (r : RowRep) : (fuseRow s r).Inv ↔ s.Inv := by simp [fuseRow]

@[simp] theorem Inv_fuseCommit_iff (s : State) : (fuseCommit s).1.Inv ↔ s.Inv := by
  simp only [fuseCommit]
  repeat' split
  all_goals simp

@[simp] theorem Inv_lcWrite_iff (op : Nat) (arg : List Byte) (secret : BitVec 256) (s : State) : (lcWrite op arg secret s).Inv ↔ s.Inv :=
  Iff.rfl

@[simp] theorem Inv_winDo_iff (w : WinWrite) (s : State) : (winDo w s).1.Inv ↔ s.Inv := by
  unfold winDo
  split <;> simp

@[simp] theorem Inv_winShow_iff (w : WinWrite) (s : State) : (winShow w s).Inv ↔ s.Inv := by
  unfold winShow
  split <;> simp

@[simp] theorem Inv_winWait_iff (w : WinWrite) (s : State) : (winWait w s).Inv ↔ s.Inv := by simp [winWait]
@[simp] theorem Inv_winRequest_iff (w : WinWrite) (s : State) : (winRequest w s).Inv ↔ s.Inv := by simp [winRequest]

theorem resInv_execWindowWriteStart {s : State} (h : s.Inv) : resInv (execWindowWriteStart s) := by
  unfold execWindowWriteStart
  repeat' split
  all_goals simp [h]

@[simp] theorem Inv_winClosed_iff (s : State) : (winClosed s).Inv ↔ s.Inv := by simp [winClosed]

/-! ### The functions of Machine/Repair.lean -/

@[simp] theorem Inv_rowStays_iff (row : Nat) (s : State) : (rowStays row s).Inv ↔ s.Inv := by simp [rowStays]

@[simp] theorem Inv_retireStart_iff (p : Nat) (s : State) : (retireStart p s).1.Inv ↔ s.Inv := by
  simp only [retireStart]
  repeat' split
  all_goals simp

@[simp] theorem Inv_moveLine_iff (p l : Nat) (s : State) : (moveLine p l s).Inv ↔ s.Inv := by
  simp only [moveLine]
  repeat' split
  all_goals simp

@[simp] theorem Inv_candidate_iff (p addr : Nat) (s : State) : (candidate p addr s).Inv ↔ s.Inv := by simp [candidate]
@[simp] theorem Inv_rowUnrepaired_iff (row : Nat) (s : State) : (rowUnrepaired row s).Inv ↔ s.Inv := by simp [rowUnrepaired]

@[simp] theorem Inv_softRepair_iff (row : Nat) (s : State) : (softRepair row s).1.Inv ↔ s.Inv := by
  unfold softRepair
  repeat' split
  all_goals simp

@[simp] theorem Inv_rowFails_iff (row : Nat) (s : State) : (rowFails row s).Inv ↔ s.Inv := by simp [rowFails]
@[simp] theorem Inv_wordCorrected_iff (w : Nat) (s : State) : (wordCorrected w s).Inv ↔ s.Inv := by simp [wordCorrected]
@[simp] theorem Inv_eccFound_iff (e : Ecc) (s : State) : (eccFound e s).Inv ↔ s.Inv := by simp [eccFound]

@[simp] theorem Inv_rprGo {op : Nat} {k : State → State} {s : State} (h : s.Inv) (hk : ∀ s, s.Inv → (k s).Inv) : (rprGo op k s).Inv := by
  simp [rprGo, h, hk]

@[simp] theorem Inv_rprEnd_iff (st : Status) (s : State) : (rprEnd st s).Inv ↔ s.Inv := Iff.rfl
@[simp] theorem Inv_rprRun_iff (s : State) : (rprRun s).Inv ↔ s.Inv := Iff.rfl
@[simp] theorem Inv_rprSoft_iff (s : State) : (rprSoft s).Inv ↔ s.Inv := by simp [rprSoft]
@[simp] theorem Inv_rprFuse_iff (s : State) : (rprFuse s).Inv ↔ s.Inv := by simp [rprFuse]
@[simp] theorem Inv_rprRetire_iff (s : State) : (rprRetire s).Inv ↔ s.Inv := by simp [rprRetire]

theorem resInv_execRowRepairSwitch {addr : Nat} {s : State} (h : s.Inv) : resInv (execRowRepairSwitch addr s) := by
  unfold execRowRepairSwitch
  split <;> simp [h]

@[simp] theorem Inv_retireNext_iff (p : Nat) (s : State) : (retireNext p s).Inv ↔ s.Inv := by
  unfold retireNext
  repeat' split
  all_goals simp

theorem resInv_execPcRetireLineMove {badLine : Bool} {s : State} (h : s.Inv) : resInv (execPcRetireLineMove badLine s) := by
  unfold execPcRetireLineMove
  split <;> simp [h]

@[simp] theorem Inv_rsvWrite {v : W64} {s : State} (h : s.Inv) : (rsvWrite v s).Inv := by simp [rsvWrite, h, State.Inv_undefine]
@[simp] theorem Inv_swapRequest_iff (t : Nat) (s : State) : (swapRequest t s).Inv ↔ s.Inv := by simp [swapRequest]
@[simp] theorem Inv_tspareWrite_iff (v : W64) (s : State) : (tspareWrite v s).Inv ↔ s.Inv := by simp [tspareWrite]
@[simp] theorem Inv_tileUnc_iff (t : Nat) (s : State) : (tileUnc t s).Inv ↔ s.Inv := by simp [tileUnc]
@[simp] theorem Inv_swapOver_iff (st : Status) (s : State) : (swapOver st s).Inv ↔ s.Inv := Iff.rfl

theorem resInv_execTileSwapStart {testPass : Bool} {s : State} (h : s.Inv) : resInv (execTileSwapStart testPass s) := by
  unfold execTileSwapStart
  split <;> simp [h]

theorem resInv_execDirectorWatchdogExpiry {core : Nat} {s : State} (h : s.Inv) : resInv (execDirectorWatchdogExpiry core s) := by
  simp [execDirectorWatchdogExpiry, h]

theorem resInv_execDirectorTakeoverComplete {s : State} (h : s.Inv) : resInv (execDirectorTakeoverComplete s) := by
  unfold execDirectorTakeoverComplete
  split <;> simp [h]

/-! ### The functions of Machine/MemPath.lean -/

@[simp] theorem State.Inv_modOp_iff (s : State) (tile id : Nat) (f : MemOp → MemOp) : (State.modOp s tile id f).Inv ↔ s.Inv := Iff.rfl
@[simp] theorem State.Inv_modPart_iff (s : State) (tile id k : Nat) (f : Part → Part) : (State.modPart s tile id k f).Inv ↔ s.Inv := Iff.rfl
@[simp] theorem State.Inv_dropOp_iff (s : State) (tile id : Nat) : (State.dropOp s tile id).Inv ↔ s.Inv := Iff.rfl
@[simp] theorem Inv_bankJobDone_iff (tile : Nat) (o : MemOp) (s : State) : (bankJobDone tile o s).Inv ↔ s.Inv := Iff.rfl
@[simp] theorem Inv_acquire_iff (r : TRef) (s : State) : (acquire r s).Inv ↔ s.Inv := by simp [acquire]

@[simp] theorem Inv_opComplete {tile id : Nat} {s : State} (h : s.Inv) : (opComplete tile id s).Inv := by
  unfold opComplete
  split <;> simp [h]

@[simp] theorem Inv_serveBytes_iff (tile reel slot pa n : Nat) (s : State) : (serveBytes tile reel slot pa n s).Inv ↔ s.Inv := by
  simp only [serveBytes]
  repeat' split
  all_goals simp

@[simp] theorem Inv_partDoneBad {bad : List Nat} {tile id k : Nat} {st : Status} {s : State} (h : s.Inv) :
    (partDoneBad bad tile id k st s).Inv := by
  unfold partDoneBad
  repeat' split
  all_goals simp [h]

@[simp] theorem Inv_partDone {tile id k : Nat} {st : Status} {s : State} (h : s.Inv) : (partDone tile id k st s).Inv := by
  simp [partDone, h]

@[simp] theorem Inv_loadPart {tile id k : Nat} {s : State} (h : s.Inv) : (loadPart tile id k s).Inv := by
  unfold loadPart
  repeat' split
  all_goals simp [h]

@[simp] theorem Inv_farPart {tile id k : Nat} {data : List Byte} {bad : Bool} {s : State} (h : s.Inv) :
    (farPart tile id k data bad s).Inv := by
  unfold farPart
  repeat' split
  all_goals simp [h]

@[simp] theorem Inv_raServe {tile id k : Nat} {x : RaSector} {s : State} (h : s.Inv) : (raServe tile id k x s).Inv := by simp [raServe, h]

@[simp] theorem Inv_raDemand {tile id k : Nat} {p : Part} {s : State} (h : s.Inv) : (raDemand tile id k p s).Inv := by
  unfold raDemand
  split <;> simp [h]

@[simp] theorem Inv_raStored_iff (tile : Nat) (ps : List (Piece × Nat × Nat)) (s : State) : (raStored tile ps s).Inv ↔ s.Inv := by
  simp [raStored]

@[simp] theorem Inv_sendPart {tile id k : Nat} {s : State} (h : s.Inv) : (sendPart tile id k s).Inv := by
  unfold sendPart
  repeat' split
  all_goals simp [h]

@[simp] theorem Inv_issueGo {cnt : Bool} {fuel tile id k : Nat} {s : State} (h : s.Inv) : (issueGo cnt fuel tile id k s).Inv := by
  induction fuel generalizing k s with
  | zero => exact h
  | succ fuel ih =>
    simp only [issueGo]
    split
    · exact h
    split
    · exact h
    split
    · exact ih h
    split
    · exact ih (Inv_sendPart h)
    · simp [h]

@[simp] theorem Inv_issueParts {cnt : Bool} {tile id : Nat} {s : State} (h : s.Inv) : (issueParts cnt tile id s).Inv := by
  unfold issueParts
  split <;> simp [h]

@[simp] theorem Inv_advance_iff (r : TRef) (x : Option W64) (s : State) : (advance r x s).Inv ↔ s.Inv := Iff.rfl

@[simp] theorem Inv_startOp {r : TRef} {i : Instr} {x : Option W64} {o : MemOp} {ps : List (Piece × Nat × Nat)} {s : State} (h : s.Inv) :
    (startOp r i x o ps s).Inv := by
  simp [startOp, h]

@[simp] theorem Inv_startJob_iff (tile th reel slot : Nat) (kind : MKind) (data : List Byte) (ps : List (Piece × Nat × Nat)) (s : State) :
    (startJob tile th reel slot kind data ps s).2.Inv ↔ s.Inv := by
  simp [startJob]

@[simp] theorem Inv_notStandby {r : TRef} {x : Option W64} {k : State → State} {s : State} (h : s.Inv) (hk : ∀ s, s.Inv → (k s).Inv) :
    (notStandby r x k s).Inv := by
  simp [notStandby, h, hk]

/-! ### The functions of Machine/MemInstr.lean -/

@[simp] theorem Inv_loadT {i : Instr} {f : SForm} {n : Nat} {dst : Dst} {r : TRef} {s : State} (h : s.Inv) : (loadT i f n dst r s).Inv :=
  Inv_notStandby h fun _ h => Inv_withAccess h fun _ _ h => Inv_startOp h

@[simp] theorem Inv_storeT {i : Instr} {f : SForm} {data : Thread → List Byte} {r : TRef} {s : State} (h : s.Inv) :
    (storeT i f data r s).Inv :=
  Inv_notStandby h fun _ h => Inv_withAccess h fun _ _ h => Inv_startOp h

@[simp] theorem Inv_ldxScalarT {i : Instr} {f : SForm} {n : Nat} {r : TRef} {s : State} (h : s.Inv) : (ldxScalarT i f n r s).Inv := by
  simp [ldxScalarT, h]

@[simp] theorem Inv_stxScalarT {i : Instr} {f : SForm} {n : Nat} {r : TRef} {s : State} (h : s.Inv) : (stxScalarT i f n r s).Inv := by
  simp [stxScalarT, h]

@[simp] theorem Inv_noImmV {r : TRef} {f : VForm} {k : State → State} {s : State} (h : s.Inv) (hk : ∀ s, s.Inv → (k s).Inv) :
    (noImmV r f k s).Inv := by
  simp [noImmV, h, hk]

@[simp] theorem Inv_loadLanesT {i : Instr} {f : VForm} {addr : VForm → Thread → Nat → Nat} {r : TRef} {s : State} (h : s.Inv) :
    (loadLanesT i f addr r s).Inv := by
  refine Inv_notStandby h fun _ h => Inv_noImmV h fun _ h => ?_
  dsimp only
  split
  · exact Inv_finishWith h
  · exact Inv_withAccess h fun _ _ h => Inv_startOp h

@[simp] theorem Inv_storeLanesT {i : Instr} {f : VForm} {addr : VForm → Thread → Nat → Nat} {r : TRef} {s : State} (h : s.Inv) :
    (storeLanesT i f addr r s).Inv :=
  Inv_notStandby h fun _ h => Inv_noImmV h fun _ h => Inv_withAccess h fun _ _ h => Inv_startOp h

@[simp] theorem Inv_ldxST {i : Instr} {f : DForm} {r : TRef} {s : State} (h : s.Inv) : (ldxST i f r s).Inv := by
  refine Inv_notStandby h fun _ h => ?_
  dsimp only
  split
  · exact Inv_finish h
  · exact Inv_withAccess h fun _ _ h => Inv_startOp (State.Inv_modThread _ _ _ h)

@[simp] theorem Inv_stxST {i : Instr} {f : DForm} {r : TRef} {s : State} (h : s.Inv) : (stxST i f r s).Inv := by
  refine Inv_notStandby h fun _ h => ?_
  dsimp only
  split
  · exact Inv_finish h
  · exact Inv_withAccess h fun _ _ h => Inv_startOp h

@[simp] theorem Inv_semT {i : Instr} {f : SForm} {op : Nat} {r : TRef} {s : State} (h : s.Inv) : (semT i f op r s).Inv := by
  unfold semT
  refine Inv_notStandby h fun s h => ?_
  dsimp only
  split
  · exact Inv_finish h
  refine Inv_withAccess h fun ps s h => ?_
  split
  · exact Inv_finish h
  split
  · exact (Inv_hold_iff ..).2 h
  · exact Inv_startOp h

@[simp] theorem Inv_semAt {ca o op : Nat} {a b : W64} {s : State} (h : s.Inv) : (semAt ca o op a b s).2.Inv := by
  unfold semAt
  split <;> simp [h]

@[simp] theorem Inv_semPerform {tile op : Nat} {s : State} (h : s.Inv) : (semPerform tile op s).Inv := by
  simp only [semPerform]
  repeat' split
  all_goals simp [h]

@[simp] theorem Inv_semHome {tile op : Nat} {s : State} (h : s.Inv) : (semHome tile op s).Inv := by
  unfold semHome
  split <;> simp [h]

@[simp] theorem Inv_raArrive {tile id : Nat} {st : Status} {bad : Bool} {data : List Byte} {s : State} (h : s.Inv) :
    (raArrive tile id st bad data s).Inv := by
  unfold raArrive
  split <;> simp +contextual [h]

@[simp] theorem Inv_loadResponse {tile id k : Nat} {ecc : List Ecc} {s : State} (h : s.Inv) : (loadResponse tile id k ecc s).Inv := by
  unfold loadResponse
  repeat' split
  all_goals simp [h]

@[simp] theorem Inv_storeAck {tile id k : Nat} {s : State} (h : s.Inv) : (storeAck tile id k s).Inv := by
  unfold storeAck
  split
  · exact h
  split
  · exact h
  dsimp only
  split
  · exact h
  split
  · split
    · exact Inv_partDone h
    split
    · exact h
    split
    · exact State.Inv_ite_of h ((Inv_stallBegin_iff ..).2 h)
    · exact Inv_partDone (State.Inv_ite_of (Inv_foldl h fun _ _ h => Inv_homeWrite h) h)
  · exact State.Inv_ite_of (Inv_partDone h) h
  · exact h

@[simp] theorem Inv_slotGrant {r : TRef} {s : State} (h : s.Inv) : (slotGrant r s).Inv := by simp +contextual [slotGrant, h]
@[simp] theorem Inv_fetchFault {r : TRef} {st : Status} {s : State} (h : s.Inv) : (fetchFault r st s).Inv := by simp [fetchFault, h]
@[simp] theorem Inv_fetchWord_iff (r : TRef) (w : W64) (s : State) : (fetchWord r w s).Inv ↔ s.Inv := Iff.rfl
@[simp] theorem Inv_fetchServe {r : TRef} {pa : Nat} {s : State} (h : s.Inv) : (fetchServe r pa s).Inv := by simp [fetchServe, h]
@[simp] theorem Inv_fetchCached {r : TRef} {pa ca : Nat} {s : State} (h : s.Inv) : (fetchCached r pa ca s).Inv := by simp [fetchCached, h]

@[simp] theorem Inv_fetchT {r : TRef} {s : State} (h : s.Inv) : (fetchT r s).Inv := by
  simp only [fetchT]
  repeat' split
  all_goals simp [h]

@[simp] theorem Inv_raRoom {tile : Nat} {s : State} (h : s.Inv) : optInv (raRoom tile s) := by
  unfold raRoom
  split
  · simp [h]
  · cases (s.tile tile).ra.find? (fun x => x.arrived) <;> simp [h]

@[simp] theorem Inv_raFetch {r : TRef} {d : Nat} {s : State} (h : s.Inv) : (raFetch r d s).Inv := by
  unfold raFetch
  dsimp only
  split
  · exact h
  split
  · exact h
  split
  · split
    · exact State.Inv_modThread _ _ _ h
    split
    · exact h
    split
    · exact h
    next t e =>
      refine Inv_issueParts (State.Inv_modThread _ _ _ (State.Inv_modTile _ _ _ ((Inv_installTile_iff ..).2 ((State.Inv_with_iff ..).2 ?_))))
      exact Inv_raRoom h t e
  · exact (Inv_cntPmc_iff ..).2 h

/-! ### The functions of Machine/Flags.lean -/

@[simp] theorem Inv_drawEach_iff (u : Nat → Nat) (fs : List (Nat → Conv)) (cs : List Nat) (s : State) :
    (drawEach u fs cs s).2.Inv ↔ s.Inv := by
  induction fs generalizing cs s with
  | nil => rfl
  | cons f fs ih =>
    simp only [drawEach]
    split
    · exact ih ..
    · exact (ih ..).trans (by split <;> simp)

@[simp] theorem Inv_convEach_iff (site reel : Nat) (items : List (Nat → Conv)) (s : State) :
    (convEach site reel items s).2.Inv ↔ s.Inv := by
  simp only [convEach]
  repeat' split
  all_goals simp

/-! ### The functions of Machine/Array.lean -/

@[simp] theorem Inv_fetchBeat {tile hh j b : Nat} {s : State} (h : s.Inv) : (fetchBeat tile hh j b s).Inv := by
  simp only [fetchBeat]
  repeat' split
  all_goals simp [h]

@[simp] theorem Inv_fillStage {tile hh : Nat} {s : State} (h : s.Inv) : (fillStage tile hh s).Inv := by simp +contextual [fillStage, h]

@[simp] theorem Inv_mmaStart {f : DForm} {r : TRef} {o : ArrOp} {ps : List (Piece × Nat × Nat)} {s : State} (h : s.Inv) :
    (mmaStart f r o ps s).Inv := by
  simp [mmaStart, h]

@[simp] theorem Inv_mmaCheck {i : Instr} {f : DForm} {r : TRef} {formOk : State → Bool}
    {k : ArrOp → List (Piece × Nat × Nat) → State → State} {s : State} (h : s.Inv) (hk : ∀ x x1 s, s.Inv → (k x x1 s).Inv) :
    (mmaCheck i f r formOk k s).Inv := by
  unfold mmaCheck
  refine Inv_notStandby h fun s h => ?_
  split
  · exact Inv_finish h
  refine Inv_withAccess h fun ps s h => ?_
  split
  · exact (Inv_hold_iff ..).2 h
  · exact hk _ _ _ h

@[simp] theorem Inv_mmaOpenT {i : Instr} {f : DForm} {r : TRef} {s : State} (h : s.Inv) : (mmaOpenT i f r s).Inv := by
  simp +contextual [mmaOpenT, h]

@[simp] theorem Inv_mmaContT {i : Instr} {f : DForm} {r : TRef} {s : State} (h : s.Inv) : (mmaContT i f r s).Inv := by
  simp +contextual [mmaContT, h]

@[simp] theorem Inv_beat {tile hh : Nat} {s : State} (h : s.Inv) : (beat tile hh s).Inv := by
  simp only [beat]
  repeat' split
  all_goals simp [h]

theorem resInv_execArrayBeat {tile hh : Nat} {s : State} (h : s.Inv) : resInv (execArrayBeat tile hh s) := by simp [execArrayBeat, h]

@[simp] theorem Inv_mmaDone {tile hh : Nat} {s : State} (h : s.Inv) : (mmaDone tile hh s).Inv := by
  unfold mmaDone
  split <;> simp [h]

@[simp] theorem Inv_takeToken {r : TRef} {i : Instr} {x : Option W64} {rd : Nat} {k : Nat → State → State} {s : State} (h : s.Inv)
    (hk : ∀ x s, s.Inv → (k x s).Inv) : (takeToken r i x rd k s).Inv := by
  simp [takeToken, h, hk]

@[simp] theorem Inv_rscT {i : Instr} {f : DForm} {r : TRef} {s : State} (h : s.Inv) : (rscT i f r s).Inv := by
  unfold rscT
  refine Inv_notStandby h fun s h => ?_
  dsimp only
  split
  · exact Inv_finish h
  split
  · exact Inv_finish h
  refine Inv_withAccess h fun ps s h => ?_
  split
  · exact (Inv_hold_iff ..).2 h
  · exact Inv_takeToken h fun tok s h => h

@[simp] theorem Inv_storeBytes_iff (tile th reel slot : Nat) (pages : PageMap) (w : List (Nat × List Byte)) (s : State) :
    (storeBytes tile th reel slot pages w s).2.Inv ↔ s.Inv := by
  simp only [storeBytes]
  repeat' split
  all_goals simp

@[simp] theorem Inv_drain_iff (T : Tile) (tile : Nat) (o : RscOp) (S : OutSet) (s : State) : (drain T tile o S s).2.2.Inv ↔ s.Inv := by
  simp [drain]

@[simp] theorem Inv_flagThread_iff (r : TRef) (f : Flags4) (s : State) : (flagThread r f s).Inv ↔ s.Inv := by simp [flagThread]

@[simp] theorem Inv_drainStart {tile hh : Nat} {s : State} (h : s.Inv) : (drainStart tile hh s).Inv := by
  simp only [drainStart]
  repeat' split
  all_goals simp [h]

@[simp] theorem Inv_rscDone_iff (tile hh : Nat) (s : State) : (rscDone tile hh s).Inv ↔ s.Inv := by
  unfold rscDone
  split <;> simp

@[simp] theorem Inv_cpylStart {tile : Nat} {s : State} (h : s.Inv) : (cpylStart tile s).Inv := by
  unfold cpylStart
  split <;> simp [h]

@[simp] theorem Inv_cpylT {i : Instr} {f : DForm} {r : TRef} {s : State} (h : s.Inv) : (cpylT i f r s).Inv := by
  unfold cpylT
  refine Inv_notStandby h fun s h => ?_
  dsimp only
  split
  · exact Inv_finish h
  refine Inv_withAccess h fun ps s h => Inv_withAccess h fun qs s h => ?_
  split
  · exact (Inv_hold_iff ..).2 h
  refine Inv_takeToken h fun tok s h => ?_
  split
  · exact Inv_cpylStart (State.Inv_modTile _ _ _ h)
  · exact h

@[simp] theorem Inv_cpylGo {tile : Nat} {s : State} (h : s.Inv) : (cpylGo tile s).Inv := by
  simp only [cpylGo]
  repeat' split
  all_goals simp [h]

@[simp] theorem Inv_cpylDone {tile : Nat} {s : State} (h : s.Inv) : (cpylDone tile s).Inv := by
  unfold cpylDone
  split <;> simp [h]

/-! ### The functions of Machine/Desc.lean -/

@[simp] theorem Inv_touchDesc_iff (r : TRef) (ps : List (Piece × Nat × Nat)) (s : State) : (touchDesc r ps s).Inv ↔ s.Inv := by
  simp [touchDesc]

@[simp] theorem Inv_askDesc_iff (r : TRef) (ps : List (Piece × Nat × Nat)) (s : State) : (askDesc r ps s).Inv ↔ s.Inv := by
  simp only [askDesc]
  repeat' split
  all_goals simp

@[simp] theorem Inv_withDesc {r : TRef} {i : Instr} {x : Option W64} {need : Need} {va n : Nat} {k : List Byte → State → State}
    {s : State} (h : s.Inv) (hk : ∀ x s, s.Inv → (k x s).Inv) : (withDesc r i x need va n k s).Inv := by
  unfold withDesc
  refine Inv_withAccess h fun ps s h => ?_
  split
  · exact (Inv_hold_iff ..).2 h
  have h1 : (touchDesc r ps s).Inv := (Inv_touchDesc_iff ..).2 h
  dsimp only
  split
  · split
    · exact (Inv_cueHit_iff ..).2 (Inv_finish h1)
    · exact hk _ _ h1
  · have h2 : (if asking (touchDesc r ps s) r then touchDesc r ps s else askDesc r ps (touchDesc r ps s)).Inv := by simp [h]
    split
    · exact Inv_finish h2
    · exact (Inv_hold_iff ..).2 h2

@[simp] theorem Inv_descArrive_iff (r : TRef) (va : Nat) (st : Status) (bs : List Byte) (s : State) :
    (descArrive r va st bs s).Inv ↔ s.Inv := by
  simp [descArrive]

/-! ### The functions of Machine/Scalar.lean -/

theorem resInv_scalarOp {w : Who} {i : Instr} {f : SForm} {op : W64 → W64 → W64} {s : State} (h : s.Inv) : resInv (scalarOp w i f op s) :=
  resInv_both h (fun _ _ h => Inv_finishWith h) fun _ _ _ h => (Inv_finishC_iff ..).2 h

@[simp] theorem Inv_jumpT {r : TRef} {n : Nat} {pc : W64} {s : State} (h : s.Inv) : (jumpT r n pc s).Inv := by simp [jumpT, h]

theorem resInv_branchOp {w : Who} {i : Instr} {f : SForm} {cond : W64 → W64 → Bool} {s : State} (h : s.Inv) :
    resInv (branchOp w i f cond s) := by
  refine resInv_both h (fun r s h => ?_) fun p c s h => by simp [h]
  have h1 := (Inv_cntPmc_iff r.tile 0x17 (s.thread r).reel 1 s).2 h
  exact State.Inv_ite_of (Inv_finish h1) (State.Inv_ite_of (Inv_jumpT h1) (Inv_finish h1))

theorem resInv_jumpOp {w : Who} {i : Instr} {f : SForm} {xOk : Bool} {regs : List Reg} {target : W64 → (Nat → W64) → W64} {s : State}
    (h : s.Inv) :
    resInv (jumpOp w i f xOk regs target s) := by
  refine resInv_both h (fun r s h => ?_) fun p c s h => by simp [h]
  have h1 := (Inv_cntPmc_iff r.tile 0x17 (s.thread r).reel 1 s).2 h
  exact State.Inv_ite_of (Inv_finishAt h1) (Inv_jumpT (State.Inv_modThread _ _ _ h1))

theorem resInv_execInterrupt {proc core : Nat} {cause : Option Status} {s : State} (h : s.Inv) :
    resInv (execInterrupt proc core cause s) := by
  simp [execInterrupt, h]

/-! ### The functions of Machine/Sync.lean -/

@[simp] theorem Inv_stbySet_iff (r : TRef) (v : Bool) (s : State) : (stbySet r v s).Inv ↔ s.Inv := Iff.rfl
theorem resInv_execStbyWrite {r : TRef} {v : Bool} {s : State} (h : s.Inv) : resInv (execStbyWrite r v s) := by simp [execStbyWrite, h]
@[simp] theorem Inv_writeRunahead_iff (t : Nat) (v : W64) (s : State) : (writeRunahead t v s).Inv ↔ s.Inv := by simp [writeRunahead]

@[simp] theorem Inv_csrWrite_iff (r : TRef) (n : Nat) (v : W64) (s : State) : (csrWrite r n v s).Inv ↔ s.Inv := by
  unfold csrWrite
  split <;> simp

theorem resInv_execCsrr {w : Who} {f : SForm} {s : State} (h : s.Inv) : resInv (execCsrr w f s) := by
  refine resInv_both h (fun r s h => ?_) fun p c s h => ?_ <;> split
  · exact Inv_finish h
  · exact Inv_finishWith h
  · exact (Inv_exception_iff ..).2 h
  · exact State.Inv_ite_of ((Inv_exception_iff ..).2 h) ((Inv_finishC_iff ..).2 h)

@[simp] theorem Inv_csrwT {i : Instr} {f : SForm} {r : TRef} {s : State} (h : s.Inv) : (csrwT i f r s).Inv := by simp [csrwT, h]

theorem resInv_execCsrw {w : Who} {f : SForm} {s : State} (h : s.Inv) : resInv (execCsrw w f s) := by
  refine resInv_both h (fun r s h => Inv_csrwT h) fun p c s h => ?_
  dsimp only
  split
  · exact (Inv_exception_iff ..).2 h
  · exact State.Inv_ite_of ((Inv_exception_iff ..).2 h) (State.Inv_modCore _ _ _ _ ((Inv_finishC_iff ..).2 h))

theorem resInv_execDset {w : Who} {f : SForm} {s : State} (h : s.Inv) : resInv (execDset w f s) := by
  refine resInv_tOnly h fun r s h => ?_
  dsimp only
  split
  · exact Inv_finish h
  · exact State.Inv_ite_of (Inv_finish h) (Inv_finishWith h)

@[simp] theorem Inv_unwatch_iff (r : TRef) (s : State) : (unwatch r s).Inv ↔ s.Inv := Iff.rfl

@[simp] theorem Inv_waitEnd {r : TRef} {m : Met} {s : State} (h : s.Inv) : (waitEnd r m s).Inv := by
  unfold waitEnd
  repeat' split
  all_goals simp [h]

@[simp] theorem Inv_waitBegin {r : TRef} {i : Instr} {w : WaitSt} {s : State} (h : s.Inv) : (waitBegin r i w s).Inv := by
  simp only [waitBegin]
  repeat' split
  all_goals simp [h]

@[simp] theorem Inv_waitMet {r : TRef} {s : State} (h : s.Inv) : (waitMet r s).Inv := by
  unfold waitMet
  split <;> simp [h]

@[simp] theorem Inv_waitExpired {r : TRef} {s : State} (h : s.Inv) : (waitExpired r s).Inv := by
  unfold waitExpired
  repeat' split
  all_goals simp [h]

@[simp] theorem Inv_waitMemT {i : Instr} {f : SForm} {r : TRef} {s : State} (h : s.Inv) : (waitMemT i f r s).Inv := by
  unfold waitMemT
  refine Inv_notStandby h fun s h => ?_
  dsimp only
  split
  · exact Inv_finish h
  split
  · exact Inv_finish h
  refine Inv_withAccess h fun ps s h => ?_
  split
  · exact (Inv_hold_iff ..).2 h
  split
  · exact h
  split
  · exact Inv_finish h
  split
  · exact Inv_waitBegin h
  · split
    · exact Inv_waitBegin ((Inv_sendReq_iff ..).2 ((Inv_cacheDrop_iff ..).2 h))
    · exact Inv_finish h

@[simp] theorem Inv_barT {i : Instr} {f : SForm} {r : TRef} {s : State} (h : s.Inv) : (barT i f r s).Inv := by simp [barT, h]

/-! ### The functions of Machine/Cue.lean -/

@[simp] theorem Inv_sendRate_iff (c : Cue) (s : State) : (sendRate c s).Inv ↔ s.Inv := by simp [sendRate]
@[simp] theorem Inv_rateAll_iff (s : State) : (rateAll s).Inv ↔ s.Inv := by simp [rateAll]
theorem resInv_execRate {port : Nat} {m : Msg} {s : State} (h : s.Inv) : resInv (execRate port m s) := by simp [execRate, h]

@[simp] theorem Inv_cueSubmit_iff (r : TRef) (i : Instr) (rd : Nat) (w : List W64) (members : List Nat) (s : State) :
    (cueSubmit r i rd w members s).Inv ↔ s.Inv := by
  simp [cueSubmit]

@[simp] theorem Inv_cueT {i : Instr} {f : SForm} {r : TRef} {s : State} (h : s.Inv) : (cueT i f r s).Inv := by
  unfold cueT
  dsimp only
  split
  · exact Inv_finish h
  split
  · exact Inv_finish h
  split
  · exact Inv_finish h
  split
  · exact (Inv_hold_iff ..).2 h
  refine Inv_withDesc h fun bs s h => ?_
  split
  · exact Inv_finish h
  split
  · exact (Inv_cueSubmit_iff ..).2 h
  refine Inv_withDesc h fun bs s h => ?_
  split
  · exact Inv_finish h
  · exact (Inv_cueSubmit_iff ..).2 h

@[simp] theorem Inv_cueAccept {reel slot : Nat} {c : Cue} {s : State} (h : s.Inv) : (cueAccept reel slot c s).Inv := by simp [cueAccept, h]

theorem resInv_execCueAdmission {reel slot : Nat} {s : State} (h : s.Inv) : resInv (execCueAdmission reel slot s) := by
  unfold execCueAdmission
  repeat' split
  all_goals simp [h]

@[simp] theorem Inv_endcueT {i : Instr} {f : SForm} {r : TRef} {s : State} (h : s.Inv) : (endcueT i f r s).Inv := by
  simp only [endcueT]
  repeat' split
  all_goals simp [h]

theorem resInv_execCueEnd {reel slot : Nat} {s : State} (h : s.Inv) : resInv (execCueEnd reel slot s) := by
  unfold execCueEnd
  repeat' split
  all_goals simp [h]

theorem resInv_execCueExpire {reel slot : Nat} {s : State} (h : s.Inv) : resInv (execCueExpire reel slot s) := by
  unfold execCueExpire
  split <;> simp [h]

@[simp] theorem Inv_creditTick_iff (s : State) : (creditTick s).Inv ↔ s.Inv := by
  unfold creditTick
  split <;> simp

@[simp] theorem Inv_floorWrite_iff (v : W64) (s : State) : (floorWrite v s).Inv ↔ s.Inv := by simp [floorWrite]
@[simp] theorem Inv_freezeNow_iff (s : State) : (freezeNow s).Inv ↔ s.Inv := by simp [freezeNow]
@[simp] theorem Inv_freezeAt_iff (tick : Nat) (s : State) : (freezeAt tick s).Inv ↔ s.Inv := by simp [freezeAt]

@[simp] theorem Inv_clapFlood_iff (tick : W64) (hops : Nat) (from_ : Option Nat) (s : State) :
    (clapFlood tick hops from_ s).Inv ↔ s.Inv := by
  simp [clapFlood]

theorem resInv_execFreeze {s : State} (h : s.Inv) : resInv (execFreeze s) := by
  unfold execFreeze
  split <;> simp [h]

/-! ### The functions of Machine/Mirror.lean -/

@[simp] theorem Inv_mctl_iff (dst op reel : Nat) (args : List Nat) (s : State) : (mctl dst op reel args s).Inv ↔ s.Inv := by simp [mctl]

@[simp] theorem Inv_sendRec_iff (reel kind tag addr : Nat) (data : List Byte) (s : State) :
    (sendRec reel kind tag addr data s).Inv ↔ s.Inv := by
  simp [sendRec]

@[simp] theorem Inv_diffPiece_iff (reel tag place : Nat) (old new : List Byte) (s : State) :
    (diffPiece reel tag place old new s).Inv ↔ s.Inv :=
  Inv_foldl_iff _ _ s fun s k => by
    dsimp only
    split
    · split <;> simp
    · rfl

@[simp] theorem Inv_sendBlock_iff (reel tag k : Nat) (s : State) : (sendBlock reel tag k s).Inv ↔ s.Inv := by
  unfold sendBlock
  split <;> simp

@[simp] theorem Inv_mirrorSeal_iff (reel tag waiting : Nat) (s : State) : (mirrorSeal reel tag waiting s).Inv ↔ s.Inv := by
  simp [mirrorSeal]

@[simp] theorem Inv_mirrorEnd_iff (reel tag : Nat) (set : Bool) (s : State) : (mirrorEnd reel tag set s).Inv ↔ s.Inv := by simp [mirrorEnd]

/-! ### The functions of Machine/Roll.lean -/

@[simp] theorem Inv_settleRange {o n : Nat} {s : State} (h : s.Inv) : (settleRange o n s).Inv := by simp +contextual [settleRange, h]
@[simp] theorem State.Inv_modCommit_iff (s : State) (g : Nat) (f : CommitWord → CommitWord) : (State.modCommit s g f).Inv ↔ s.Inv := Iff.rfl
@[simp] theorem Inv_noteSrc_iff (g : Nat) (s : State) : (noteSrc g s).Inv ↔ s.Inv := Iff.rfl
@[simp] theorem Inv_recordStep_iff (g t : Nat) (set : Bool) (s : State) : (recordStep g t set s).Inv ↔ s.Inv := Iff.rfl
@[simp] theorem Inv_mirrorCommit_iff (g t : Nat) (s : State) : (mirrorCommit g t s).Inv ↔ s.Inv := by simp [mirrorCommit]

@[simp] theorem Inv_mirlistPart_iff (reel g t : Nat) (l : List Nat) (s : State) : (mirlistPart reel g t l s).Inv ↔ s.Inv := by
  simp [mirlistPart]

@[simp] theorem Inv_mirlistAdd_iff (reel g t : Nat) (l : List Nat) (s : State) : (mirlistAdd reel g t l s).Inv ↔ s.Inv := by
  simp [mirlistAdd]

@[simp] theorem Inv_tollsEnd {g : Nat} {st : Status} {s : State} (h : s.Inv) : (tollsEnd g st s).Inv := by simp +contextual [tollsEnd, h]

@[simp] theorem Inv_resolveStep {g t : Nat} {set lost : Bool} {s : State} (h : s.Inv) : (resolveStep g t set lost s).Inv := by
  simp [resolveStep, h]

@[simp] theorem Inv_legTo_iff (s : State) (d : Nat) : (legTo s d).2.Inv ↔ s.Inv := by
  simp only [legTo]
  repeat' split
  all_goals simp

@[simp] theorem Inv_legsTo_iff (ds : List Nat) (s : State) : (legsTo ds s).2.Inv ↔ s.Inv :=
  Inv_foldl_snd_iff _ _ _ fun _ _ => Inv_legTo_iff ..

@[simp] theorem Inv_tollResolved {g t : Nat} {set lost : Bool} {leg : Nat} {s : State} (h : s.Inv) :
    (tollResolved g t set lost leg s).Inv := by
  simp [tollResolved, h]

@[simp] theorem Inv_tryUp {g : Nat} {s : State} (h : s.Inv) : (tryUp g s).Inv := by simp [tryUp, h]
@[simp] theorem Inv_askMembers_iff (g t : Nat) (s : State) : (askMembers g t s).Inv ↔ s.Inv := by simp [askMembers]
@[simp] theorem Inv_tollMember {g : Nat} {s : State} (h : s.Inv) : (tollMember g s).Inv := by simp [tollMember, h]
@[simp] theorem Inv_contribute {g : Nat} {s : State} (h : s.Inv) : (contribute g s).Inv := by simp [contribute, h]
@[simp] theorem Inv_mirrorStage_iff (x : RollSlot) (s : State) : (mirrorStage x s).Inv ↔ s.Inv := by simp [mirrorStage]
@[simp] theorem Inv_contribSend {g : Nat} {s : State} (h : s.Inv) : (contribSend g s).Inv := by simp [contribSend, h]

@[simp] theorem Inv_tollUp {digest : W64} {tag rank : Nat} {contrib : Bool} {leg : Nat} {s : State} (h : s.Inv) :
    (tollUp digest tag rank contrib leg s).Inv := by
  unfold tollUp
  split <;> simp [h]

@[simp] theorem Inv_tollDown {digest : W64} {tag : Nat} {set lost : Bool} {leg : Nat} {s : State} (h : s.Inv) :
    (tollDown digest tag set lost leg s).Inv := by
  unfold tollDown
  split <;> simp [h]

@[simp] theorem Inv_querySettle {g t : Nat} {ans : Option Bool} {s : State} (h : s.Inv) : (querySettle g t ans s).Inv := by
  unfold querySettle
  split <;> simp +contextual [h]

@[simp] theorem Inv_queryStart {g t : Nat} {s : State} (h : s.Inv) : (queryStart g t s).Inv := by
  simp only [queryStart]
  repeat' split
  all_goals simp [h]

@[simp] theorem Inv_queriesGo {s : State} (h : s.Inv) : (queriesGo s).Inv := by
  unfold queriesGo
  refine Inv_foldl h fun s x h => ?_
  split <;> simp [h]

@[simp] theorem Inv_recoverSlot {x : RollSlot} {s : State} (h : s.Inv) : (recoverSlot x s).Inv := by simp [recoverSlot, h]

@[simp] theorem Inv_recoverCol {layer col : Nat} {s : State} (h : s.Inv) : (recoverCol layer col s).Inv := by
  unfold recoverCol
  refine State.Inv_ite_of ?h (Inv_foldl ?h fun s g h => State.Inv_ite_of (Inv_queryStart h) h)
  refine Inv_foldl ?_ fun _ _ h => (State.Inv_modGroup_iff ..).2 h
  exact (State.Inv_with_iff ..).2 (Inv_foldl h fun _ _ h => Inv_recoverSlot h)

@[simp] theorem Inv_bindApply_iff (g : Nat) (s : State) : (bindApply g s).Inv ↔ s.Inv := by simp [bindApply]
@[simp] theorem Inv_tollT {i : Instr} {f : SForm} {r : TRef} {s : State} (h : s.Inv) : (tollT i f r s).Inv := by simp [tollT, h]

theorem resInv_execTollContributionSend {g : Nat} {s : State} (h : s.Inv) : resInv (execTollContributionSend g s) := by
  simp [execTollContributionSend, h]

theorem resInv_execRollCommitChunk {layer col slot : Nat} {s : State} (h : s.Inv) : resInv (execRollCommitChunk layer col slot s) := by
  unfold execRollCommitChunk
  split <;> simp [h]

theorem resInv_execRollRecovery {layer col : Nat} {s : State} (h : s.Inv) : resInv (execRollRecovery layer col s) := by
  simp [execRollRecovery, h]

theorem resInv_execTollQry {digest : W64} {tag src : Nat} {s : State} (h : s.Inv) : resInv (execTollQry digest tag src s) := by
  simp [execTollQry, h]

@[simp] theorem Inv_takeAnswer_iff (g tag : Nat) (set : Bool) (s : State) : (takeAnswer g tag set s).Inv ↔ s.Inv := Iff.rfl

@[simp] theorem Inv_tollAnswer {g : Nat} {x : Group} {tag : Nat} {set : Bool} {s : State} (h : s.Inv) : (tollAnswer g x tag set s).Inv := by
  simp [tollAnswer, h]

theorem resInv_execTollAns {digest : W64} {tag src : Nat} {ans : Option Bool} {s : State} (h : s.Inv) :
    resInv (execTollAns digest tag src ans s) := by
  unfold execTollAns
  split <;> simp [h]

theorem resInv_execTollQueryTimeout {g : Nat} {s : State} (h : s.Inv) : resInv (execTollQueryTimeout g s) := by
  simp only [execTollQueryTimeout, resInv_next]
  repeat' split
  all_goals simp [h]

@[simp] theorem Inv_tollBind_iff (g : Nat) (v : W64) (mcount : BitVec 13) (s : State) : (tollBind g v mcount s).Inv ↔ s.Inv := by
  simp [tollBind]

/-! ### The functions of Machine/Update.lean -/

@[simp] theorem Inv_updT {i : Instr} {f : SForm} {r : TRef} {s : State} (h : s.Inv) : (updT i f r s).Inv := by
  unfold updT
  dsimp only
  split
  · exact Inv_finish h
  split
  · exact (Inv_hold_iff ..).2 h
  refine Inv_withDesc ((Inv_splitPoint_iff ..).2 h) fun bs s h => ?_
  split
  · exact Inv_finish h
  refine Inv_withAccessMix h fun ps s h => ?_
  split
  · exact Inv_finish h
  · exact Inv_takeToken h fun tok s h => h

@[simp] theorem Inv_serveBke_iff (o : BOp) (layer col beats : Nat) (s : State) : (serveBke o layer col beats s).Inv ↔ s.Inv := by
  simp [serveBke]

@[simp] theorem Inv_updEnd {id : Nat} {s : State} (h : s.Inv) : (updEnd id s).Inv := by
  unfold updEnd
  split <;> simp [h]

@[simp] theorem Inv_chunkDone {id k : Nat} {st : Status} {staged : Bool} {fl : Flags4} {s : State} (h : s.Inv) :
    (chunkDone id k st staged fl s).Inv := by
  simp [chunkDone, h]

@[simp] theorem Inv_precheck {o : BOp} {k : Nat} {s : State} (h : s.Inv) : (precheck o k s).Inv := by
  simp only [precheck]
  repeat' split
  all_goals simp [h]

theorem resInv_execUpdPrecheckChunk {op chunk : Nat} {s : State} (h : s.Inv) : resInv (execUpdPrecheckChunk op chunk s) := by
  unfold execUpdPrecheckChunk
  split <;> simp [h]

@[simp] theorem Inv_packBlock_iff (el : Elem) (rnd site reel : Nat) (vals : List Num) (s : State) :
    (packBlock el rnd site reel vals s).2.2.2.Inv ↔ s.Inv := by
  simp [packBlock]

@[simp] theorem Inv_workCopy_iff (d : UpdDesc) (lc : Nat × Nat) (reel : Nat) (masters : List Nat) (s : State) :
    (workCopy d lc reel masters s).2.2.2.Inv ↔ s.Inv := by
  simp [workCopy]

@[simp] theorem Inv_stageChunk {o : BOp} {k slot : Nat} {s : State} (h : s.Inv) : (stageChunk o k slot s).Inv := by simp [stageChunk, h]
@[simp] theorem Inv_updStage {o : BOp} {k pick : Nat} {s : State} (h : s.Inv) : (updStage o k pick s).Inv := by simp [updStage, h]

theorem resInv_execUpdStageChunk {op chunk slotPick : Nat} {s : State} (h : s.Inv) : resInv (execUpdStageChunk op chunk slotPick s) := by
  unfold execUpdStageChunk
  split <;> simp [h]

@[simp] theorem Inv_derive {o : BOp} {k : Nat} {s : State} (h : s.Inv) : (derive o k s).Inv := by
  unfold derive
  dsimp only
  have h0 {n m : Nat} := (Inv_serveBke_iff o n m 12 s).2 h
  split
  · exact Inv_chunkDone ((Inv_cueHit_iff ..).2 h0)
  · exact Inv_chunkDone (Inv_homeWrite (Inv_homeWrite ((Inv_workCopy_iff ..).2 h0)))

theorem resInv_execDeriveChunk {op chunk : Nat} {s : State} (h : s.Inv) : resInv (execDeriveChunk op chunk s) := by
  unfold execDeriveChunk
  split <;> simp [h]

@[simp] theorem Inv_audit {o : BOp} {k : Nat} {s : State} (h : s.Inv) : (audit o k s).Inv := by simp [audit, h]

theorem resInv_execAuditChunk {op chunk : Nat} {s : State} (h : s.Inv) : resInv (execAuditChunk op chunk s) := by
  unfold execAuditChunk
  split <;> simp [h]

/-! ### The functions of Machine/Reduce.lean -/

@[simp] theorem Inv_rdwT {i : Instr} {f : SForm} {r : TRef} {s : State} (h : s.Inv) : (rdwT i f r s).Inv := by
  unfold rdwT
  dsimp only
  split
  · exact Inv_finish h
  split
  · exact (Inv_hold_iff ..).2 h
  refine Inv_withDesc h fun bs s h => ?_
  split
  · exact Inv_finish h
  split
  · exact Inv_finish h
  refine Inv_withAccessMix h fun ps s h => ?_
  split
  · exact Inv_finish h
  · exact Inv_takeToken h fun tok s h => h

@[simp] theorem Inv_addElem {o : Nat} {src : Option Num} {s : State} (h : s.Inv) : (addElem o src s).1.Inv := by
  unfold addElem
  repeat' split
  all_goals simp [h]

@[simp] theorem Inv_addElems {o : Nat} {xs : List (Option Num)} {s : State} (h : s.Inv) : (addElems o xs s).1.Inv := by
  induction xs generalizing o s with
  | nil => exact h
  | cons x xs ih => exact ih (Inv_addElem h)

@[simp] theorem Inv_rdwFetch {o : BOp} {s : State} (h : s.Inv) : (rdwFetch o s).Inv := by simp [rdwFetch, h]
@[simp] theorem Inv_hbmServed_iff (o : BOp) (a n : Nat) (s : State) : (hbmServed o a n s).Inv ↔ s.Inv := by simp [hbmServed]
@[simp] theorem Inv_rdwAdd {o : BOp} {s : State} (h : s.Inv) : (rdwAdd o s).Inv := by simp [rdwAdd, h]

theorem resInv_execRdwSector {op : Nat} {s : State} (h : s.Inv) : resInv (execRdwSector op s) := by
  unfold execRdwSector
  split <;> simp [h]

@[simp] theorem Inv_scrubT {i : Instr} {f : SForm} {r : TRef} {s : State} (h : s.Inv) : (scrubT i f r s).Inv := by
  unfold scrubT
  extract_lets t base len go
  have hgo : ∀ pages s, s.Inv → (go pages s).Inv := fun pages s h => Inv_takeToken h fun tok s h => by
    dsimp only
    split
    · exact Inv_bopFinish ((State.Inv_with_iff ..).2 h)
    · exact (State.Inv_with_iff ..).2 h
  refine State.Inv_ite_of (hgo [] s h) (State.Inv_ite_of (Inv_finish h) (State.Inv_ite_of (Inv_finish h) ?_))
  exact Inv_withAccess h fun ps s h => State.Inv_ite_of (Inv_finish h) (State.Inv_ite_of ((Inv_hold_iff ..).2 h) (hgo _ s h))

@[simp] theorem Inv_dropCopies_iff (pa : Nat) (s : State) : (dropCopies pa s).Inv ↔ s.Inv := by
  unfold dropCopies
  split <;> simp

@[simp] theorem Inv_zeroHome {o : Nat} {s : State} (h : s.Inv) : (zeroHome o s).Inv := by
  unfold zeroHome
  refine (Inv_staleWrite_iff ..).2 ((Inv_notifyWrites_iff ..).2 ((Inv_dropCopies_iff ..).2 ?_))
  have h1 : (if winOf o == .near then settleRange o 4096 s else s).Inv := by simp [h]
  split
  · exact State.Inv_put _ _ _ h1
  · exact State.Inv_zero _ _ _ h1

@[simp] theorem Inv_settleScrub {o : BOp} {layer col : Nat} {s : State} (h : s.Inv) : (settleScrub o layer col s).Inv := by
  simp +contextual [settleScrub, h]

@[simp] theorem Inv_scrubPage {id page : Nat} {st : Status} {s : State} (h : s.Inv) : (scrubPage id page st s).Inv := by
  simp only [scrubPage]
  repeat' split
  all_goals simp [h]

theorem resInv_execScrubZero {op page : Nat} {s : State} (h : s.Inv) : resInv (execScrubZero op page s) := by
  unfold execScrubZero
  split
  · exact h
  dsimp only
  refine State.Inv_ite_of h (State.Inv_ite_of ?_ ?_)
  · have hq {m : Msg} {o : RemOwner} {a : Nat} {f : BOp → BOp} : (sendReq m o (dropCopies a (s.modBop op f))).1.Inv := by simp [h]
    exact State.Inv_ite_of hq (Inv_scrubPage hq)
  refine State.Inv_ite_of h (State.Inv_ite_of (Inv_scrubPage h) (Inv_scrubPage (Inv_zeroHome ?_)))
  refine State.Inv_ite_of (Inv_settleScrub ?h) ?h
  split
  · exact (Inv_serveBke_iff ..).2 h
  · exact (Inv_serveCue_iff ..).2 h
  · exact h

theorem resInv_execPatrolScrub {layer col : Nat} {ecc : List Ecc} {s : State} (h : s.Inv) : resInv (execPatrolScrub layer col ecc s) := by
  simp [execPatrolScrub, h]

/-! ### The functions of Machine/Coll.lean -/

@[simp] theorem Inv_landed_iff (id n : Nat) (fl : Flags4) (bad : Bool) (s : State) : (landed id n fl bad s).Inv ↔ s.Inv := by
  unfold landed
  split <;> simp

@[simp] theorem Inv_reduceAt {a ca : Nat} {x : Option Num} {s : State} (h : s.Inv) : (reduceAt a ca x s).1.Inv := by
  unfold reduceAt
  dsimp only
  split
  · exact Inv_addElem h
  · exact (Inv_releaseLine_iff ..).2 (Inv_addElem (optInv_getD (Inv_holdLine h) h))

@[simp] theorem BOp.Inv_moved_iff (o : BOp) (va n : Nat) (s : State) : (BOp.moved o va n s).Inv ↔ s.Inv := by simp [BOp.moved]

@[simp] theorem Inv_landAdd {o : BOp} {e : Nat} {xs : List (Option Num)} {s : State} (h : s.Inv) : (landAdd o e xs s).Inv := by
  refine (Inv_landed_iff ..).2 (Inv_foldl_fst h fun acc x h => ?_)
  exact Inv_reduceAt (Inv_commitFirst ((BOp.Inv_moved_iff ..).2 h))

@[simp] theorem Inv_landF32 {o : BOp} {e : Nat} {xs : List Nat} {s : State} (h : s.Inv) : (landF32 o e xs s).Inv := by
  refine Inv_foldl h fun s x h => State.Inv_ite_of h ?_
  have h1 {a : Nat} := Inv_commitFirst (o := a) (n := 4) ((BOp.Inv_moved_iff o (o.cdst + 4 * (e + x.2 - o.dstFirst)) 4 s).2 h)
  exact State.Inv_ite_of ((Inv_landed_iff ..).2 (State.Inv_mark _ _ _ h1)) (Inv_homeWrite h1)

@[simp] theorem Inv_landV {o : BOp} {va : Nat} {bs : List Byte} {mask : Nat} {s : State} (h : s.Inv) : (landV o va bs mask s).Inv := by
  refine Inv_foldl (Inv_foldl ((BOp.Inv_moved_iff ..).2 h) fun _ _ h => Inv_homeWrite (Inv_commitFirst h)) fun s b h => ?_
  split
  · exact (Inv_landed_iff ..).2 (State.Inv_mark _ _ _ h)
  · exact h

@[simp] theorem Inv_collSend_iff (o : BOp) (rank code index : Nat) (d : List Byte × Nat) (s : State) :
    (collSend o rank code index d s).Inv ↔ s.Inv := by
  simp [collSend]

@[simp] theorem Inv_sendRaw_iff (o : BOp) (rank code lo hi index : Nat) (s : State) : (sendRaw o rank code lo hi index s).Inv ↔ s.Inv := by
  simp [sendRaw]

@[simp] theorem Inv_sendF32_iff (o : BOp) (rank code e : Nat) (xs : List Nat) (s : State) : (sendF32 o rank code e xs s).Inv ↔ s.Inv := by
  simp [sendF32]

@[simp] theorem Inv_collFinish {id : Nat} {st : Status} {s : State} (h : s.Inv) : (collFinish id st s).Inv := by
  unfold collFinish
  split <;> simp [h]

@[simp] theorem Inv_sendLost_iff (dev : Nat) (members : List Nat) (s : State) : (sendLost dev members s).Inv ↔ s.Inv := by simp [sendLost]
@[simp] theorem Inv_sendOpen_iff (o : BOp) (code : Nat) (s : State) : (sendOpen o code s).Inv ↔ s.Inv := by simp [sendOpen]

@[simp] theorem Inv_sendFinals_iff (o : BOp) (e : Nat) (xs : List Nat) (s : State) : (sendFinals o e xs s).Inv ↔ s.Inv := by
  simp [sendFinals]

@[simp] theorem Inv_accPut_iff (id e : Nat) (xs : List Nat) (s : State) : (accPut id e xs s).Inv ↔ s.Inv := Iff.rfl

@[simp] theorem Inv_collCheck {id : Nat} {s : State} (h : s.Inv) : (collCheck id s).Inv := by
  unfold collCheck
  split
  · exact h
  extract_lets first marked p sent
  have hm : marked.Inv := (State.Inv_modBop_iff ..).2 h
  have hs : sent.Inv := State.Inv_ite_of h (State.Inv_ite_of hm
    (State.Inv_ite_of (State.Inv_ite_of ((Inv_sendFinals_iff ..).2 hm) hm) ((Inv_sendF32_iff ..).2 hm)))
  split
  · exact hs
  · exact State.Inv_ite_of (Inv_collFinish hs) hs

@[simp] theorem Inv_ringEnd_iff (o : BOp) (e : Nat) (xs : List Nat) (s : State) : (ringEnd o e xs s).Inv ↔ s.Inv := by simp [ringEnd]
@[simp] theorem Inv_passAdd_iff (o : BOp) (a : Nat) (x : Option Num) (s : State) : (passAdd o a x s).2.Inv ↔ s.Inv := by simp [passAdd]

@[simp] theorem Inv_boardAdd {o : BOp} {e : Nat} {xs : List (Option Num)} {s : State} (h : s.Inv) : (boardAdd o e xs s).Inv := by
  simp +contextual [boardAdd, h]

@[simp] theorem Inv_ringOne {o : BOp} {last : Bool} {e x : Nat} {s : State} (h : s.Inv) : (ringOne o last e x s).2.Inv := by
  unfold ringOne
  split <;> simp [h]

@[simp] theorem Inv_ringStep {o : BOp} {e : Nat} {xs : List Nat} {s : State} (h : s.Inv) : (ringStep o e xs s).Inv := by
  unfold ringStep
  refine State.Inv_ite_of ((Inv_ringEnd_iff ..).2 ?h) ((Inv_sendF32_iff ..).2 ?h)
  exact (State.Inv_modBop_iff ..).2 (Inv_foldl_snd h fun _ _ h => Inv_ringOne h)

@[simp] theorem Inv_schedGo {fuel id : Nat} {s : State} (h : s.Inv) : (schedGo fuel id s).Inv := by
  induction fuel generalizing s with
  | zero => exact h
  | succ fuel ih =>
    unfold schedGo
    split
    · exact h
    dsimp only
    split
    · exact (Inv_sendLost_iff ..).2 (Inv_collFinish h)
    have go {s : State} (h : s.Inv) := ih ((State.Inv_modBop_iff s id (fun p => { p with idx := p.idx + 1 })).2 h)
    split
    · split
      · exact go ((Inv_sendF32_iff ..).2 h)
      split
      · exact go (Inv_foldl h fun _ _ h => (Inv_collSend_iff ..).2 h)
      · exact go ((Inv_sendRaw_iff ..).2 h)
    · exact State.Inv_ite_of (go h) h
    · exact State.Inv_ite_of (Inv_collFinish h) h
    · exact go h

@[simp] theorem Inv_schedRun {id : Nat} {s : State} (h : s.Inv) : (schedRun id s).Inv := by
  unfold schedRun
  split <;> simp [h]

@[simp] theorem Inv_schedLand {fuel id : Nat} {m : Msg} {s : State} (h : s.Inv) : (schedLand fuel id m s).Inv := by
  induction fuel generalizing m s with
  | zero => exact h
  | succ fuel ih =>
    unfold schedLand
    split
    · exact h
    dsimp only
    split
    · exact h
    refine State.Inv_ite_of (ih ?h) (Inv_schedRun ?h)
    refine (State.Inv_modBop_iff ..).2 ?_
    exact State.Inv_ite_of (Inv_landV h) (State.Inv_ite_of (Inv_landAdd h) (Inv_landF32 h))

@[simp] theorem Inv_collBegin {id : Nat} {s : State} (h : s.Inv) : (collBegin id s).Inv := by
  unfold collBegin
  split
  · exact h
  dsimp only
  have h0 {o : BOp} {a n : Nat} : (o.moved a n (s.modBop id (fun _ => o))).Inv := (BOp.Inv_moved_iff ..).2 ((State.Inv_modBop_iff ..).2 h)
  split
  · exact Inv_schedRun h0
  split
  · exact Inv_collCheck (Inv_foldl (Inv_foldl h0 fun _ _ h => Inv_landV h) fun _ _ h => (Inv_sendRaw_iff ..).2 h)
  split
  · exact Inv_collCheck (Inv_foldl (Inv_foldl h0 fun _ _ h => Inv_landV h) fun _ _ h => (Inv_sendRaw_iff ..).2 h)
  split
  · exact Inv_collCheck (Inv_foldl (Inv_landF32 h0) fun _ _ h => (Inv_sendRaw_iff ..).2 h)
  · exact Inv_collCheck ((Inv_sendF32_iff ..).2 h0)
  · refine Inv_collCheck (Inv_foldl (Inv_foldl h0 fun _ _ h => ?_) fun _ _ h => (Inv_sendRaw_iff ..).2 h)
    exact State.Inv_ite_of (Inv_landF32 h) ((Inv_accPut_iff ..).2 h)

@[simp] theorem Inv_keepEarly_iff (m : Msg) (s : State) : (keepEarly m s).Inv ↔ s.Inv := Iff.rfl

@[simp] theorem BOp.Inv_settled {o : BOp} {s : State} (h : s.Inv) : optInv (BOp.settled o s) := by
  simp only [BOp.settled]
  repeat' split
  all_goals simp +contextual [h]

@[simp] theorem Inv_cdataAt {o : BOp} {m : Msg} {s : State} (h : s.Inv) : (cdataAt o m s).Inv := by simp [cdataAt, h]

@[simp] theorem Inv_cdata {m : Msg} {s : State} (h : s.Inv) : (cdata m s).Inv := by
  unfold cdata
  split
  · exact (Inv_keepEarly_iff ..).2 h
  split
  · exact (Inv_keepEarly_iff ..).2 h
  next t e => exact Inv_cdataAt (BOp.Inv_settled h t e)

@[simp] theorem Inv_permute {o : BOp} {from_ : Nat → Nat} {s : State} (h : s.Inv) : (permute o from_ s).Inv :=
  Inv_foldl ((BOp.Inv_moved_iff ..).2 h) fun _ _ h => Inv_foldl h fun _ _ h => Inv_landV h

@[simp] theorem Inv_permStage {o : BOp} {dst off : Nat} {bs : List Byte} {mask : Nat} {s : State} (h : s.Inv) :
    optInv (permStage o dst off bs mask s) := by
  simp only [permStage]
  repeat' split
  all_goals simp [h]

@[simp] theorem Inv_permSend {id : Nat} {s : State} (h : s.Inv) : (permSend id s).Inv := by
  unfold permSend
  split
  · exact h
  refine Inv_foldl h fun s j h => Inv_foldl ((BOp.Inv_moved_iff ..).2 h) fun s c h => ?_
  split
  · exact h
  split
  · exact optInv_getD (Inv_permStage h) h
  · exact (Inv_sendReq_iff ..).2 h

@[simp] theorem Inv_permEntries_iff (id : Nat) (s : State) : (permEntries id s).Inv ↔ s.Inv := by
  unfold permEntries
  split <;> simp

@[simp] theorem Inv_permCheck {id : Nat} {s : State} (h : s.Inv) : (permCheck id s).Inv := by
  unfold permCheck
  split
  · exact h
  next o _ =>
    have h1 : (if o.phase != 5 || o.pre.length < o.m then s
        else sendOpen o (if o.split then 2 else 1) (s.modBop id (fun p => { p with phase := 6 }))).Inv := by simp [h]
    dsimp only
    split
    · exact h1
    next o _ =>
      split
      · exact h1
      split
      · exact Inv_collFinish h1
      split
      · exact h1
      next t e => exact Inv_permSend ((State.Inv_modBop_iff ..).2 (Inv_permute (BOp.Inv_settled h1 t e)))

@[simp] theorem Inv_permBegin {id : Nat} {s : State} (h : s.Inv) : (permBegin id s).Inv := by simp [permBegin, h]

@[simp] theorem Inv_pdata {m : Msg} {s : State} (h : s.Inv) : (pdata m s).Inv := by
  unfold pdata
  dsimp only
  split
  · split
    · exact (Inv_keepEarly_iff ..).2 h
    · exact Inv_permCheck ((State.Inv_modBop_iff ..).2 h)
  · split
    · exact (Inv_keepEarly_iff ..).2 h
    split
    · exact (Inv_keepEarly_iff ..).2 h
    next t e => exact (Inv_sendMsg_iff ..).2 (optInv_bind (BOp.Inv_settled h) (fun _ h => Inv_permStage h) t e)

@[simp] theorem Inv_opBegin {id : Nat} {s : State} (h : s.Inv) : (opBegin id s).Inv := by
  unfold opBegin
  split
  · exact h
  split
  · exact h
  next t e =>
    have ht := BOp.Inv_settled h t e
    split
    · exact Inv_collBegin ht
    · exact Inv_permBegin ht

@[simp] theorem Inv_copen {m : Msg} {s : State} (h : s.Inv) : (copen m s).Inv := by
  simp only [copen]
  repeat' split
  all_goals simp [h]

@[simp] theorem Inv_collMsg {m : Msg} {s : State} (h : s.Inv) : (collMsg m s).Inv := by simp [collMsg, h]

@[simp] theorem Inv_drainEarly {k : Nat} {s : State} (h : s.Inv) : (drainEarly k s).Inv := by
  induction k generalizing s with
  | zero => exact h
  | succ k ih =>
    have h1 : (s.links.early.foldl (fun s m => collMsg m s) { s with links := { s.links with early := [] } }).Inv :=
      Inv_foldl h fun _ _ h => Inv_collMsg h
    simp only [drainEarly]
    split
    · exact ih h1
    · exact h1

@[simp] theorem Inv_collArrive {m : Msg} {s : State} (h : s.Inv) : (collArrive m s).Inv := by simp [collArrive, h]

@[simp] theorem Inv_withSched {r : TRef} {i : Instr} {fuel va : Nat} {acc : List W64} {k : List W64 → State → State} {s : State}
    (h : s.Inv) (hk : ∀ x s, s.Inv → (k x s).Inv) : (withSched r i fuel va acc k s).Inv := by
  induction fuel generalizing va acc s with
  | zero => exact Inv_finish h
  | succ fuel ih =>
    refine Inv_withDesc h fun bs s h => ?_
    dsimp only
    split
    · exact hk _ _ h
    · exact ih h

@[simp] theorem Inv_collQueue {r : TRef} {i : Instr} {f : SForm} {o : BOp} {s : State} (h : s.Inv) : (collQueue r i f o s).Inv := by
  simp [collQueue, h]

@[simp] theorem Inv_withMembers {r : TRef} {i : Instr} {n mlist : Nat} {k : List Nat → State → State} {s : State} (h : s.Inv)
    (hk : ∀ x s, s.Inv → (k x s).Inv) : (withMembers r i n mlist k s).Inv := by
  simp +contextual [withMembers, h, hk]

@[simp] theorem Inv_collT {i : Instr} {f : SForm} {r : TRef} {s : State} (h : s.Inv) : (collT i f r s).Inv := by
  unfold collT
  dsimp only
  split
  · exact Inv_finish h
  split
  · exact (Inv_hold_iff ..).2 h
  refine Inv_withDesc ((Inv_splitPoint_iff ..).2 h) fun bs s h => ?_
  split
  · exact Inv_finish h
  refine Inv_withMembers h fun ms s h => ?_
  split
  · exact Inv_finish h
  split
  · exact Inv_withSched h fun _ _ h => Inv_withAccessMix h fun _ _ h => State.Inv_ite_of (Inv_finish h) (Inv_collQueue h)
  · exact Inv_withAccessMix h fun _ _ h => State.Inv_ite_of (Inv_finish h) (Inv_collQueue h)

@[simp] theorem Inv_permT {i : Instr} {f : SForm} {r : TRef} {s : State} (h : s.Inv) : (permT i f r s).Inv := by
  unfold permT
  dsimp only
  split
  · exact Inv_finish h
  split
  · exact (Inv_hold_iff ..).2 h
  refine Inv_withDesc h fun bs s h => ?_
  split
  · exact Inv_finish h
  refine Inv_withMembers h fun ms s h => Inv_withDesc h fun map s h => Inv_withAccessMix h fun ps s h => ?_
  split
  · exact Inv_finish h
  · exact Inv_collQueue h

@[simp] theorem Inv_collOpen {o : BOp} {s : State} (h : s.Inv) : (collOpen o s).Inv := by simp [collOpen, h]

@[simp] theorem Inv_engineStart {id : Nat} {s : State} (h : s.Inv) : (engineStart id s).Inv := by
  unfold engineStart
  split <;> simp [h]

@[simp] theorem Inv_permPass {id : Nat} {s : State} (h : s.Inv) : (permPass id s).Inv := by
  unfold permPass
  split
  · exact h
  dsimp only
  split
  · exact h
  split
  · exact h
  next o _ _ _ t e =>
    have h1 := (BOp.Inv_moved_iff o o.pstage (o.pq / 8 * o.pz) t).2 (BOp.Inv_settled h t e)
    split
    · exact Inv_collFinish (Inv_permute (Inv_foldl h1 fun _ _ h => Inv_foldl h fun _ _ h => Inv_landV h))
    · refine Inv_drainEarly (Inv_permSend ((State.Inv_modBop_iff ..).2 ?_))
      exact Inv_foldl h1 fun _ _ h => Inv_foldl h fun _ _ h => Inv_landV h

@[simp] theorem Inv_serveRecv_iff (port : Nat) (m : Msg) (s : State) : (serveRecv port m s).Inv ↔ s.Inv := by
  unfold serveRecv
  split <;> simp

@[simp] theorem Inv_collPort {port want : Nat} {m : Msg} {s : State} (h : s.Inv) : (collPort port want m s).Inv := by
  simp +contextual [collPort, h]

theorem resInv_execCollTimeout {op : Nat} {s : State} (h : s.Inv) : resInv (execCollTimeout op s) := by
  unfold execCollTimeout
  split <;> simp [h]

/-! ### The functions of Machine/Dma.lean -/

@[simp] theorem Inv_homeRead {o n : Nat} {s : State} (h : s.Inv) : (homeRead o n s).2.Inv := by simp [homeRead, h]

@[simp] theorem Inv_dmaEnd_iff (k : Nat) (st : Status) (s : State) : (dmaEnd k st s).Inv ↔ s.Inv := by
  simp only [dmaEnd]
  repeat' split
  all_goals simp

@[simp] theorem Inv_dmaAsk_iff (k : Nat) (m : Nat → Piece → Msg) (w : List W64) (s : State) : (dmaAsk k m w s).Inv ↔ s.Inv := by
  simp [dmaAsk]

@[simp] theorem Inv_dmaOutLocal {k : Nat} {w : List W64} {s : State} (h : s.Inv) : (dmaOutLocal k w s).Inv := by
  have h1 {o n : Nat} : ((pieces o 0 n).foldl (fun (acc : List Byte × State) p =>
      let q := homeRead p.va p.n acc.2
      (acc.1 ++ q.1, q.2)) ([], s)).2.Inv := Inv_foldl_snd h fun _ _ h => Inv_homeRead h
  unfold dmaOutLocal
  dsimp only
  split
  · exact (State.Inv_send_iff ..).2 h1
  · exact (State.Inv_modDma_iff ..).2 ((State.Inv_send_iff ..).2 h1)

@[simp] theorem Inv_dmaGo {k : Nat} {s : State} (h : s.Inv) : (dmaGo k s).Inv := by
  unfold dmaGo
  split <;> simp [h]

@[simp] theorem Inv_dmaStart {k : Nat} {w : List W64} {s : State} (h : s.Inv) : (dmaStart k w s).Inv := by simp [dmaStart, h]

@[simp] theorem Inv_dmaIn {w : List W64} {e : HostEnd} {data : List Byte} {s : State} (h : s.Inv) : (dmaIn w e data s).Inv := by
  have h1 {o : Nat} {bs : List Byte} :
      ((pieces o 0 bs.length).foldl (fun s p => homeWrite p.va 0 ((bs.drop p.off).take p.n) (commitFirst p.va p.n s)) s).Inv :=
    Inv_foldl h fun _ _ h => Inv_homeWrite (Inv_commitFirst h)
  unfold dmaIn
  dsimp only
  split
  · exact State.Inv_mark _ _ _ h1
  · exact h1

@[simp] theorem Inv_dmaHostEnd {k : Nat} {e : HostEnd} {data : List Byte} {s : State} (h : s.Inv) : (dmaHostEnd k e data s).Inv := by
  simp only [dmaHostEnd]
  repeat' split
  all_goals simp [h]

@[simp] theorem Inv_dmaRemote_iff (k off : Nat) (st : Status) (bs : List Byte) (s : State) : (dmaRemote k off st bs s).Inv ↔ s.Inv := by
  unfold dmaRemote
  split <;> simp

/-! ### The functions of Machine/Remote.lean -/

@[simp] theorem Inv_peerHost_iff (m : Msg) (n : Nat) (s : State) : (peerHost m n s).Inv ↔ s.Inv := by simp [peerHost]
@[simp] theorem Inv_homeRd {m : Msg} {s : State} (h : s.Inv) : (homeRd m s).Inv := by simp [homeRd, h]
@[simp] theorem Inv_homeWr {m : Msg} {s : State} (h : s.Inv) : (homeWr m s).Inv := by simp [homeWr, h]

@[simp] theorem Inv_homeSem {m : Msg} {s : State} (h : s.Inv) : (homeSem m s).Inv := by
  simp only [homeSem]
  repeat' split
  all_goals simp [h]

@[simp] theorem Inv_homeWatch {m : Msg} {s : State} (h : s.Inv) : (homeWatch m s).Inv := by simp [homeWatch, h]
@[simp] theorem Inv_homeZero {m : Msg} {s : State} (h : s.Inv) : (homeZero m s).Inv := by simp +contextual [homeZero, h]
@[simp] theorem Inv_homeDo {m : Msg} {s : State} (h : s.Inv) : (homeDo m s).Inv := by simp [homeDo, h]

@[simp] theorem Inv_homeGo {k : Nat} {stuck : List Nat} {s : State} (h : s.Inv) : (homeGo k stuck s).Inv := by
  induction k generalizing stuck s with
  | zero => exact h
  | succ k ih =>
    simp only [homeGo]
    split
    · exact h
    split
    · exact ih (Inv_homeDo h)
    · exact ih h

@[simp] theorem Inv_homeTake {port : Nat} {m : Msg} {s : State} (h : s.Inv) : (homeTake port m s).Inv := by simp [homeTake, h]

/-! ### The functions of Machine/Vector.lean -/

@[simp] theorem Inv_vecBeats_iff (r : TRef) (n : Nat) (s : State) : (vecBeats r n s).Inv ↔ s.Inv := by simp [vecBeats]

@[simp] theorem Inv_vecDone {r : TRef} {f : VForm} {beats : Nat} {g : Thread → Thread × Flags4} {s : State} (h : s.Inv) :
    (vecDone r f beats g s).Inv := by
  simp [vecDone, h]

theorem resInv_elementwise {i : Instr} {w : Who} {f : VForm} {srcs : List Nat} {ok : Bool} {op : Thread → Nat → Nat × Flags4} {s : State}
    (h : s.Inv) : resInv (elementwise i w f srcs ok op s) :=
  resInv_tOnly h fun _ _ h => State.Inv_ite_of (Inv_finish h) (Inv_vecDone h)

theorem resInv_vecFp2 {i : Instr} {w : Who} {f : VForm} {op : FFmt → Nat → Nat → Nat × Flags4} {s : State} (h : s.Inv) :
    resInv (vecFp2 i w f op s) :=
  resInv_elementwise h

theorem resInv_vecSign {i : Instr} {w : Who} {f : VForm} {op : Nat → Nat → Nat} {s : State} (h : s.Inv) : resInv (vecSign i w f op s) :=
  resInv_elementwise h

theorem resInv_vecCmp {i : Instr} {w : Who} {f : VForm} {p : Num → Num → Bool} {s : State} (h : s.Inv) : resInv (vecCmp i w f p s) :=
  resInv_tOnly h fun _ _ h => by
    dsimp only
    split
    · exact Inv_finish h
    · exact Inv_vecDone h

theorem resInv_vecBit {i : Instr} {w : Who} {f : VForm} {op : W32 → W32 → W32} {s : State} (h : s.Inv) : resInv (vecBit i w f op s) :=
  resInv_elementwise h

theorem resInv_vecPlain {i : Instr} {w : Who} {f : VForm} {regs : List Reg} {k : TRef → State → State} {s : State} (h : s.Inv)
    (hk : ∀ r s, s.Inv → (k r s).Inv) : resInv (vecPlain i w f regs k s) :=
  resInv_tOnly h fun r s h => State.Inv_ite_of (Inv_finish h) (hk r s h)

theorem resInv_vecMask {i : Instr} {w : Who} {f : VForm} {op : MReg → MReg → MReg} {s : State} (h : s.Inv) : resInv (vecMask i w f op s) :=
  resInv_vecPlain h fun _ _ h => Inv_vecDone h

theorem resInv_vecSfn {i : Instr} {w : Who} {f : VForm} {g : Sfn} {s : State} (h : s.Inv) : resInv (vecSfn i w f g s) :=
  resInv_vecPlain h fun _ _ h => by
    dsimp only
    split
    · exact Inv_finish h
    · exact Inv_vecDone ((Inv_cntPmc_iff ..).2 h)

@[simp] theorem Inv_cvtRun {r : TRef} {f : VForm} {src dst : Side} {s : State} (h : s.Inv) : (cvtRun r f src dst s).Inv := by
  simp [cvtRun, h]

theorem resInv_execVcvt {w : Who} {f : VForm} {s : State} (h : s.Inv) : resInv (execVcvt w f s) := by
  refine resInv_vecPlain h fun _ _ h => ?_
  split
  · exact Inv_finish h
  · exact Inv_cvtRun h

/-! ### The functions of Machine/Resume.lean -/

theorem resInv_reissueRes {i : Instr} {s : State} (h : s.Inv) : resInv (reissueRes i s) := by
  cases i <;> dsimp only [reissueRes]
  case nop => exact resInv_both h (fun _ _ h => Inv_finish h) fun _ _ _ h => (Inv_finishC_iff ..).2 h
  case endT => exact resInv_tOnly h fun _ _ h => Inv_tryEnd h
  case add | sub | and | or | xor | sll | srl | sra | slt | sltu | min | max | mul | mulhu => exact resInv_scalarOp h
  case beq | bne | blt | bge | bltu | bgeu => exact resInv_branchOp h
  case j | jr => exact resInv_jumpOp h
  case csrr => exact resInv_execCsrr h
  case csrw => exact resInv_execCsrw h
  case ldxB | ldxH | ldxW | ldxL => exact resInv_tOnly h fun _ _ h => Inv_ldxScalarT h
  case ldxD => exact resInv_tOnly h fun _ _ h => Inv_loadT h
  case stxB | stxH | stxW | stxL => exact resInv_tOnly h fun _ _ h => Inv_stxScalarT h
  case stxD => exact resInv_tOnly h fun _ _ h => Inv_storeT h
  case ldxS => exact resInv_tOnly h fun _ _ h => Inv_ldxST h
  case stxS => exact resInv_tOnly h fun _ _ h => Inv_stxST h
  case ldxV | ldxVI => exact resInv_tOnly h fun _ _ h => Inv_loadLanesT h
  case stxV | stxVI => exact resInv_tOnly h fun _ _ h => Inv_storeLanesT h
  case semAdd | semSwap | semCas | semRead => exact resInv_tOnly h fun _ _ h => Inv_semT h
  case waitTok | waitTokall | waitTime => exact resInv_tOnly h fun _ _ h => Inv_waitBegin h
  case waitMem => exact resInv_tOnly h fun _ _ h => Inv_waitMemT h
  case bar => exact resInv_tOnly h fun _ _ h => Inv_barT h
  case dset => exact resInv_execDset h
  case cue => exact resInv_tOnly h fun _ _ h => Inv_cueT h
  case endcue => exact resInv_tOnly h fun _ _ h => Inv_endcueT h
  case phase =>
    exact resInv_tOnly h fun _ _ h => State.Inv_ite_of (Inv_finish h) (Inv_finish ((Inv_trace_iff ..).2 ((State.Inv_modReel_iff ..).2 h)))
  case clap => exact resInv_tOnly h fun _ _ h => Inv_finish ((Inv_freezeAt_iff ..).2 ((Inv_clapFlood_iff ..).2 h))
  case upd => exact resInv_tOnly h fun _ _ h => Inv_notStandby h fun _ h => Inv_updT h
  case rdw => exact resInv_tOnly h fun _ _ h => Inv_notStandby h fun _ h => Inv_rdwT h
  case coll => exact resInv_tOnly h fun _ _ h => Inv_notStandby h fun _ h => Inv_collT h
  case perm => exact resInv_tOnly h fun _ _ h => Inv_notStandby h fun _ h => Inv_permT h
  case scrub => exact resInv_tOnly h fun _ _ h => Inv_notStandby h fun _ h => Inv_scrubT h
  case toll => exact resInv_tOnly h fun _ _ h => Inv_notStandby h fun _ h => Inv_tollT h
  case mmaOpen => exact resInv_tOnly h fun _ _ h => Inv_mmaOpenT h
  case mmaCont => exact resInv_tOnly h fun _ _ h => Inv_mmaContT h
  case rsc => exact resInv_tOnly h fun _ _ h => Inv_rscT h
  case cpyl => exact resInv_tOnly h fun _ _ h => Inv_cpylT h
  case vadd | vsub | vmul | vmax | vmin => exact resInv_vecFp2 h
  case vfma | vmov | vsel => exact resInv_elementwise h
  case vabs | vneg => exact resInv_vecSign h
  case vcmpEq | vcmpNe | vcmpLt | vcmpLe | vcmpGt | vcmpGe | vcmpUn => exact resInv_vecCmp h
  case vand | vor | vxor | vshl | vshr | viadd => exact resInv_vecBit h
  case vmand | vmor | vmxor => exact resInv_vecMask h
  case vmnot | vmpop | vins | vext | vidx => exact resInv_vecPlain h fun _ _ h => Inv_vecDone h
  case vshf => exact resInv_vecPlain h fun _ _ h => State.Inv_ite_of (Inv_finish h) (Inv_vecDone h)
  case vcvt => exact resInv_execVcvt h
  case vsfnExp2 | vsfnLog2 | vsfnRsqrt | vsfnRcp | vsfnTanh | vsfnErf => exact resInv_vecSfn h
  all_goals exact h

theorem Res.Inv_state {d : State} {r : Res} (hd : d.Inv) (hr : resInv r) : (Res.state d r).Inv := by
  cases r with
  | next s => exact hr
  | fault _ => exact hd
  | refused _ => exact hd

@[simp] theorem Inv_reissue {i : Instr} {s : State} (h : s.Inv) : (reissue i s).Inv := Res.Inv_state h (resInv_reissueRes h)

@[simp] theorem Inv_wakeThread {r : TRef} {s : State} (h : s.Inv) : (wakeThread r s).Inv := by
  simp only [wakeThread]
  repeat' split
  all_goals simp [h]

@[simp] theorem Inv_wake {s : State} (h : s.Inv) : (wake s).Inv :=
  Inv_homeGo (Inv_foldl (Inv_foldl h fun _ _ h => Inv_cpylGo h) fun _ _ h => Inv_wakeThread h)

/-! ### The functions of Machine/Security.lean -/

@[simp] theorem Inv_lcEnd_iff (st : Status) (s : State) : (lcEnd st s).Inv ↔ s.Inv := Iff.rfl

@[simp] theorem Inv_lcRequest_iff (op : Nat) (secret : BitVec 256) (s : State) : (lcRequest op secret s).Inv ↔ s.Inv := by
  simp only [lcRequest]
  repeat' split
  all_goals simp

@[simp] theorem Inv_lcCertify_iff (s : State) : (lcCertify s).Inv ↔ s.Inv := by simp [lcCertify]
@[simp] theorem Inv_coresStart_iff (img : List Byte) (p : Nat) (s : State) : (coresStart img p s).Inv ↔ s.Inv := by simp [coresStart]
@[simp] theorem Inv_runStack_iff (img : List Byte) (s : State) : (runStack img s).Inv ↔ s.Inv := by simp [runStack]
@[simp] theorem Inv_runIsland_iff (img : List Byte) (s : State) : (runIsland img s).Inv ↔ s.Inv := Iff.rfl
@[simp] theorem Inv_svnCommit_iff (s : State) : (svnCommit s).Inv ↔ s.Inv := by simp [svnCommit]
@[simp] theorem Inv_imgStart_iff (s : State) : (imgStart s).Inv ↔ s.Inv := Iff.rfl
@[simp] theorem Inv_imgGo_iff (s : State) : (imgGo s).Inv ↔ s.Inv := by simp [imgGo]
theorem resInv_execImageVerifyComplete {s : State} (h : s.Inv) : resInv (execImageVerifyComplete s) := by simp [execImageVerifyComplete, h]
@[simp] theorem Inv_debugChal_iff (nonce : BitVec 256) (s : State) : (debugChal nonce s).Inv ↔ s.Inv := by simp [debugChal]
@[simp] theorem Inv_debugOpen_iff (req : BitVec 3) (s : State) : (debugOpen req s).Inv ↔ s.Inv := Iff.rfl
@[simp] theorem Inv_dropSessions_iff (s : State) : (dropSessions s).Inv ↔ s.Inv := Iff.rfl
theorem resInv_execDebugOpenCheck {s : State} (h : s.Inv) : resInv (execDebugOpenCheck s) := by simp [execDebugOpenCheck, h]
@[simp] theorem Inv_sessionEnd_iff (s : State) : (sessionEnd s).Inv ↔ s.Inv := Iff.rfl
@[simp] theorem Inv_selectThread_iff (tile th : Nat) (s : State) : (selectThread tile th s).Inv ↔ s.Inv := Iff.rfl
@[simp] theorem Inv_debugHalt_iff (tile th : Nat) (s : State) : (debugHalt tile th s).Inv ↔ s.Inv := by simp [debugHalt]
@[simp] theorem Inv_dbgResume_iff (tile th : Nat) (s : State) : (dbgResume tile th s).Inv ↔ s.Inv := by simp [dbgResume]
theorem resInv_execRetentionEnter {s : State} (h : s.Inv) : resInv (execRetentionEnter s) := by simp [execRetentionEnter, h]
@[simp] theorem Inv_wakeD0_iff (s : State) : (wakeD0 s).Inv ↔ s.Inv := by simp [wakeD0]

/-! ### The functions of Machine/Debug.lean -/

@[simp] theorem Inv_fetchNext {r : TRef} {s : State} (h : s.Inv) : (fetchNext r s).Inv := by simp [fetchNext, h]

@[simp] theorem Inv_stepThread {r : TRef} {s : State} (h : s.Inv) : (stepThread r s).Inv := by
  unfold stepThread
  have h1 := Inv_fetchNext (r := r) h
  dsimp only
  split
  · exact h1
  next i x _ =>
    have h2 := State.Inv_modThread _ r (fun t => { t with dbgHalt := false }) h1
    cases i with
    | none =>
      have h3 := Inv_illegalT (r := r) (x := x) h2
      dsimp only
      split
      · exact State.Inv_modThread _ _ _ h3
      · exact h3
    | some i =>
      have h3 := Inv_reissue (i := i) h2
      dsimp only
      split
      · exact State.Inv_modThread _ _ _ h3
      · exact h3

@[simp] theorem Inv_debugStep {tile th : Nat} {s : State} (h : s.Inv) : (debugStep tile th s).Inv := by simp [debugStep, h]
@[simp] theorem Inv_windowPut_iff (r : TRef) (off : Nat) (v : W64) (s : State) : (windowPut r off v s).Inv ↔ s.Inv := by simp [windowPut]
@[simp] theorem Inv_threadWrite_iff (off : Nat) (v : W64) (s : State) : (threadWrite off v s).Inv ↔ s.Inv := by simp [threadWrite]

/-! ### The functions of Machine/Events.lean -/

@[simp] theorem Inv_debugClose {s : State} (h : s.Inv) : (debugClose s).Inv := by simp [debugClose, h]

theorem resInv_execDebugSessionExpire {s : State} (h : s.Inv) : resInv (execDebugSessionExpire s) := by
  unfold execDebugSessionExpire
  split
  · exact Inv_wake ((Inv_sessionEnd_iff ..).2 h)
  · exact h

/-! ### The functions of Machine/Trans.lean -/

@[simp] theorem State.Inv_modXl_iff (s : State) (f : Xlate → Xlate) : (State.modXl s f).Inv ↔ s.Inv := Iff.rfl
@[simp] theorem Inv_pageGo {page : Nat} {s : State} (h : s.Inv) : (pageGo page s).Inv := Inv_wake (Inv_foldl h fun _ _ h => Inv_fetchT h)
@[simp] theorem Inv_pageFail {page : Nat} {st : Status} {s : State} (h : s.Inv) : (pageFail page st s).Inv := by simp [pageFail, h]

@[simp] theorem Inv_walkDone {va : Nat} {s : State} (h : s.Inv) : (walkDone va s).Inv := by
  unfold walkDone
  repeat' split
  all_goals simp [h]

theorem resInv_execAmissTimeout {va : Nat} {s : State} (h : s.Inv) : resInv (execAmissTimeout va s) := by simp [execAmissTimeout, h]

@[simp] theorem Inv_xopGo {op : Nat} {k : State → State} {s : State} (h : s.Inv) (hk : ∀ s, s.Inv → (k s).Inv) : (xopGo op k s).Inv := by
  simp [xopGo, h, hk]

@[simp] theorem Inv_xopEnd_iff (st : Status) (s : State) : (xopEnd st s).Inv ↔ s.Inv := Iff.rfl
@[simp] theorem Inv_dropEntries_iff (lo hi : Nat) (s : State) : (dropEntries lo hi s).Inv ↔ s.Inv := Iff.rfl
@[simp] theorem Inv_invStart_iff (lo hi : Nat) (s : State) : (invStart lo hi s).Inv ↔ s.Inv := Iff.rfl
@[simp] theorem Inv_invRange_iff (s : State) : (invRange s).Inv ↔ s.Inv := by simp [invRange]
@[simp] theorem Inv_xopLoad {size : Nat} {s : State} (h : s.Inv) : (xopLoad size s).Inv := by simp +contextual [xopLoad, h]
@[simp] theorem Inv_xopNack {s : State} (h : s.Inv) : (xopNack s).Inv := by simp [xopNack, h]

theorem resInv_execXopInvalidateComplete {s : State} (h : s.Inv) : resInv (execXopInvalidateComplete s) := by
  simp [execXopInvalidateComplete, h]

theorem resInv_execTranslationDisplacement {cache : Option Nat} {va : Nat} {s : State} (h : s.Inv) :
    resInv (execTranslationDisplacement cache va s) := by
  unfold execTranslationDisplacement
  split <;> simp [h]

@[simp] theorem Inv_splitWrite_iff (fn : Nat) (v : W64) (s : State) : (splitWrite fn v s).Inv ↔ s.Inv := by simp [splitWrite]
@[simp] theorem Inv_flushDone_iff (s : State) : (flushDone s).Inv ↔ s.Inv := by simp [flushDone]
@[simp] theorem State.Inv_modCache_iff (s : State) (f : Cache → Cache) : (State.modCache s f).Inv ↔ s.Inv := Iff.rfl
@[simp] theorem Inv_copEnd_iff (st : Status) (s : State) : (copEnd st s).Inv ↔ s.Inv := by simp [copEnd]

@[simp] theorem Inv_pinLine_iff (fetch : Bool) (l : Nat) (s : State) : (pinLine fetch l s).Inv ↔ s.Inv := by
  have h1 : (if (s.line l).isSome then s else (s.allocLine l 1).getD s).Inv ↔ s.Inv := by
    cases e : s.allocLine l 1 with
    | none => simp
    | some t => simp [State.Inv_of_allocLine e]
  have h2 := (State.Inv_modLine_iff _ l (fun x => { x with pinned := true })).trans h1
  refine State.Inv_ite_iff_of h2 ((Inv_foldl_iff _ _ _ fun s k => ?_).trans h2)
  exact State.Inv_ite_iff_of Iff.rfl (Inv_startFill_iff ..)

@[simp] theorem Inv_copLine_iff (op l : Nat) (s : State) : (copLine op l s).Inv ↔ s.Inv := by
  unfold copLine
  repeat' split
  all_goals simp

@[simp] theorem Inv_copGo_iff (op nlines : Nat) (evt : Bool) (s : State) : (copGo op nlines evt s).Inv ↔ s.Inv := by
  simp only [copGo]
  repeat' split
  all_goals simp

@[simp] theorem Inv_copDone {s : State} (h : s.Inv) : (copDone s).Inv := by
  simp only [copDone]
  repeat' split
  all_goals simp [h]

@[simp] theorem Inv_fillServe {w : Nat × Nat × Nat} {st : Status} {data : List Byte} {s : State} (h : s.Inv) :
    (fillServe w st data s).Inv := by
  unfold fillServe
  split <;> simp [h]

@[simp] theorem Inv_descFail_iff (l sec : Nat) (st : Status) (s : State) : (descFail l sec st s).Inv ↔ s.Inv :=
  Inv_foldl_iff _ _ _ fun s _ => Inv_foldl_iff _ _ s fun s t => by
    dsimp only
    split
    · rfl
    · refine Inv_foldl_iff _ _ s fun s va => ?_
      split
      · split <;> simp
      · rfl

@[simp] theorem Inv_fillFail {l sec : Nat} {st : Status} {s : State} (h : s.Inv) : (fillFail l sec st s).Inv := by
  unfold fillFail
  dsimp only
  split
  · exact h
  refine State.Inv_ite_of ((Inv_copEnd_iff ..).2 ?h) ?h
  refine Inv_foldl ((Inv_descFail_iff ..).2 (Inv_foldl ?_ fun _ _ h => Inv_fillServe h)) fun _ _ h => Inv_fetchFault h
  exact (State.Inv_modCache_iff ..).2 h

@[simp] theorem Inv_fillSettle_iff (l : Nat) (got : BitVec 16) (s : State) : (fillSettle l got s).Inv ↔ s.Inv := by simp [fillSettle]

@[simp] theorem Inv_fillReturn {l : Nat} {sectors : BitVec 16} {data : List Byte} {s : State} (h : s.Inv) :
    (fillReturn l sectors data s).Inv := by
  unfold fillReturn
  split
  · exact h
  dsimp only
  refine Inv_foldl ?_ fun _ _ h => Inv_fetchT h
  refine State.Inv_ite_of ?h3 (Inv_foldl ?h3 fun s k h => State.Inv_ite_of (Inv_foldl h fun _ _ h => Inv_fillServe h) h)
  refine State.Inv_ite_of ((Inv_cntBase_iff ..).2 ?h2) ?h2
  refine (State.Inv_modCache_iff ..).2 ((State.Inv_modLine_iff ..).2 ?_)
  exact State.Inv_ite_of h ((Inv_fillSettle_iff ..).2 h)

@[simp] theorem Inv_reduction {l : Nat} {what : Reduction} {s : State} (h : s.Inv) : (reduction l what s).Inv := by
  unfold reduction
  dsimp only
  split
  · exact h
  cases what with
  | release => exact State.Inv_ite_of ((Inv_releaseLine_iff ..).2 h) h
  | sem tile op =>
    dsimp only
    split
    · exact h
    split
    · exact h
    split
    next t e => exact Inv_semPerform (Inv_holdLine h t e)
    · exact (Inv_holdStall_iff ..).2 h
  | rdw op =>
    dsimp only
    split
    · exact h
    split
    · exact h
    split
    · exact (Inv_holdStall_iff ..).2 h
    next t e =>
      have ht := Inv_holdLine h t e
      exact State.Inv_ite_of (Inv_rdwAdd ht) ht

@[simp] theorem Inv_stallEnd {l : Nat} {s : State} (h : s.Inv) : (stallEnd l s).Inv := by
  unfold stallEnd
  split
  · exact h
  dsimp only
  split
  · exact h
  next t e =>
    have ht : t.Inv := (State.Inv_of_allocLine e).2 (by split <;> simp [h])
    refine Inv_foldl ((State.Inv_modCache_iff ..).2 ht) fun s k h => State.Inv_ite_of h ?_
    exact State.Inv_ite_of (Inv_fillFail h) ((Inv_requestSector_iff ..).2 h)

@[simp] theorem Inv_quartersWrite_iff (v : W64) (s : State) : (quartersWrite v s).Inv ↔ s.Inv := Iff.rfl
@[simp] theorem Inv_rollEmpty {s : State} (h : s.Inv) : (rollEmpty s).Inv := by simp +contextual [rollEmpty, h]

@[simp] theorem Inv_quartersTurn {new : BitVec 20} {s : State} (h : s.Inv) : (quartersTurn new s).Inv := by
  simp +contextual [quartersTurn, h, State.Inv_undefine]

theorem resInv_execQcfgSwitch {s : State} (h : s.Inv) : resInv (execQcfgSwitch s) := by
  unfold execQcfgSwitch
  split
  · exact h
  refine State.Inv_ite_of h (Inv_wake ((State.Inv_with_iff ..).2 ((State.Inv_modRoll_iff ..).2 (Inv_quartersTurn ?_))))
  refine (State.Inv_modCache_iff ..).2 ?_
  refine Inv_foldl (State.Inv_ite_of ((Inv_copEnd_iff ..).2 ?h) ?h) fun _ _ h => (State.Inv_evict_iff ..).2 h
  exact Inv_rollEmpty h

theorem resInv_execBankRefresh {layer col bank : Nat} {s : State} (h : s.Inv) : resInv (execBankRefresh layer col bank s) := by
  simp [execBankRefresh, h]

/-! ### The functions of Machine/Links.lean -/

@[simp] theorem Inv_coreDone_iff (p c rd n len : Nat) (st : Status) (bs : List Byte) (s : State) :
    (coreDone p c rd n len st bs s).Inv ↔ s.Inv := by
  simp [coreDone]

@[simp] theorem Inv_ownerDone {o : RemOwner} {st : Status} {bs : List Byte} {s : State} (h : s.Inv) : (ownerDone o st bs s).Inv := by
  unfold ownerDone
  split <;> simp [h]

@[simp] theorem Inv_reqEnd {q : RemReq} {st : Status} {bs : List Byte} {s : State} (h : s.Inv) : (reqEnd q st bs s).Inv := by
  simp [reqEnd, h]

@[simp] theorem Inv_reqDone {q : RemReq} {st : Status} {bs : List Byte} {s : State} (h : s.Inv) : (reqDone q st bs s).Inv := by
  simp [reqDone, h]

@[simp] theorem Inv_opLost_iff (members : List Nat) (hit : Nat → Bool) (s : State) : (opLost members hit s).Inv ↔ s.Inv := by
  unfold opLost
  split <;> simp

@[simp] theorem Inv_collLost {hit : Nat → Bool} {s : State} (h : s.Inv) : (collLost hit s).Inv := by simp +contextual [collLost, h]
@[simp] theorem Inv_tollLost {hit : Nat → Bool} {s : State} (h : s.Inv) : (tollLost hit s).Inv := by simp +contextual [tollLost, h]
@[simp] theorem Inv_mirrorLost_iff (hit : Nat → Bool) (s : State) : (mirrorLost hit s).Inv ↔ s.Inv := by simp [mirrorLost]

@[simp] theorem Inv_takeBegin_iff (k : Nat) (s : State) : (takeBegin k s).Inv ↔ s.Inv := by
  unfold takeBegin
  repeat' split
  all_goals simp

@[simp] theorem Inv_watchLost {dev : Nat} {s : State} (h : s.Inv) : (watchLost dev s).Inv := by simp +contextual [watchLost, h]

@[simp] theorem Inv_declareLost {dev : Nat} {s : State} (h : s.Inv) : (declareLost dev s).Inv := by
  unfold declareLost
  split
  · exact h
  have h0 := (Inv_splitPoint_iff 4 s).2 h
  refine Inv_foldl ((Inv_affectCues_iff ..).2 ((Inv_mirrorLost_iff ..).2 (Inv_tollLost (Inv_collLost ?_)))) fun _ _ h => (Inv_takeBegin_iff ..).2 h
  refine State.Inv_ite_of (Inv_watchLost ?h1) ?h1
  exact State.Inv_ite_of ((State.Inv_with_iff ..).2 h0) h0

theorem resInv_execLost {dev : Nat} {s : State} (h : s.Inv) : resInv (execLost dev s) := by simp [execLost, h]
@[simp] theorem Inv_tellPort_iff (n : Nat) (s : State) : (tellPort n s).Inv ↔ s.Inv := by simp [tellPort]
@[simp] theorem Inv_setParent_iff (s : State) : (setParent s).Inv ↔ s.Inv := by simp [setParent]
@[simp] theorem Inv_recompute {s : State} (h : s.Inv) : (recompute s).Inv := by simp +contextual [recompute, h]

theorem resInv_execRoute {port dst hops : Nat} {dn : Bool} {s : State} (h : s.Inv) : resInv (execRoute port dst hops dn s) := by
  simp [execRoute, h]

theorem resInv_execWithdraw {port dst : Nat} {s : State} (h : s.Inv) : resInv (execWithdraw port dst s) := by simp [execWithdraw, h]
@[simp] theorem Inv_portUp_iff (n half : Nat) (s : State) : (portUp n half s).Inv ↔ s.Inv := by simp [portUp]
theorem resInv_execHelloRepeat {port : Nat} {s : State} (h : s.Inv) : resInv (execHelloRepeat port s) := by simp [execHelloRepeat, h]

theorem resInv_execHello {port dev farPort bpos pair : Nat} {build : Build} {legacy : Bool} {tag : W64} {s : State} (h : s.Inv) :
    resInv (execHello port dev farPort bpos pair build legacy tag s) := by
  simp [execHello, h]

@[simp] theorem Inv_portGone {n : Nat} {s : State} (h : s.Inv) : (portGone n s).Inv := by
  unfold portGone
  refine (Inv_event_iff ..).2 ((Inv_affectCues_iff ..).2 ((Inv_mirrorLost_iff ..).2 (Inv_tollLost (Inv_collLost (Inv_recompute ?_)))))
  refine (State.Inv_with_iff ..).2 ((State.Inv_modPort_iff ..).2 ?_)
  exact Inv_foldl ((Inv_splitPoint_iff ..).2 h) fun _ _ h => Inv_reqEnd h

theorem resInv_execPortLost {port : Nat} {s : State} (h : s.Inv) : resInv (execPortLost port s) := by simp [execPortLost, h]
@[simp] theorem Inv_retrain_iff (n : Nat) (s : State) : (retrain n s).Inv ↔ s.Inv := Iff.rfl
@[simp] theorem Inv_replayAll_iff (n : Nat) (s : State) : (replayAll n s).Inv ↔ s.Inv := by simp [replayAll]

theorem resInv_execPortRetrainComplete {port : Nat} {s : State} (h : s.Inv) : resInv (execPortRetrainComplete port s) := by
  simp [execPortRetrainComplete, h]

@[simp] theorem Inv_laneRepair {n lane cws : Nat} {s : State} (h : s.Inv) : (laneRepair n lane cws s).Inv := by simp [laneRepair, h]
@[simp] theorem Inv_laneFail {n lane cws : Nat} {s : State} (h : s.Inv) : (laneFail n lane cws s).Inv := by simp [laneFail, h]
theorem resInv_execHlogPersist {s : State} (h : s.Inv) : resInv (execHlogPersist s) := by simp +contextual [execHlogPersist, h]
@[simp] theorem Inv_claimLost_iff (port id : Nat) (s : State) : (claimLost port id s).Inv ↔ s.Inv := by simp [claimLost]
@[simp] theorem Inv_idCfgWrite_iff (v : W64) (s : State) : (idCfgWrite v s).Inv ↔ s.Inv := by simp [idCfgWrite]
theorem resInv_execClaimed {s : State} (h : s.Inv) : resInv (execClaimed s) := by simp [execClaimed, h]

theorem resInv_execClaim {port id hops : Nat} {tag : W64} {s : State} (h : s.Inv) : resInv (execClaim port id hops tag s) := by
  simp [execClaim, h]

theorem resInv_homeReq {port want : Nat} {m : Msg} {s : State} (h : s.Inv) : resInv (homeReq port want m s) :=
  State.Inv_ite_of h (Inv_onMsg h fun _ h => Inv_wake (Inv_homeTake h))

@[simp] theorem Inv_recvCue_iff (port : Nat) (q : RemReq) (n : Nat) (s : State) : (recvCue port q n s).Inv ↔ s.Inv := by
  unfold recvCue
  repeat' split
  all_goals simp

@[simp] theorem Inv_onData {port : Nat} {m : Msg} {s : State} (h : s.Inv) : (onData port m s).Inv := by
  unfold onData
  split <;> simp [h]

@[simp] theorem Inv_onAck {port : Nat} {m : Msg} {s : State} (h : s.Inv) : (onAck port m s).Inv := by
  unfold onAck
  split <;> simp [h]

@[simp] theorem Inv_onNotify_iff (port : Nat) (m : Msg) (s : State) : (onNotify port m s).Inv ↔ s.Inv := by
  unfold onNotify
  repeat' split
  all_goals simp

theorem resInv_homeMsg {port want : Nat} {k : Msg → State → State} {m : Msg} {s : State} (h : s.Inv) (hk : ∀ m s, s.Inv → (k m s).Inv) :
    resInv (homeMsg port want k m s) :=
  State.Inv_ite_of h (Inv_onMsg h fun s h => Inv_wake (hk m s h))

theorem resInv_execRemoteRequestTimeout {tag : Nat} {s : State} (h : s.Inv) : resInv (execRemoteRequestTimeout tag s) := by
  unfold execRemoteRequestTimeout
  split <;> simp [h]

@[simp] theorem Inv_clapIn_iff (port hops : Nat) (tick : W64) (s : State) : (clapIn port hops tick s).Inv ↔ s.Inv := by simp [clapIn]

/-! ### The functions of Machine/Pairs.lean -/

@[simp] theorem Inv_pairEvent_iff (st : Status) (reel : Nat) (s : State) : (pairEvent st reel s).Inv ↔ s.Inv := by simp [pairEvent]
@[simp] theorem Inv_mirrorRefused_iff (reel : Nat) (s : State) : (mirrorRefused reel s).Inv ↔ s.Inv := by simp [mirrorRefused]

@[simp] theorem Inv_mirrorOpen_iff (reel : Nat) (s : State) : (mirrorOpen reel s).Inv ↔ s.Inv := by
  simp only [mirrorOpen]
  repeat' split
  all_goals simp

@[simp] theorem Inv_mirrorDown_iff (reel : Nat) (s : State) : (mirrorDown reel s).Inv ↔ s.Inv := by simp [mirrorDown]
@[simp] theorem Inv_mirrorClose_iff (reel : Nat) (s : State) : (mirrorClose reel s).Inv ↔ s.Inv := by simp [mirrorClose]
@[simp] theorem Inv_mirWrite_iff (reel : Nat) (v : W64) (s : State) : (mirWrite reel v s).Inv ↔ s.Inv := by simp [mirWrite]
theorem resInv_execMctlAccept {reel : Nat} {s : State} (h : s.Inv) : resInv (execMctlAccept reel s) := by simp [execMctlAccept, h]
theorem resInv_execMctlRefused {reel : Nat} {s : State} (h : s.Inv) : resInv (execMctlRefused reel s) := by simp [execMctlRefused, h]
theorem resInv_execMctlSack {reel tag : Nat} {s : State} (h : s.Inv) : resInv (execMctlSack reel tag s) := by simp [execMctlSack, h]
theorem resInv_execMctlCack {reel tag : Nat} {s : State} (h : s.Inv) : resInv (execMctlCack reel tag s) := by simp [execMctlCack, h]
@[simp] theorem State.Inv_modPmir_iff (s : State) (k : Nat) (f : PMirror → PMirror) : (State.modPmir s k f).Inv ↔ s.Inv := Iff.rfl

@[simp] theorem Inv_pmirWrite_iff (k : Nat) (v : W64) (s : State) : (pmirWrite k v s).Inv ↔ s.Inv := by
  simp only [pmirWrite]
  repeat' split
  all_goals simp

@[simp] theorem Inv_pmirOpen_iff (primary reel tgrp size : Nat) (legacy : Bool) (pair : Nat) (s : State) :
    (pmirOpen primary reel tgrp size legacy pair s).Inv ↔ s.Inv := by
  unfold pmirOpen
  split <;> simp

theorem resInv_execMctlOpen {primary reel tgrp size : Nat} {legacy : Bool} {pair : Nat} {s : State} (h : s.Inv) :
    resInv (execMctlOpen primary reel tgrp size legacy pair s) := by
  simp [execMctlOpen, h]

@[simp] theorem Inv_applyRec {base : Nat} {m : MRec} {s : State} (h : s.Inv) : (applyRec base m s).Inv := by simp [applyRec, h]

@[simp] theorem Inv_applyFrame {k t : Nat} {s : State} (h : s.Inv) : (applyFrame k t s).Inv := by
  exact (State.Inv_modPmir_iff ..).2 (Inv_foldl h fun _ _ h => Inv_applyRec h)

@[simp] theorem Inv_frameCheck {k : Nat} {s : State} (h : s.Inv) : (frameCheck k s).Inv := by
  simp only [frameCheck]
  repeat' split
  all_goals simp [h]

theorem resInv_onSlot {primary reel : Nat} {f : Nat → State → State} {s : State} (h : s.Inv) (hf : ∀ k s, s.Inv → (f k s).Inv) :
    resInv (onSlot primary reel f s) := by
  unfold onSlot
  split
  · exact State.Inv_ite_of h (hf _ _ h)
  · exact h

theorem resInv_execMctlClose {who : Closer} {reel : Nat} {s : State} (h : s.Inv) : resInv (execMctlClose who reel s) := by
  cases who with
  | partner dev => exact State.Inv_ite_of ((Inv_mirrorDown_iff ..).2 h) h
  | primary dev => exact resInv_onSlot h fun _ _ h => (State.Inv_modPmir_iff ..).2 h

theorem resInv_execMctlStopping {primary : Nat} {s : State} (h : s.Inv) : resInv (execMctlStopping primary s) := by
  simp [execMctlStopping, h]

@[simp] theorem Inv_takeover {k : Nat} {late : Bool} {s : State} (h : s.Inv) : (takeover k late s).Inv := by
  simp only [takeover]
  repeat' split
  all_goals simp [h]

theorem resInv_execMirrorClearComplete {k : Nat} {s : State} (h : s.Inv) : resInv (execMirrorClearComplete k s) := by
  simp [execMirrorClearComplete, State.Inv_zero, h]

@[simp] theorem Inv_expEnd_iff (st : Status) (s : State) : (expEnd st s).Inv ↔ s.Inv := Iff.rfl

@[simp] theorem Inv_exportRead_iff (s : State) : (exportRead s).Inv ↔ s.Inv := by
  unfold exportRead
  repeat' split
  all_goals simp

@[simp] theorem Inv_exportGo_iff (s : State) : (exportGo s).Inv ↔ s.Inv := by simp [exportGo]
theorem resInv_execExportStart {s : State} (h : s.Inv) : resInv (execExportStart s) := by simp [execExportStart, h]

theorem resInv_execExportComplete {e : HostEnd} {s : State} (h : s.Inv) : resInv (execExportComplete e s) := by
  unfold execExportComplete
  repeat' split
  all_goals simp [h]

theorem resInv_execXlateFlushComplete {s : State} (h : s.Inv) : resInv (execXlateFlushComplete s) := by simp [execXlateFlushComplete, h]
@[simp] theorem State.Inv_modRep_iff (s : State) (f : Repair → Repair) : (State.modRep s f).Inv ↔ s.Inv := Iff.rfl
@[simp] theorem Inv_fwEnd_iff (st : Status) (s : State) : (fwEnd st s).Inv ↔ s.Inv := Iff.rfl
@[simp] theorem Inv_fwWrite_iff (v : W64) (s : State) : (fwWrite v s).Inv ↔ s.Inv := by simp [fwWrite]
theorem resInv_execFwSwitchPoint {s : State} (h : s.Inv) : resInv (execFwSwitchPoint s) := by simp [execFwSwitchPoint, h]
theorem resInv_execFwSwitchTimeout {s : State} (h : s.Inv) : resInv (execFwSwitchTimeout s) := by simp [execFwSwitchTimeout, h]

theorem resInv_execFwSelfCheckComplete {failed : Option Nat} {s : State} (h : s.Inv) : resInv (execFwSelfCheckComplete failed s) := by
  unfold execFwSelfCheckComplete
  repeat' split
  all_goals simp [h]

/-! ### The functions of Machine/Reels.lean -/

@[simp] theorem State.Inv_setRing_iff (s : State) (i : RingId) (r : Ring) : (State.setRing s i r).Inv ↔ s.Inv := by
  unfold State.setRing
  split <;> simp

@[simp] theorem Inv_ringInvalid_iff (i : RingId) (s : State) : (ringInvalid i s).Inv ↔ s.Inv := by
  unfold ringInvalid
  split <;> simp

@[simp] theorem Inv_ringEnable_iff (i : RingId) (v : W64) (s : State) : (ringEnable i v s).Inv ↔ s.Inv := by simp [ringEnable]

@[simp] theorem Inv_ringSignal_iff (i : RingId) (v : W64) (s : State) : (ringSignal i v s).Inv ↔ s.Inv := by
  unfold ringSignal
  split <;> simp

@[simp] theorem Inv_doorbell {i : RingId} {v : W64} {set : Ring → Nat → Ring} {k : State → State} {s : State} (h : s.Inv)
    (hk : ∀ s, s.Inv → (k s).Inv) : (doorbell i v set k s).Inv := by
  simp [doorbell, h, hk]

@[simp] theorem Inv_hostRecords_iff (reel tag : Nat) (s : State) : (hostRecords reel tag s).Inv ↔ s.Inv := by simp [hostRecords]

@[simp] theorem Inv_mlistGo_iff (s : State) : (mlistGo s).Inv ↔ s.Inv := by
  simp only [mlistGo]
  repeat' split
  all_goals simp

@[simp] theorem Inv_msixDelay_iff (i : RingId) (s : State) : (msixDelay i s).Inv ↔ s.Inv := by simp [msixDelay]

@[simp] theorem Inv_reelCtlWrite_iff (n : Nat) (v : W64) (s : State) : (reelCtlWrite n v s).Inv ↔ s.Inv := by
  unfold reelCtlWrite
  repeat' split
  all_goals simp

@[simp] theorem Inv_reelRelease_iff (n : Nat) (s : State) : (reelRelease n s).Inv ↔ s.Inv := by simp [reelRelease]
@[simp] theorem Inv_seedWrite_iff (n : Nat) (v : W64) (s : State) : (seedWrite n v s).Inv ↔ s.Inv := by simp [seedWrite]

@[simp] theorem Inv_startOn_iff (pc : W64) (reel slot s3 : Nat) (helper : Bool) (tile : Nat) (ths : List Nat) (args : List W64)
    (s : State) : (startOn pc reel slot s3 helper tile ths args s).Inv ↔ s.Inv := by
  simp [startOn]

@[simp] theorem Inv_helperStart_iff (reel : Nat) (picks : List Nat) (s : State) : (helperStart reel picks s).Inv ↔ s.Inv := by
  unfold helperStart
  split <;> simp

@[simp] theorem Inv_helperRefused {reel : Nat} {s : State} (h : s.Inv) : (helperRefused reel s).Inv := by
  unfold helperRefused
  split <;> simp [h]

@[simp] theorem Inv_seqStart_iff (reel q slot : Nat) (w : List W64) (picks : List Nat) (s : State) :
    (seqStart reel q slot w picks s).Inv ↔ s.Inv := by
  simp [seqStart]

@[simp] theorem Inv_launch_iff (reel q : Nat) (w : List W64) (picks : List Nat) (s : State) : (launch reel q w picks s).Inv ↔ s.Inv := by
  simp only [launch]
  repeat' split
  all_goals simp

@[simp] theorem Inv_complWrite_iff (reel : Nat) (s : State) : (complWrite reel s).Inv ↔ s.Inv := by
  simp only [complWrite]
  repeat' split
  all_goals simp

@[simp] theorem Inv_complTold_iff (reel : Nat) (s : State) : (complTold reel s).Inv ↔ s.Inv := by
  unfold complTold
  split <;> simp

/-! ### The functions of Machine/Power.lean -/

@[simp] theorem State.Inv_modPow_iff (s : State) (f : Power → Power) : (State.modPow s f).Inv ↔ s.Inv := Iff.rfl
@[simp] theorem Inv_powEvent_iff (st : Status) (kind idx : Nat) (s : State) : (powEvent st kind idx s).Inv ↔ s.Inv := by simp [powEvent]
@[simp] theorem Inv_requestMv_iff (mv : Nat) (s : State) : (requestMv mv s).Inv ↔ s.Inv := Iff.rfl
@[simp] theorem Inv_capsDue_iff (s : State) : (capsDue s).Inv ↔ s.Inv := by simp [capsDue]
@[simp] theorem Inv_hostCap_iff (v : W64) (s : State) : (hostCap v s).Inv ↔ s.Inv := Iff.rfl
theorem resInv_execPwrLimitAssert {s : State} (h : s.Inv) : resInv (execPwrLimitAssert s) := by simp [execPwrLimitAssert, h]

@[simp] theorem Inv_cueAbort {reel slot : Nat} {s : State} (h : s.Inv) : (cueAbort reel slot s).Inv := by
  unfold cueAbort
  repeat' split
  all_goals simp [h]

@[simp] theorem Inv_abortAmong {l : List (Nat × Nat × Cue)} {p : Nat → Nat → Cue → Bool} {s : State} (h : s.Inv) :
    (abortAmong l p s).Inv := by
  simp +contextual [abortAmong, h]

@[simp] theorem Inv_abortCues {p : Nat → Nat → Cue → Bool} {s : State} (h : s.Inv) : (abortCues p s).Inv := by simp [abortCues, h]
@[simp] theorem Inv_stopBegin {s : State} (h : s.Inv) : (stopBegin s).Inv := by simp [stopBegin, h]
@[simp] theorem Inv_wear_iff (s : State) : (wear s).Inv ↔ s.Inv := by simp [wear]
@[simp] theorem Inv_tcoefWrite_iff (v : Bool) (s : State) : (tcoefWrite v s).Inv ↔ s.Inv := Iff.rfl
@[simp] theorem Inv_gafEstimate_iff (counts : List Nat) (s : State) : (gafEstimate counts s).Inv ↔ s.Inv := Iff.rfl
@[simp] theorem Inv_gafModel_iff (counts : List Nat) (s : State) : (gafModel counts s).Inv ↔ s.Inv := Iff.rfl
@[simp] theorem Inv_gafSensors_iff (readings : List Int) (s : State) : (gafSensors readings s).Inv ↔ s.Inv := Iff.rfl
@[simp] theorem Inv_gafGovern_iff (s : State) : (gafGovern s).Inv ↔ s.Inv := Iff.rfl
@[simp] theorem Inv_gafSense_iff (o : GafferIn) (s : State) : (gafSense o s).Inv ↔ s.Inv := by simp [gafSense]
@[simp] theorem Inv_gafThresholds {s : State} (h : s.Inv) : (gafThresholds s).Inv := by simp [gafThresholds, h]
@[simp] theorem Inv_foleyOff_iff (s : State) : (foleyOff s).Inv ↔ s.Inv := by simp [foleyOff]
@[simp] theorem Inv_takeCoefs_iff (s : State) : (takeCoefs s).Inv ↔ s.Inv := by simp [takeCoefs]

@[simp] theorem Inv_gafApply_iff (s : State) : (gafApply s).Inv ↔ s.Inv := by
  have h1 : (winClosed (takeCoefs (splitPoint 10 (splitPoint 5 (capsDue s))))).Inv ↔ s.Inv := by simp
  have h3 {f g : Power → Power} {t : State} (h : t.Inv ↔ s.Inv) : ((t.modPow f).modPow g).Inv ↔ s.Inv :=
    (State.Inv_modPow_iff ..).trans ((State.Inv_modPow_iff ..).trans h)
  unfold gafApply
  dsimp only
  split
  · exact h3 h1
  · have h4 {f g k : Power → Power} {t : State} (h : t.Inv ↔ s.Inv) : (((t.modPow f).modPow g).modPow k).Inv ↔ s.Inv :=
      (State.Inv_modPow_iff ..).trans (h3 h)
    exact State.Inv_ite_iff_of (h4 h1) ((Inv_foleyOff_iff ..).trans (h4 h1))

@[simp] theorem Inv_gafDuty_iff (p : Nat) (s : State) : (gafDuty p s).Inv ↔ s.Inv := by simp [gafDuty]
@[simp] theorem Inv_avsAffect_iff (s : State) : (avsAffect s).Inv ↔ s.Inv := by simp [avsAffect]
@[simp] theorem Inv_gafChoose_iff (s : State) : (gafChoose s).Inv ↔ s.Inv := by simp [gafChoose]
@[simp] theorem Inv_foleyEnergy_iff (s : State) : (foleyEnergy s).Inv ↔ s.Inv := by simp [foleyEnergy]
@[simp] theorem Inv_gafferPeriod {o : GafferIn} {s : State} (h : s.Inv) : (gafferPeriod o s).Inv := by simp [gafferPeriod, h]
theorem resInv_execThrottleStep {s : State} (h : s.Inv) : resInv (execThrottleStep s) := by simp [execThrottleStep, h]
@[simp] theorem Inv_avsAcked_iff (s : State) : (avsAcked s).Inv ↔ s.Inv := Iff.rfl
@[simp] theorem Inv_kCorrection_iff (ma mv : Nat) (s : State) : (kCorrection ma mv s).Inv ↔ s.Inv := Iff.rfl

@[simp] theorem Inv_varrComplete_iff (s : State) : (varrComplete s).Inv ↔ s.Inv := by
  unfold varrComplete
  split <;> simp

@[simp] theorem Inv_avsNak_iff (s : State) : (avsNak s).Inv ↔ s.Inv := by simp [avsNak]
theorem resInv_execAvsRetry {ack : Bool} {s : State} (h : s.Inv) : resInv (execAvsRetry ack s) := by simp [execAvsRetry, h]
@[simp] theorem Inv_gafRestart_iff (s : State) : (gafRestart s).Inv ↔ s.Inv := by simp [gafRestart]
@[simp] theorem Inv_gafMismatch {r0 r1 : W32} {s : State} (h : s.Inv) : (gafMismatch r0 r1 s).Inv := by simp [gafMismatch, h]
theorem resInv_execGafMismatch {r0 r1 : W32} {s : State} (h : s.Inv) : resInv (execGafMismatch r0 r1 s) := by simp [execGafMismatch, h]
theorem resInv_execSensorSuspect {i : Nat} {s : State} (h : s.Inv) : resInv (execSensorSuspect i s) := by simp [execSensorSuspect, h]
theorem resInv_execSensorTrusted {i : Nat} {s : State} (h : s.Inv) : resInv (execSensorTrusted i s) := by simp [execSensorTrusted, h]
theorem resInv_execFoleyEnter {tile : Nat} {s : State} (h : s.Inv) : resInv (execFoleyEnter tile s) := by simp [execFoleyEnter, h]

/-! ### The functions of Machine/Obs.lean -/

@[simp] theorem State.Inv_modObs_iff (s : State) (f : Obs → Obs) : (State.modObs s f).Inv ↔ s.Inv := Iff.rfl
@[simp] theorem Inv_clrCounters_iff (s : State) : (clrCounters s).Inv ↔ s.Inv := Iff.rfl
@[simp] theorem Inv_obsWrite_iff (v : W64) (s : State) : (obsWrite v s).Inv ↔ s.Inv := by simp [obsWrite]

@[simp] theorem Inv_ringWrite {base size at_ : Nat} {bs : List Byte} {s : State} (h : s.Inv) : (ringWrite base size at_ bs s).Inv := by
  unfold ringWrite
  exact Inv_foldl (Inv_foldl h fun _ _ h => State.Inv_ite_of (Inv_homeWrite (Inv_commitFirst h)) h)
    fun _ _ h => State.Inv_ite_of (Inv_homeWrite (Inv_commitFirst h)) h

@[simp] theorem Inv_dlyTake {t0 : Nat} {s : State} (h : s.Inv) : (dlyTake t0 s).Inv := by simp [dlyTake, h]

@[simp] theorem Inv_dlySample {s : State} (h : s.Inv) : (dlySample s).Inv := by
  unfold dlySample
  repeat' split
  all_goals simp [h]

@[simp] theorem Inv_drainPoint_iff (s : State) : (drainPoint s).Inv ↔ s.Inv := by simp [drainPoint]

@[simp] theorem Inv_traceDrain {src : Nat} {e : HostEnd} {s : State} (h : s.Inv) : (traceDrain src e s).Inv := by
  simp only [traceDrain]
  repeat' split
  all_goals simp [h]

@[simp] theorem Inv_beatCounts_iff (s : State) : (beatCounts s).Inv ↔ s.Inv := by simp [beatCounts]
@[simp] theorem State.Inv_tick_iff (s : State) : (State.tick s).Inv ↔ s.Inv := by simp [State.tick]

/-! ### The functions of Machine/Host.lean -/

@[simp] theorem Inv_msixFlush_iff (s : State) : (msixFlush s).Inv ↔ s.Inv := by simp [msixFlush]
@[simp] theorem Inv_cfgPut_iff (i v : Nat) (s : State) : (cfgPut i v s).Inv ↔ s.Inv := Iff.rfl
@[simp] theorem Inv_powerState {n : Nat} {s : State} (h : s.Inv) : (powerState n s).Inv := by simp [powerState, h]

@[simp] theorem Inv_cfgWrite {i : Nat} {v : W32} {s : State} (h : s.Inv) : (cfgWrite i v s).Inv := by
  simp only [cfgWrite]
  repeat' split
  all_goals simp [h]

@[simp] theorem Inv_aerLog_iff (bit : Nat) (s : State) : (aerLog bit s).Inv ↔ s.Inv := Iff.rfl
@[simp] theorem Inv_unsupported_iff (s : State) : (unsupported s).Inv ↔ s.Inv := Iff.rfl

@[simp] theorem Inv_configRequest {off : Nat} {wr : Option W32} {s : State} (h : s.Inv) : (configRequest off wr s).Inv := by
  unfold configRequest
  repeat' split
  all_goals simp [h]

@[simp] theorem Inv_bar2Read {off n : Nat} {s : State} (h : s.Inv) : (bar2Read off n s).Inv := by simp +contextual [bar2Read, h]

@[simp] theorem Inv_bar2Write {off : Nat} {data : List Byte} {ep : Bool} {s : State} (h : s.Inv) : (bar2Write off data ep s).Inv := by
  unfold bar2Write
  dsimp only
  split
  · exact h
  split
  · exact (Inv_unsupported_iff ..).2 h
  split
  · exact h
  · exact Inv_foldl h fun _ _ h => Inv_homeWrite (Inv_commitFirst h)

@[simp] theorem Inv_hostEnd {tag : Nat} {st : Status} {data : List Byte} {s : State} (h : s.Inv) : (hostEnd tag st data s).Inv := by
  unfold hostEnd
  split <;> simp [h]

@[simp] theorem Inv_hostDone {tag : Nat} {st : Status} {data : List Byte} {s : State} (h : s.Inv) : (hostDone tag st data s).Inv := by
  simp [hostDone, h]

@[simp] theorem Inv_hostTimeout {tag : Nat} {s : State} (h : s.Inv) : (hostTimeout tag s).Inv := by simp [hostTimeout, h]

/-! ### The functions of Machine/Take.lean -/

@[simp] theorem State.Inv_modStart_iff (s : State) (f : Start → Start) : (State.modStart s f).Inv ↔ s.Inv := Iff.rfl

@[simp] theorem Inv_journalAdd_iff (stage path result : Nat) (st : Status) (detail : W64) (s : State) :
    (journalAdd stage path result st detail s).Inv ↔ s.Inv := by
  simp [journalAdd]

@[simp] theorem Inv_interrupt_iff (s : State) : (interrupt s).Inv ↔ s.Inv := by simp [interrupt]
@[simp] theorem Inv_faultOn_iff (s : State) : (faultOn s).Inv ↔ s.Inv := Iff.rfl
@[simp] theorem Inv_coldBase (s : State) : (coldBase s).Inv := by simp [coldBase, State.Inv, Memory.wf, memWfFrom]
@[simp] theorem Inv_outside_iff (s : State) : (outside s).Inv ↔ s.Inv := Iff.rfl
@[simp] theorem Inv_domsOff_iff (keep : Nat → Bool) (s : State) : (domsOff keep s).Inv ↔ s.Inv := by simp [domsOff]
@[simp] theorem Inv_loseMemory {hbm : Bool} {s : State} (h : s.Inv) : (loseMemory hbm s).Inv := by simp [loseMemory, h, State.Inv_undefine]
@[simp] theorem Inv_enterSafe {s : State} (h : s.Inv) : (enterSafe s).Inv := by simp [enterSafe, h]
@[simp] theorem Inv_stageEnter_iff (n : Nat) (s : State) : (stageEnter n s).Inv ↔ s.Inv := by simp [stageEnter]

@[simp] theorem Inv_takeBeginAt_iff (warm fromSafe : Bool) (cause : Nat) (s : State) : (takeBeginAt warm fromSafe cause s).Inv ↔ s.Inv := by
  simp [takeBeginAt]

@[simp] theorem Inv_recordAfresh_iff (s : State) : (recordAfresh s).Inv ↔ s.Inv := by simp [recordAfresh]

@[simp] theorem Inv_coldStart (fromSafe : Bool) (cause : Nat) (s : State) : (coldStart fromSafe cause s).Inv := by simp [coldStart]

@[simp] theorem Inv_coldTake {fromSafe : Bool} {cause : Nat} {s : State} (h : s.Inv) : (coldTake fromSafe cause s).Inv := by
  simp [coldTake, h]

@[simp] theorem Inv_domsOn_iff (l : List Nat) (s : State) : (domsOn l s).Inv ↔ s.Inv := by simp [domsOn]
@[simp] theorem Inv_passS1_iff (s : State) : (passS1 s).Inv ↔ s.Inv := by simp [passS1]
@[simp] theorem Inv_passS3_iff (s : State) : (passS3 s).Inv ↔ s.Inv := by simp [passS3]

@[simp] theorem Inv_passS6 {bad : Failing} {s : State} (h : s.Inv) : (passS6 bad s).Inv := by
  unfold passS6
  have h1 := (Inv_domsOn_iff [64, 65, 66, 67, 68] s).2 h
  refine Inv_foldl ?_ fun s x h => State.Inv_ite_of ((Inv_rowFails_iff ..).2 h) h
  refine State.Inv_ite_of (State.Inv_zero _ _ _ ?h2) ?h2
  exact State.Inv_ite_of (Inv_foldl h1 fun _ _ h => Inv_recoverCol h) h1

@[simp] theorem Inv_pcFails_iff (p : Nat) (s : State) : (pcFails p s).Inv ↔ s.Inv := by simp [pcFails]
@[simp] theorem Inv_passS7 {bad : Failing} {s : State} (h : s.Inv) : (passS7 bad s).Inv := by simp [passS7, h, State.Inv_zero]
@[simp] theorem Inv_passS8_iff (detail : W64) (s : State) : (passS8 detail s).Inv ↔ s.Inv := by simp [passS8]
@[simp] theorem Inv_spareTiles_iff (bad : Failing) (s : State) : (spareTiles bad s).Inv ↔ s.Inv := by simp [spareTiles]
@[simp] theorem Inv_excludeTiles_iff (l : List Nat) (s : State) : (excludeTiles l s).Inv ↔ s.Inv := by simp [excludeTiles]
@[simp] theorem Inv_passS9_iff (bad : Failing) (s0 : State) : (passS9 bad s0).Inv ↔ s0.Inv := by simp [passS9]
@[simp] theorem Inv_passS10 {s : State} (h : s.Inv) : (passS10 s).Inv := by simp [passS10, h]
@[simp] theorem Inv_passS11_iff (s : State) : (passS11 s).Inv ↔ s.Inv := by simp [passS11]

@[simp] theorem Inv_stageWork {n : Nat} {detail : W64} {bad : Failing} {s : State} (h : s.Inv) : (stageWork n detail bad s).Inv := by
  unfold stageWork
  split <;> simp [h]

@[simp] theorem Inv_stagePass {n : Nat} {detail : W64} {bad : Failing} {s : State} (h : s.Inv) : (stagePass n detail bad s).Inv := by
  simp [stagePass, h]

@[simp] theorem Inv_stageFail {n : Nat} {st : Status} {detail : W64} {s0 s : State} (h : s.Inv) : (stageFail n st detail s0 s).Inv := by
  simp [stageFail, h]

@[simp] theorem Inv_stageEnd {st : Status} {detail : W64} {bad : Failing} {s : State} (h : s.Inv) : (stageEnd st detail bad s).Inv := by
  simp [stageEnd, h]

theorem resInv_execTakeRetry {s : State} (h : s.Inv) : resInv (execTakeRetry s) := by simp [execTakeRetry, h]
@[simp] theorem Inv_coldReset {s : State} (h : s.Inv) : (coldReset s).Inv := by simp [coldReset, h]
@[simp] theorem Inv_allScratch {s : State} (h : s.Inv) : (allScratch s).Inv := by simp [allScratch, h]
@[simp] theorem Inv_warmGo {s : State} (h : s.Inv) : (warmGo s).Inv := by simp [warmGo, h]

@[simp] theorem Inv_warmReset {s : State} (h : s.Inv) : (warmReset s).Inv := by
  unfold warmReset
  repeat' split
  all_goals simp [h]

@[simp] theorem Inv_rstGo {kind target : Nat} {k : State → State} {s : State} (h : s.Inv) (hk : ∀ s, s.Inv → (k s).Inv) :
    (rstGo kind target k s).Inv := by
  simp [rstGo, h, hk]

theorem resInv_execPerstAssert {s : State} (h : s.Inv) : resInv (execPerstAssert s) := by simp [execPerstAssert, h]
@[simp] theorem Inv_jnlTake {s : State} (h : s.Inv) : (jnlTake s).Inv := by simp [jnlTake, h]
@[simp] theorem Inv_journalWrite_iff (off : Nat) (v : W64) (s : State) : (journalWrite off v s).Inv ↔ s.Inv := by simp [journalWrite]

theorem resInv_execAlwaysOnStart {bpos pair : Nat} {legacy trip : Bool} {s : State} (h : s.Inv) :
    resInv (execAlwaysOnStart bpos pair legacy trip s) := by
  simp [execAlwaysOnStart, h]

theorem resInv_execRailsInRange {s : State} (h : s.Inv) : resInv (execRailsInRange s) := by simp [execRailsInRange, h]
@[simp] theorem Inv_powerLoss (s : State) : (powerLoss s).Inv := by simp [powerLoss]

theorem resInv_execRailOutOfRange {rail : Nat} {s : State} (h : s.Inv) : resInv (execRailOutOfRange rail s) := by
  simp [execRailOutOfRange, h]

theorem resInv_execRefclkLoss {s : State} (h : s.Inv) : resInv (execRefclkLoss s) := by simp [execRefclkLoss, h]
theorem resInv_execRefclkReturn {s : State} (h : s.Inv) : resInv (execRefclkReturn s) := by simp [execRefclkReturn, h]
theorem resInv_execTripNHigh10s {s : State} (h : s.Inv) : resInv (execTripNHigh10s s) := by simp [execTripNHigh10s, h]
@[simp] theorem Inv_holdInReset {s : State} (h : s.Inv) : (holdInReset s).Inv := by simp [holdInReset, h]

@[simp] theorem Inv_mirrorsStop_iff (s : State) : (mirrorsStop s).Inv ↔ s.Inv := by
  unfold mirrorsStop
  refine Inv_foldl_iff _ _ _ fun s x => ?_
  repeat' split
  all_goals simp

theorem resInv_execOrderlyStopFinal {predicted : Bool} {s : State} (h : s.Inv) : resInv (execOrderlyStopFinal predicted s) := by
  simp [execOrderlyStopFinal, h]

@[simp] theorem Inv_trip {own : Bool} {s : State} (h : s.Inv) : (trip own s).Inv := by simp [trip, h]

theorem resInv_execLegacyTrip {sensor : Nat} {raw : Int} {s : State} (h : s.Inv) : resInv (execLegacyTrip sensor raw s) := by
  simp [execLegacyTrip, h]

theorem resInv_execTripNAsserted {s : State} (h : s.Inv) : resInv (execTripNAsserted s) := by simp [execTripNAsserted, h]
theorem resInv_execTripRelease {s : State} (h : s.Inv) : resInv (execTripRelease s) := by simp [execTripRelease, h]
theorem resInv_execTripRestart {s : State} (h : s.Inv) : resInv (execTripRestart s) := by simp [execTripRestart, h]
theorem resInv_execOffEnter {s : State} (h : s.Inv) : resInv (execOffEnter s) := by simp [execOffEnter, h]

/-! ### The functions of Machine/Reset.lean -/

@[simp] theorem Inv_cutCues {p : Nat → Nat → Bool} {halts : Nat → Bool} {s : State} (h : s.Inv) : (cutCues p halts s).Inv := by
  refine Inv_foldl (Inv_abortAmong ((Inv_affectCues_iff ..).2 h)) fun s c h => ?_
  split
  · exact (Inv_cueRecord_iff ..).2 h
  · exact h

@[simp] theorem Inv_tilesCut {ts : List Nat} {s : State} (h : s.Inv) : (tilesCut ts s).Inv := by simp [tilesCut, h]
@[simp] theorem Inv_tileReset {t : Nat} {s : State} (h : s.Inv) : (tileReset t s).Inv := by simp +contextual [tileReset, h]
@[simp] theorem Inv_rstEnd_iff (st : Status) (s : State) : (rstEnd st s).Inv ↔ s.Inv := Iff.rfl
@[simp] theorem Inv_resetTile {t : Nat} {s : State} (h : s.Inv) : (resetTile t s).Inv := by simp [resetTile, h]

@[simp] theorem Inv_swapSwitch {s : State} (h : s.Inv) : (swapSwitch s).Inv := by
  unfold swapSwitch
  split <;> simp [h]

@[simp] theorem Inv_reelReset {n : Nat} {s : State} (h : s.Inv) : (reelReset n s).Inv := by simp +contextual [reelReset, h]

@[simp] theorem Inv_resetReel {reel : Nat} {s : State} (h : s.Inv) : (resetReel reel s).Inv := Inv_rstGo h fun s h => by
    split
    · exact Inv_wake ((Inv_rstEnd_iff ..).2 (Inv_reelReset h))
    · exact (Inv_rstEnd_iff ..).2 h

@[simp] theorem Inv_domReset {n : Nat} {s : State} (h : s.Inv) : (domReset n s).Inv := by
  refine Inv_wake ((State.Inv_modDom_iff ..).2 ((Inv_domStop_iff ..).2 ((State.Inv_modStart_iff ..).2 ?_)))
  exact Inv_foldl (Inv_tilesCut h) fun _ _ h => Inv_tileReset h

@[simp] theorem Inv_domainReset {n : Nat} {s : State} (h : s.Inv) : (domainReset n s).Inv := by simp +contextual [domainReset, h]
@[simp] theorem Inv_domLoseAll {n : Nat} {s : State} (h : s.Inv) : (domLoseAll n s).Inv := by simp [domLoseAll, h]
@[simp] theorem Inv_domStopDone {n : Nat} {s : State} (h : s.Inv) : (domStopDone n s).Inv := by simp [domStopDone, h]
@[simp] theorem Inv_domStarted_iff (n : Nat) (s : State) : (domStarted n s).Inv ↔ s.Inv := by simp [domStarted]
@[simp] theorem Inv_linkFresh_iff (n : Nat) (s : State) : (linkFresh n s).Inv ↔ s.Inv := Iff.rfl
@[simp] theorem Inv_cutRequests {hit : Nat → Bool} {s : State} (h : s.Inv) : (cutRequests hit s).Inv := by simp +contextual [cutRequests, h]
@[simp] theorem Inv_ioAssertGo {s : State} (h : s.Inv) : (ioAssertGo s).Inv := by simp [ioAssertGo, h]
theorem resInv_execPcieHotReset {s : State} (h : s.Inv) : resInv (execPcieHotReset s) := by simp [execPcieHotReset, h]
@[simp] theorem Inv_reissuePort_iff (n : Nat) (s : State) : (reissuePort n s).Inv ↔ s.Inv := by simp [reissuePort]
@[simp] theorem Inv_reissueHost {s : State} (h : s.Inv) : (reissueHost s).Inv := by simp +contextual [reissueHost, h]
@[simp] theorem Inv_portBack {n : Nat} {s : State} (h : s.Inv) : (portBack n s).Inv := by simp [portBack, h]
@[simp] theorem Inv_ioBack {i : Nat} {s : State} (h : s.Inv) : (ioBack i s).Inv := by simp [ioBack, h]
@[simp] theorem Inv_ioPended {s : State} (h : s.Inv) : (ioPended s).Inv := by simp [ioPended, h]

@[simp] theorem Inv_hbmGiveUp {s : State} (h : s.Inv) : (hbmGiveUp s).Inv :=
  Inv_foldl h fun _ _ h => Inv_foldl h fun _ _ h => Inv_foldl h fun _ _ h => Inv_partDone h

@[simp] theorem Inv_ioGiveUp {i : Nat} {s : State} (h : s.Inv) : (ioGiveUp i s).Inv := by simp +contextual [ioGiveUp, h]
@[simp] theorem Inv_ioLimit {s : State} (h : s.Inv) : (ioLimit s).Inv := by simp +contextual [ioLimit, h]

/-! ### The functions of Machine/Spdm.lean -/

@[simp] theorem Inv_doe {attest : Bool} {k : State → State} {s : State} (h : s.Inv) (hk : ∀ s, s.Inv → (k s).Inv) :
    (doe attest k s).Inv := by
  simp [doe, h, hk]

@[simp] theorem Inv_spdmError_iff (code : Nat) (s : State) : (spdmError code s).Inv ↔ s.Inv := Iff.rfl
@[simp] theorem Inv_spdmReply_iff (req resp : Nat) (q : SpdmReq) (s : State) : (spdmReply req resp q s).Inv ↔ s.Inv := Iff.rfl
@[simp] theorem Inv_discovery_iff (index : Nat) (s : State) : (discovery index s).Inv ↔ s.Inv := Iff.rfl
@[simp] theorem Inv_getCert_iff (q : SpdmReq) (off len : Nat) (s : State) : (getCert q off len s).Inv ↔ s.Inv := by simp [getCert]
@[simp] theorem Inv_getMeas_iff (q : SpdmReq) (index : Nat) (s : State) : (getMeas q index s).Inv ↔ s.Inv := by simp [getMeas]
@[simp] theorem Inv_keyExchange_iff (q : SpdmReq) (s : State) : (keyExchange q s).Inv ↔ s.Inv := by simp [keyExchange]
@[simp] theorem Inv_finishSession_iff (q : SpdmReq) (s : State) : (finishSession q s).Inv ↔ s.Inv := by simp [finishSession]
@[simp] theorem Inv_endSession_iff (q : SpdmReq) (s : State) : (endSession q s).Inv ↔ s.Inv := by simp [endSession]
@[simp] theorem Inv_kpAck_iff (ok : Bool) (s : State) : (kpAck ok s).Inv ↔ s.Inv := Iff.rfl

@[simp] theorem Inv_keyInstall_iff (session stream keyset sub : Nat) (key : BitVec 256) (s : State) :
    (keyInstall session stream keyset sub key s).Inv ↔ s.Inv := by
  simp [keyInstall]

@[simp] theorem Inv_kSetActive_iff (session stream keyset : Nat) (s : State) : (kSetActive session stream keyset s).Inv ↔ s.Inv := by
  simp [kSetActive]

@[simp] theorem Inv_kSetEnd_iff (session stream keyset : Nat) (s : State) : (kSetEnd session stream keyset s).Inv ↔ s.Inv := by
  simp [kSetEnd]

/-! ### The functions of Machine/Regs.lean -/

@[simp] theorem State.Inv_modHost_iff (s : State) (f : HostIf → HostIf) : (State.modHost s f).Inv ↔ s.Inv := Iff.rfl

@[simp] theorem Inv_writePci_iff (o : Nat) (x : RegWr) (s : State) : (writePci o x s).Inv ↔ s.Inv := by
  unfold writePci
  repeat' split
  all_goals simp

@[simp] theorem Inv_writeSpl_iff (o : Nat) (x : RegWr) (s : State) : (writeSpl o x s).Inv ↔ s.Inv := by
  unfold writeSpl
  split <;> simp

@[simp] theorem Inv_writeTmb_iff (o : Nat) (x : RegWr) (s : State) : (writeTmb o x s).Inv ↔ s.Inv := by simp [writeTmb]

@[simp] theorem Inv_writeBell {o : Nat} {x : RegWr} {s : State} (h : s.Inv) : (writeBell o x s).Inv := by
  unfold writeBell
  split
  · exact h
  split
  · exact Inv_doorbell h fun _ h => by simp [h]
  split
  · exact Inv_doorbell h fun _ h => h
  · exact Inv_doorbell h fun _ h => h
  · exact Inv_doorbell h fun _ h => h
  · exact Inv_doorbell h fun _ h => h
  · exact h

@[simp] theorem Inv_writeMsix_iff (o : Nat) (x : RegWr) (s : State) : (writeMsix o x s).Inv ↔ s.Inv := by
  unfold writeMsix
  split <;> simp

@[simp] theorem Inv_writeReel_iff (n y : Nat) (x : RegWr) (s : State) : (writeReel n y x s).Inv ↔ s.Inv := by
  unfold writeReel
  split <;> simp

@[simp] theorem Inv_aqWrite_iff (n : Nat) (w : W64) (s : State) : (aqWrite n w s).Inv ↔ s.Inv := Iff.rfl

@[simp] theorem Inv_writeDir_iff (o : Nat) (x : RegWr) (s : State) : (writeDir o x s).Inv ↔ s.Inv := by
  unfold writeDir
  split <;> simp

@[simp] theorem Inv_rtWrite_iff (d v : Nat) (s : State) : (rtWrite d v s).Inv ↔ s.Inv := Iff.rfl

@[simp] theorem Inv_writeGrp {o : Nat} {x : RegWr} {s : State} (h : s.Inv) : (writeGrp o x s).Inv := by
  unfold writeGrp
  repeat' split
  all_goals simp [h]

@[simp] theorem Inv_writeCon_iff (o : Nat) (x : RegWr) (s : State) : (writeCon o x s).Inv ↔ s.Inv := by
  unfold writeCon
  repeat' split
  all_goals simp

@[simp] theorem Inv_rstWrite {w : W64} {s : State} (h : s.Inv) : (rstWrite w s).Inv := by
  unfold rstWrite
  repeat' split
  all_goals simp +contextual [h]

@[simp] theorem Inv_writeGaf {o : Nat} {x : RegWr} {s : State} (h : s.Inv) : (writeGaf o x s).Inv := by
  unfold writeGaf
  repeat' split
  all_goals simp [h]

@[simp] theorem Inv_freshSecret_iff (s : State) : (freshSecret s).2.Inv ↔ s.Inv := Iff.rfl

@[simp] theorem Inv_lcWriteReg_iff (w : W64) (s : State) : (lcWriteReg w s).Inv ↔ s.Inv := by
  simp only [lcWriteReg]
  repeat' split
  all_goals simp

@[simp] theorem Inv_writeSpr {o : Nat} {x : RegWr} {s : State} (h : s.Inv) : (writeSpr o x s).Inv := by
  unfold writeSpr
  repeat' split
  all_goals simp [h]

@[simp] theorem Inv_xopWrite {w : W64} {s : State} (h : s.Inv) : (xopWrite w s).Inv := by
  unfold xopWrite
  repeat' split
  all_goals simp +contextual [h]

@[simp] theorem Inv_copWrite_iff (w : W64) (s : State) : (copWrite w s).Inv ↔ s.Inv := by simp [copWrite]

@[simp] theorem Inv_rprWrite {w : W64} {s : State} (h : s.Inv) : (rprWrite w s).Inv := by
  unfold rprWrite
  have h1 := (State.Inv_modRep_iff s (fun r => { r with rprOp := bitsOf w 1 0 })).2 h
  dsimp only
  split
  · exact h1
  split
  · exact Inv_rprGo h1 fun _ h => (Inv_rprSoft_iff ..).2 h
  · exact Inv_rprGo h1 fun _ h => (Inv_rprFuse_iff ..).2 h
  · exact Inv_rprGo h1 fun _ h => (Inv_rprRetire_iff ..).2 h
  · exact (Inv_rprEnd_iff ..).2 h1

@[simp] theorem Inv_writeMem {o : Nat} {x : RegWr} {s : State} (h : s.Inv) : (writeMem o x s).Inv := by
  unfold writeMem
  split <;> simp [h]

@[simp] theorem Inv_writeLnk_iff (o : Nat) (x : RegWr) (s : State) : (writeLnk o x s).Inv ↔ s.Inv := by
  unfold writeLnk
  split <;> simp

@[simp] theorem Inv_writeBke_iff (o : Nat) (x : RegWr) (s : State) : (writeBke o x s).Inv ↔ s.Inv := by
  unfold writeBke
  split <;> simp

@[simp] theorem Inv_sessWrite {w : W64} {s : State} (h : s.Inv) : (sessWrite w s).Inv := by simp [sessWrite, h]
@[simp] theorem Inv_thrWrite {w : W64} {s : State} (h : s.Inv) : (thrWrite w s).Inv := by simp [thrWrite, h]

@[simp] theorem Inv_writeDbg {o : Nat} {x : RegWr} {s : State} (h : s.Inv) : (writeDbg o x s).Inv := by
  unfold writeDbg
  repeat' split
  all_goals simp [h]

@[simp] theorem Inv_writeTil {t y : Nat} {x : RegWr} {s : State} (h : s.Inv) : (writeTil t y x s).Inv := by
  unfold writeTil
  repeat' split
  all_goals simp [h]

@[simp] theorem Inv_regWrite {off size : Nat} {v : W64} {s : State} (h : s.Inv) : (regWrite off size v s).Inv := by simp [regWrite, h]

theorem resInv_execRegisterWrite {off size : Nat} {v : W64} {s : State} (h : s.Inv) : resInv (execRegisterWrite off size v s) := by
  simp [execRegisterWrite, h]

/-! ### The functions of Machine/Board.lean -/

@[simp] theorem Inv_mctpDo {st : Status} {data : List Byte} {k : State → State} {s : State} (h : s.Inv) (hk : ∀ s, s.Inv → (k s).Inv) :
    (mctpDo st data k s).Inv := by
  simp [mctpDo, h, hk]

theorem resInv_execSetPhaseCaps {caps : List (BitVec 16)} {s : State} (h : s.Inv) : resInv (execSetPhaseCaps caps s) := by
  simp [execSetPhaseCaps, h]

theorem resInv_execMctpReset {kind : Nat} {s : State} (h : s.Inv) : resInv (execMctpReset kind s) :=
  State.Inv_ite_of (Inv_mctpDo h fun _ h => Inv_rstGo h fun _ h => Inv_coldReset h)
    (State.Inv_ite_of (Inv_mctpDo h fun _ h => Inv_rstGo h fun _ h => Inv_warmReset h) (Inv_mctpDo h fun _ h => h))

theorem resInv_execMctpRead {off len : Nat} {s : State} (h : s.Inv) : resInv (execMctpRead off len s) := by simp [execMctpRead, h]

theorem resInv_execMctpUnknownCommand {code : Byte} {s : State} (h : s.Inv) : resInv (execMctpUnknownCommand code s) := by
  simp [execMctpUnknownCommand, h]

theorem resInv_execSetdasa {static dyn : BitVec 7} {s : State} (h : s.Inv) : resInv (execSetdasa static dyn s) := by simp [execSetdasa, h]
@[simp] theorem State.Inv_modPins_iff (s : State) (f : Pins → Pins) : (State.modPins s f).Inv ↔ s.Inv := Iff.rfl
@[simp] theorem Inv_bypass_iff (s : State) : (bypass s).Inv ↔ s.Inv := Iff.rfl
@[simp] theorem Inv_sampleLands_iff (s : State) : (sampleLands s).1.Inv ↔ s.Inv := Iff.rfl
theorem resInv_execJtagIdcode {s : State} (h : s.Inv) : resInv (execJtagIdcode s) := by simp [execJtagIdcode, h]

theorem resInv_execJtagSamplePreload {v : W32} {s : State} (h : s.Inv) : resInv (execJtagSamplePreload v s) := by
  simp [execJtagSamplePreload, h]

theorem resInv_execJtagExtest {s : State} (h : s.Inv) : resInv (execJtagExtest s) := by simp [execJtagExtest, h]
theorem resInv_execJtagClamp {s : State} (h : s.Inv) : resInv (execJtagClamp s) := by simp [execJtagClamp, h]
theorem resInv_execJtagHighz {s : State} (h : s.Inv) : resInv (execJtagHighz s) := by simp [execJtagHighz, h]

/-! ### The functions of Machine/CoreMem.lean -/

@[simp] theorem Inv_coreLoad {f : SForm} {n p c : Nat} {s : State} (h : s.Inv) : (coreLoad f n p c s).Inv := by simp [coreLoad, h]

@[simp] theorem Inv_coreRegWrite {off n : Nat} {v : W64} {s : State} (h : s.Inv) : (coreRegWrite off n v s).Inv := by
  unfold coreRegWrite
  split <;> simp [h]

@[simp] theorem Inv_coreStore {f : SForm} {n p c : Nat} {s : State} (h : s.Inv) : (coreStore f n p c s).Inv := by
  unfold coreStore
  dsimp only
  split
  · exact (Inv_exception_iff ..).2 h
  split
  · exact (Inv_finishC_iff ..).2 (Inv_coreRegWrite h)
  split
  · exact (Inv_finishC_iff ..).2 (State.Inv_send _ _ h)
  split
  · exact h
  · exact Inv_wake ((Inv_finishC_iff ..).2 (Inv_homeWrite (Inv_commitFirst h)))

@[simp] theorem Inv_coreSem {f : SForm} {op p c : Nat} {s : State} (h : s.Inv) : (coreSem f op p c s).Inv := by
  unfold coreSem
  dsimp only
  split
  · exact (Inv_exception_iff ..).2 h
  split
  · exact (Inv_exception_iff ..).2 h
  split
  · exact h
  have hq {a b : W64} {x : Nat} := Inv_semAt (ca := 0) (o := x) (op := op) (a := a) (b := b) (Inv_commitFirst (o := x) (n := 8) h)
  split
  · exact (Inv_exception_iff ..).2 hq
  · exact Inv_wake ((Inv_finishC_iff ..).2 hq)

/-! ### The functions of Machine/Receive.lean -/

@[simp] theorem Inv_sendIdle_iff (n : Nat) (nak : Bool) (s : State) : (sendIdle n nak s).Inv ↔ s.Inv := by simp [sendIdle]
@[simp] theorem Inv_flitAcked_iff (n : Nat) (f : Flit) (s : State) : (flitAcked n f s).Inv ↔ s.Inv := by simp [flitAcked]
@[simp] theorem Inv_takeCredit_iff (n : Nat) (f : Flit) (s : State) : (takeCredit n f s).Inv ↔ s.Inv := Iff.rfl
@[simp] theorem Inv_flitBad_iff (n : Nat) (seq : Option Nat) (s : State) : (flitBad n seq s).Inv ↔ s.Inv := by simp [flitBad]

theorem resInv_tollIn {m : Msg} {s : State} (h : s.Inv) : resInv (tollIn m s) := by
  unfold tollIn
  dsimp only
  split
  · exact Inv_tollUp h
  split
  · exact Inv_tollDown h
  split
  · exact resInv_execTollQry h
  · exact resInv_execTollAns h

theorem resInv_mctlIn {m : Msg} {s : State} (h : s.Inv) : resInv (mctlIn m s) := by
  unfold mctlIn
  split
  · exact resInv_execMctlOpen h
  · exact resInv_execMctlAccept h
  · exact resInv_execMctlRefused h
  · exact resInv_onSlot h fun _ _ h => Inv_frameCheck h
  · exact resInv_execMctlSack h
  · exact resInv_onSlot h fun _ _ h => Inv_frameCheck h
  · exact resInv_onSlot h fun _ _ h => (Inv_mctl_iff ..).2 h
  · exact resInv_execMctlCack h
  · exact resInv_execMctlClose h
  · exact resInv_execMctlStopping h
  · exact h

theorem resInv_helloIn {port : Nat} {m : Msg} {s : State} (h : s.Inv) : resInv (helloIn port m s) := by
  unfold helloIn
  exact resInv_execHello h

theorem resInv_forOwn {port : Nat} {m : Msg} {k : State → Res} {s : State} (h : s.Inv) (hk : ∀ s, s.Inv → resInv (k s)) :
    resInv (forOwn port m k s) :=
  Inv_onMsg h fun _ h => Res.Inv_state h (hk _ ((Inv_noteFrom_iff ..).2 h))

theorem resInv_deliverMsg {port : Nat} {m : Msg} {s : State} (h : s.Inv) : resInv (deliverMsg port m s) :=
  resInv_ite_of (resInv_homeReq h) <|
  resInv_ite_of (resInv_homeReq h) <|
  resInv_ite_of (resInv_homeReq h) <|
  resInv_ite_of (resInv_homeReq h) <|
  resInv_ite_of (resInv_homeReq h) <|
  resInv_ite_of (resInv_homeMsg h fun _ _ h => Inv_onData h) <|
  resInv_ite_of (resInv_homeMsg h fun _ _ h => Inv_onAck h) <|
  resInv_ite_of (resInv_homeMsg h fun _ _ h => (Inv_onNotify_iff ..).2 h) <|
  resInv_ite_of (Inv_collPort h) <|
  resInv_ite_of (Inv_collPort h) <|
  resInv_ite_of (resInv_forOwn h fun _ h => resInv_onSlot h fun _ _ h => Inv_frameCheck h) <|
  resInv_ite_of (resInv_helloIn h) <|
  resInv_ite_of (resInv_execClaim h) <|
  resInv_ite_of (resInv_execRoute h) <|
  resInv_ite_of (resInv_execWithdraw h) <|
  resInv_ite_of (resInv_forOwn h fun _ h => resInv_tollIn h) <|
  resInv_ite_of (resInv_forOwn h fun _ h => resInv_execLost h) <|
  resInv_ite_of ((Inv_clapIn_iff ..).2 h) <|
  resInv_ite_of (resInv_execRate h) <|
  resInv_ite_of (Inv_collPort h) <|
  resInv_ite_of (resInv_forOwn h fun _ h => resInv_mctlIn h) <|
  (Inv_discardMsg_iff ..).2 h

@[simp] theorem Inv_flitMsgs_iff (n : Nat) (f : Flit) (s : State) : (flitMsgs n f s).2.Inv ↔ s.Inv := Iff.rfl
@[simp] theorem Inv_stepCount_iff (d : Int) (s : State) : (stepCount d s).Inv ↔ s.Inv := Iff.rfl
@[simp] theorem Inv_alignCount_iff (t1 t2 t3 t4 : W64) (s : State) : (alignCount t1 t2 t3 t4 s).Inv ↔ s.Inv := by simp [alignCount]
theorem resInv_execAlignedSet {s : State} (h : s.Inv) : resInv (execAlignedSet s) := by simp [execAlignedSet, h]

@[simp] theorem Inv_dataTaken {n : Nat} {f : Flit} {s : State} (h : s.Inv) : (dataTaken n f s).Inv := by
  unfold dataTaken
  refine State.Inv_ite_of ?h ((Inv_sendIdle_iff ..).2 ?h)
  refine (Inv_pump_iff ..).2 (Inv_foldl ?_ fun _ _ h => Res.Inv_state h (resInv_deliverMsg h))
  exact (Inv_flitMsgs_iff ..).2 ((State.Inv_modPort_iff ..).2 ((Inv_takeCredit_iff ..).2 h))

@[simp] theorem Inv_idleTaken_iff (n : Nat) (f : Flit) (s : State) : (idleTaken n f s).Inv ↔ s.Inv := by simp [idleTaken]
@[simp] theorem Inv_flitTaken {n : Nat} {f : Flit} {s : State} (h : s.Inv) : (flitTaken n f s).Inv := by simp [flitTaken, h]

@[simp] theorem Inv_flitIn {n : Nat} {rx : RxFlit} {s : State} (h : s.Inv) : (flitIn n rx s).Inv := by
  unfold flitIn
  repeat' split
  all_goals simp [h]

theorem resInv_execIdleFlit {port : Nat} {f : Flit} {sent echo back : W64} {s : State} (h : s.Inv) :
    resInv (execIdleFlit port f sent echo back s) := by
  simp [execIdleFlit, h]

theorem resInv_execHeartbeat {port : Nat} {s : State} (h : s.Inv) : resInv (execHeartbeat port s) := by simp [execHeartbeat, h]

/-! ### Every command -/

/-- An instruction that a thread may hold means what `reissueRes` answers for it; each other command has the lemma of the function
that gives it its meaning. -/
theorem resInv_exec {i : Instr} {s : State} (h : s.Inv) : resInv (exec i s) := by
  have held := resInv_reissueRes (i := i) h
  cases i <;> dsimp only [exec]
  case nop | endT | add | sub | and | or | xor | sll | srl | sra | slt | sltu | min | max | mul | mulhu | beq | bne | blt | bge | bltu | bgeu |
    j | jr | csrr | csrw | ldxD | stxD | ldxS | stxS | ldxV | ldxVI | stxV | stxVI | waitTok | waitTokall | waitMem | waitTime | bar | dset |
    cue | endcue | phase | clap | upd | rdw | coll | perm | scrub | toll | mmaOpen | mmaCont | rsc | cpyl | vadd | vsub | vmul | vmax | vmin |
    vfma | vabs | vneg | vmov | vsel | vcmpEq | vcmpNe | vcmpLt | vcmpLe | vcmpGt | vcmpGe | vcmpUn | vand | vor | vxor | vshl | vshr | viadd |
    vmand | vmor | vmxor | vmnot | vmpop | vins | vext | vidx | vshf | vcvt | vsfnExp2 | vsfnLog2 | vsfnRsqrt | vsfnRcp | vsfnTanh | vsfnErf =>
    exact held
  case ecall => exact resInv_cOnly h fun _ _ _ h => (Inv_exception_iff ..).2 h
  case eret => exact resInv_cOnly h fun _ _ _ h => State.Inv_ite_of ((Inv_exception_iff ..).2 h) (State.Inv_modCore _ _ _ _ h)
  case wfi => exact resInv_cOnly h fun _ _ _ h => State.Inv_ite_of ((Inv_exception_iff ..).2 h) ((Inv_finishC_iff ..).2 h)
  case fence => exact resInv_cOnly h fun _ _ _ h => (Inv_finishC_iff ..).2 h
  case interrupt => exact resInv_execInterrupt h
  case stbyWrite => exact resInv_execStbyWrite h
  case rtSwap | cbSwap => exact (State.Inv_modTile_iff ..).2 h
  case tableSwap => exact Inv_wake h
  case ldxB | ldxH | ldxW | ldxL => exact resInv_both h (fun _ _ h => Inv_ldxScalarT h) fun _ _ _ h => Inv_coreLoad h
  case stxB | stxH | stxW | stxL => exact resInv_both h (fun _ _ h => Inv_stxScalarT h) fun _ _ _ h => Inv_coreStore h
  case slotWaitGrant => exact Inv_wake (Inv_slotGrant h)
  case loadResponse => exact Inv_wake (Inv_loadResponse h)
  case storeAck => exact Inv_wake (Inv_storeAck h)
  case instructionFetch => exact Inv_fetchT h
  case runaheadFetch => exact Inv_raFetch h
  case semAdd | semSwap | semCas | semRead => exact resInv_both h (fun _ _ h => Inv_semT h) fun _ _ _ h => Inv_coreSem h
  case semHomePerform => exact Inv_wake (Inv_semHome h)
  case waitMet => exact Inv_waitMet h
  case waitExpired => exact Inv_waitExpired h
  case cueAdmission => exact resInv_execCueAdmission h
  case cueEnd => exact resInv_execCueEnd h
  case cueExpire => exact resInv_execCueExpire h
  case updPrecheckChunk => exact resInv_execUpdPrecheckChunk h
  case updStageChunk => exact resInv_execUpdStageChunk h
  case deriveChunk => exact resInv_execDeriveChunk h
  case auditChunk => exact resInv_execAuditChunk h
  case helperStart => exact (Inv_helperStart_iff ..).2 h
  case helperRefused => exact Inv_helperRefused h
  case rdwSector => exact resInv_execRdwSector h
  case collEngineStart => exact Inv_engineStart h
  case permPassAcked => exact Inv_permPass h
  case scrubZero => exact resInv_execScrubZero h
  case tollContributionSend => exact resInv_execTollContributionSend h
  case tollUp => exact Inv_tollUp h
  case tollDown => exact Inv_tollDown h
  case rollCommitChunk => exact resInv_execRollCommitChunk h
  case rollRecovery => exact resInv_execRollRecovery h
  case tollQry => exact resInv_execTollQry h
  case tollAns => exact resInv_execTollAns h
  case tollQueryTimeout => exact resInv_execTollQueryTimeout h
  case tollBind => exact Inv_hostWrite h fun _ h => (Inv_tollBind_iff ..).2 h
  case tollBindApply => exact (Inv_bindApply_iff ..).2 h
  case arrayBeat => exact resInv_execArrayBeat h
  case mmaComplete => exact Inv_wake (Inv_mmaDone h)
  case rscDrainStart => exact Inv_wake (Inv_drainStart h)
  case rscComplete => exact Inv_wake ((Inv_rscDone_iff ..).2 h)
  case cpylComplete => exact Inv_wake (Inv_cpylDone h)
  case openReq | closeReq => exact Inv_hostWrite h fun _ h => (Inv_reelCtlWrite_iff ..).2 h
  case reelRelease => exact (Inv_reelRelease_iff ..).2 h
  case seedWrite => exact Inv_hostWrite h fun _ h => (Inv_seedWrite_iff ..).2 h
  case launchStart => exact (Inv_launch_iff ..).2 h
  case completionRecordWrite => exact (Inv_complWrite_iff ..).2 h
  case completionWaitTimeout => exact (Inv_complTold_iff ..).2 h
  case sqTailDoorbell | cqHeadDoorbell | dmaTailDoorbell => exact Inv_hostWrite h fun _ h => Inv_doorbell h fun _ h => h
  case eqHeadDoorbell => exact Inv_hostWrite h fun _ h => Inv_doorbell h fun _ h => (Inv_mlistGo_iff ..).2 ((Inv_eqOverflow_iff ..).2 h)
  case ringEnable => exact Inv_hostWrite h fun _ h => (Inv_ringEnable_iff ..).2 h
  case dmaDescriptorStart => exact Inv_dmaStart h
  case dmaDescriptorDone => exact Inv_dmaHostEnd h
  case msixDelayExpire => exact (Inv_msixDelay_iff ..).2 h
  case splitModeWrite => exact (Inv_splitWrite_iff ..).2 h
  case xlateFlushComplete => exact resInv_execXlateFlushComplete h
  case tableWalkComplete => exact Inv_walkDone h
  case amissTimeout => exact resInv_execAmissTimeout h
  case invAll => exact Inv_hostWrite h fun _ h => Inv_xopGo h fun _ h => (Inv_invStart_iff ..).2 h
  case invRange => exact Inv_hostWrite h fun _ h => Inv_xopGo h fun _ h => (Inv_invRange_iff ..).2 h
  case load => exact Inv_hostWrite h fun _ h => Inv_xopGo h fun _ h => Inv_xopLoad h
  case nack => exact Inv_hostWrite h fun _ h => Inv_xopGo h fun _ h => Inv_xopNack h
  case xopInvalidateComplete => exact resInv_execXopInvalidateComplete h
  case pin | pinf | unpin | inval | flush => exact Inv_hostWrite h fun _ h => (Inv_copGo_iff ..).2 h
  case copComplete => exact Inv_copDone h
  case cacheFillReturn => exact Inv_wake (Inv_fillReturn h)
  case cacheReduction => exact Inv_wake (Inv_reduction h)
  case evictionStallEnd => exact Inv_wake (Inv_stallEnd h)
  case qcfgWrite => exact Inv_hostWrite h fun _ h => (Inv_quartersWrite_iff ..).2 h
  case qcfgSwitch => exact resInv_execQcfgSwitch h
  case bankRefresh => exact resInv_execBankRefresh h
  case patrolScrub => exact resInv_execPatrolScrub h
  case soft => exact Inv_hostWrite h fun _ h => Inv_rprGo h fun _ h => (Inv_rprSoft_iff ..).2 h
  case fuse => exact Inv_hostWrite h fun _ h => Inv_rprGo h fun _ h => (Inv_rprFuse_iff ..).2 h
  case retire => exact Inv_hostWrite h fun _ h => Inv_rprGo h fun _ h => (Inv_rprRetire_iff ..).2 h
  case rowRepairSwitch => exact resInv_execRowRepairSwitch h
  case pcRetireLineMove => exact resInv_execPcRetireLineMove h
  case hbmRsvWrite => exact Inv_hostWrite h fun _ h => Inv_rsvWrite h
  case hlogPersist => exact resInv_execHlogPersist h
  case tspareGo => exact Inv_hostWrite h fun _ h => (Inv_tspareWrite_iff ..).2 h
  case tileSwapStart => exact resInv_execTileSwapStart h
  case tileSwapSwitch => exact Inv_wake (Inv_ioPended (Inv_swapSwitch h))
  case laneFailure => exact Inv_laneFail h
  case portRetrainComplete => exact resInv_execPortRetrainComplete h
  case directorWatchdogExpiry => exact resInv_execDirectorWatchdogExpiry h
  case directorTakeoverComplete => exact resInv_execDirectorTakeoverComplete h
  case fwSwitchGo => exact Inv_hostWrite h fun _ h => (Inv_fwWrite_iff ..).2 h
  case fwSwitchPoint => exact resInv_execFwSwitchPoint h
  case fwSwitchTimeout => exact resInv_execFwSwitchTimeout h
  case fwSelfCheckComplete => exact resInv_execFwSelfCheckComplete h
  case gafferPeriod => exact Inv_gafferPeriod h
  case orderlyStopFinal => exact resInv_execOrderlyStopFinal h
  case throttleStep => exact resInv_execThrottleStep h
  case kCorrection => exact (Inv_kCorrection_iff ..).2 h
  case varrRequestComplete => exact (Inv_varrComplete_iff ..).2 h
  case avsRetry => exact resInv_execAvsRetry h
  case gafMismatch => exact resInv_execGafMismatch h
  case sensorSuspect => exact resInv_execSensorSuspect h
  case sensorTrusted => exact resInv_execSensorTrusted h
  case hostCapWrite => exact Inv_hostWrite h fun _ h => (Inv_hostCap_iff ..).2 h
  case pwrLimitAssert => exact resInv_execPwrLimitAssert h
  case pwrLimitRelease | d3hot | perstDeassert => exact h
  case enReq | disReq => exact Inv_hostWrite h fun _ h => (Inv_domWrite_iff ..).2 h
  case domainStartComplete => exact Inv_wake (Inv_ioPended ((Inv_domStarted_iff ..).2 h))
  case domainStopComplete => exact Inv_wake (Inv_domStopDone h)
  case foleyEnter => exact resInv_execFoleyEnter h
  case tcoefValid => exact Inv_hostWrite h fun _ h => (Inv_tcoefWrite_iff ..).2 h
  case legacyTrip => exact resInv_execLegacyTrip h
  case tripNAsserted => exact resInv_execTripNAsserted h
  case tripRelease => exact resInv_execTripRelease h
  case tripRestart => exact resInv_execTripRestart h
  case windowWriteStart => exact resInv_execWindowWriteStart h
  case idleFlit => exact resInv_execIdleFlit h
  case alignedSet => exact resInv_execAlignedSet h
  case heartbeat => exact resInv_execHeartbeat h
  case floorWrite => exact Inv_hostWrite h fun _ h => (Inv_floorWrite_iff ..).2 h
  case rate => exact resInv_execRate h
  case portUp => exact (Inv_portUp_iff ..).2 h
  case portLost => exact resInv_execPortLost h
  case dataFlit => exact Inv_flitIn h
  case hello => exact resInv_execHello h
  case helloRepeat => exact resInv_execHelloRepeat h
  case claim => exact resInv_execClaim h
  case idCfgWrite => exact Inv_hostWrite h fun _ h => (Inv_idCfgWrite_iff ..).2 h
  case claimed => exact resInv_execClaimed h
  case route => exact resInv_execRoute h
  case withdraw => exact resInv_execWithdraw h
  case lost => exact resInv_execLost h
  case rd | wr | sem | watch | zero => exact resInv_homeReq h
  case rdata => exact resInv_homeMsg h fun _ _ h => Inv_onData h
  case ack => exact resInv_homeMsg h fun _ _ h => Inv_onAck h
  case notify => exact resInv_homeMsg h fun _ _ h => (Inv_onNotify_iff ..).2 h
  case remoteRequestTimeout => exact resInv_execRemoteRequestTimeout h
  case cdata | pdata | copen => exact Inv_collPort h
  case collTimeout => exact resInv_execCollTimeout h
  case clapMsg => exact (Inv_clapIn_iff ..).2 h
  case freeze => exact resInv_execFreeze h
  case freezeRequest => exact Inv_hostWrite h fun _ h => (Inv_freezeAt_iff ..).2 ((Inv_clapFlood_iff ..).2 h)
  case mirrorEnWrite => exact Inv_hostWrite h fun _ h => State.Inv_ite_of ((Inv_mirWrite_iff ..).2 h) h
  case pmirArmWrite => exact Inv_hostWrite h fun _ h => State.Inv_ite_of ((Inv_pmirWrite_iff ..).2 h) h
  case take => exact Inv_hostWrite h fun _ h => (Inv_takeBegin_iff ..).2 h
  case partnerTakeover => exact Inv_takeover h
  case mctlOpen => exact resInv_execMctlOpen h
  case mctlRefused => exact resInv_execMctlRefused h
  case mrec | mctlSeal | mctlCommit => exact resInv_onSlot h fun _ _ h => Inv_frameCheck h
  case mctlSack => exact resInv_execMctlSack h
  case mctlDrop => exact resInv_onSlot h fun _ _ h => (Inv_mctl_iff ..).2 h
  case mctlCack => exact resInv_execMctlCack h
  case mctlClose => exact resInv_execMctlClose h
  case mctlStopping => exact resInv_execMctlStopping h
  case mirrorClearComplete => exact resInv_execMirrorClearComplete h
  case exportGo => exact Inv_hostWrite h fun _ h => (Inv_exportGo_iff ..).2 h
  case exportStart => exact resInv_execExportStart h
  case exportComplete => exact resInv_execExportComplete h
  case pcieLinkUp => exact State.Inv_ite_of (Inv_wake (Inv_ioPended (Inv_ioBack h))) h
  case pcieHotReset => exact resInv_execPcieHotReset h
  case configRequest => exact Inv_configRequest h
  case bar2Read => exact Inv_bar2Read h
  case bar2Write => exact Inv_bar2Write h
  case registerWrite => exact resInv_execRegisterWrite h
  case hostCompletion => exact Inv_hostDone h
  case hostCompletionTimeout => exact Inv_hostTimeout h
  case d0 => exact Inv_wake ((Inv_wakeD0_iff ..).2 h)
  case retentionEnter => exact resInv_execRetentionEnter h
  case offEnter => exact resInv_execOffEnter h
  case lcProvision | lcClaim | lcTransfer | lcReturn | lcVoid => exact (Inv_lcRequest_iff ..).2 h
  case lcCertify => exact (Inv_lcCertify_iff ..).2 h
  case svnCommit => exact (Inv_svnCommit_iff ..).2 h
  case imgGo => exact (Inv_imgGo_iff ..).2 h
  case imageVerifyComplete => exact resInv_execImageVerifyComplete h
  case chal => exact Inv_hostWrite h fun _ h => (Inv_debugChal_iff ..).2 h
  case dbgOpen => exact Inv_hostWrite h fun _ h => (Inv_debugOpen_iff ..).2 h
  case debugOpenCheck => exact resInv_execDebugOpenCheck h
  case dbgClose => exact Inv_hostWrite h fun _ h => Inv_debugClose h
  case debugSessionExpire => exact resInv_execDebugSessionExpire h
  case dbgHalt => exact Inv_hostWrite h fun _ h => (Inv_debugHalt_iff ..).2 h
  case dbgStep => exact Inv_hostWrite h fun _ h => Inv_debugStep h
  case dbgResume => exact Inv_hostWrite h fun _ h => Inv_wake ((Inv_dbgResume_iff ..).2 h)
  case threadWindowWrite => exact Inv_hostWrite h fun _ h => (Inv_threadWrite_iff ..).2 h
  case doeDiscovery => exact Inv_doe h fun _ h => (Inv_discovery_iff ..).2 h
  case getVersion | negotiateAlgorithms => exact Inv_doe h fun _ h => (State.Inv_send_iff ..).2 h
  case getCapabilities | getDigests | challenge => exact Inv_doe h fun _ h => (Inv_spdmReply_iff ..).2 h
  case getCertificate => exact Inv_doe h fun _ h => (Inv_getCert_iff ..).2 h
  case getMeasurements => exact Inv_doe h fun _ h => (Inv_getMeas_iff ..).2 h
  case keyExchange => exact Inv_doe h fun _ h => (Inv_keyExchange_iff ..).2 h
  case finish => exact Inv_doe h fun _ h => (Inv_finishSession_iff ..).2 h
  case endSession => exact Inv_doe h fun _ h => (Inv_endSession_iff ..).2 h
  case keyProg => exact Inv_doe h fun _ h => (Inv_keyInstall_iff ..).2 h
  case kSetGo => exact Inv_doe h fun _ h => (Inv_kSetActive_iff ..).2 h
  case kSetStop => exact Inv_doe h fun _ h => (Inv_kSetEnd_iff ..).2 h
  case alwaysOnStart => exact resInv_execAlwaysOnStart h
  case railOutOfRange => exact resInv_execRailOutOfRange h
  case refclkLoss => exact resInv_execRefclkLoss h
  case refclkReturn => exact resInv_execRefclkReturn h
  case stageEnd | stageTimeout => exact Inv_stageEnd h
  case takeRetry => exact resInv_execTakeRetry h
  case perstAssert => exact resInv_execPerstAssert h
  case jnlTake => exact Inv_jnlTake h
  case clrsel => exact (Inv_winRequest_iff ..).2 h
  case journalPlanWrite => exact (Inv_journalWrite_iff ..).2 h
  case resetCold => exact Inv_hostWrite h fun _ h => Inv_rstGo h fun _ h => Inv_coldReset h
  case resetWarm => exact Inv_hostWrite h fun _ h => Inv_rstGo h fun _ h => Inv_warmReset h
  case resetDomain => exact Inv_hostWrite h fun _ h => Inv_domainReset h
  case resetTile => exact Inv_hostWrite h fun _ h => Inv_rstGo h fun _ h => Inv_resetTile h
  case resetReel => exact Inv_hostWrite h fun _ h => Inv_resetReel h
  case resetIo => exact Inv_hostWrite h fun _ h => Inv_rstGo h fun _ h => Inv_ioAssertGo h
  case ioResetRelease => exact (State.Inv_modStart_iff ..).2 h
  case interfaceRetrained => exact Inv_wake (Inv_ioPended (Inv_ioBack h))
  case ioResetLimit => exact Inv_wake (Inv_ioPended (Inv_ioLimit h))
  case clr => exact Inv_hostWrite h fun _ h => (Inv_clrCounters_iff ..).2 h
  case obsEnableWrite => exact Inv_hostWrite h fun _ h => (Inv_obsWrite_iff ..).2 h
  case dailiesSample => exact Inv_dlySample h
  case traceDrain => exact Inv_traceDrain h
  case setBoardCap | railPower | inletTemp => exact Inv_mctpDo h fun _ h => (State.Inv_modPow_iff ..).2 h
  case setPhaseCaps => exact resInv_execSetPhaseCaps h
  case inletTempTimeout => exact (State.Inv_modPow_iff ..).2 h
  case mctpReset => exact resInv_execMctpReset h
  case powerOff => exact Inv_mctpDo h fun _ h => h
  case mctpRead => exact resInv_execMctpRead h
  case mctpUnknownCommand => exact resInv_execMctpUnknownCommand h
  case jtagBypass => exact (Inv_bypass_iff ..).2 h
  case jtagIdcode => exact resInv_execJtagIdcode h
  case jtagSamplePreload => exact resInv_execJtagSamplePreload h
  case jtagExtest => exact resInv_execJtagExtest h
  case jtagClamp => exact resInv_execJtagClamp h
  case jtagHighz => exact resInv_execJtagHighz h
  case avsNoAcknowledge => exact (Inv_avsNak_iff ..).2 h
  case railsInRange => exact resInv_execRailsInRange h
  case tripNHigh10s => exact resInv_execTripNHigh10s h
  case translationDisplacement => exact resInv_execTranslationDisplacement h
  case mctlAccept => exact resInv_execMctlAccept h
  case setdasa => exact resInv_execSetdasa h

end Sys2Proof.Machine

end

section
open Sys2Proof Sys2Proof.Machine

/-- Settles O60: an empty queue's step is one tick, and otherwise the front command's meaning keeps the form. -/
theorem stepKeepsMemoryCanonical : Obligations.StepKeepsMemoryCanonical := by
  intro s t h hstep
  unfold step at hstep
  split at hstep
  case h_1 =>
    cases hstep
    exact (State.Inv_tick_iff s).2 h
  case h_2 c rest _ =>
    have hres : resInv (exec c { s with pending := rest }) := resInv_exec h
    rw [hstep] at hres
    exact hres

end

/-! ### Vector compares, lane moves and the hard-wired registers (R110 to R131) -/

section
namespace Sys2Proof.Machine

/-! ### Vector and mask registers as lists of digits -/

/-- Digit `e` in base `2 ^ w` of the number that a list of digits makes. -/
theorem shiftRight_foldr_digits (w : Nat) (l : List Nat) (e : Nat) :
    (l.foldr (fun x acc => x % 2 ^ w + acc * 2 ^ w) 0 >>> (w * e)) % 2 ^ w = l.getD e 0 % 2 ^ w := by
  induction l generalizing e with
  | nil => simp
  | cons x xs ih =>
    cases e with
    | zero => simp
    | succ e =>
      have hx : ∀ acc, (x % 2 ^ w + acc * 2 ^ w) >>> w = acc := fun acc => by
        rw [Nat.shiftRight_eq_div_pow, Nat.add_mul_div_right _ _ (Nat.two_pow_pos w),
          Nat.div_eq_of_lt (Nat.mod_lt _ (Nat.two_pow_pos w)), Nat.zero_add]
      rw [Nat.mul_succ, Nat.add_comm (w * e), Nat.shiftRight_add, List.foldr_cons, hx]
      simpa using ih e

/-- Truncation to a register loses no digit that lies in it. -/
theorem toNat_ofNat_shiftRight_mod {n w e : Nat} (h : w * e + w ≤ n) (x : Nat) :
    ((BitVec.ofNat n x).toNat >>> (w * e)) % 2 ^ w = (x >>> (w * e)) % 2 ^ w := by
  rw [BitVec.toNat_ofNat]
  refine Nat.eq_of_testBit_eq fun i => ?_
  by_cases hi : i < w
  · have : w * e + i < n := by omega
    simp [Nat.testBit_mod_two_pow, Nat.testBit_shiftRight, hi, this]
  · simp [Nat.testBit_mod_two_pow, hi]

/-- Element `e` of a register made from its elements (R110). -/
theorem elem_ofElems {w e : Nat} (h : w * e + w ≤ 4096) (l : List Nat) : elem w (ofElems w l) e = l.getD e 0 % 2 ^ w :=
  (toNat_ofNat_shiftRight_mod h _).trans (shiftRight_foldr_digits w l e)

/-- Lane `k` of a register made from its lanes (R110). -/
theorem lane_ofLanes {k : Nat} (h : k < 128) (l : List Nat) : lane (ofLanes l) k = l.getD k 0 % 2 ^ 32 :=
  elem_ofElems (by omega) l

theorem lane_lt (v : VReg) (k : Nat) : lane v k < 2 ^ 32 := Nat.mod_lt _ (Nat.two_pow_pos 32)

theorem lanes_getD (v : VReg) {k : Nat} (h : k < 128) : (lanes v).getD k 0 = lane v k := by
  simp [lanes, h]

/-- What a lane takes under a mask fits the lane when the new value is cut to it. -/
theorem maskedLane_mod (b z : Bool) (x : Nat) (old : VReg) (k : Nat) :
    (if b then x else if z then 0 else lane old k) % 2 ^ 32 = if b then x % 2 ^ 32 else if z then 0 else lane old k := by
  cases b
  case true => rfl
  case false =>
    cases z
    case true => rfl
    case false => exact Nat.mod_eq_of_lt (lane_lt old k)

/-- A lane of a register that takes new lanes under a mask (R130). -/
theorem lane_maskLanes (z : Bool) (m : MReg) (old : VReg) (new : List Nat) {k : Nat} (h : k < 128) :
    lane (maskLanes z m old new) k = if bitOf m k then new.getD k 0 % 2 ^ 32 else if z then 0 else lane old k := by
  rw [maskLanes, lane_ofLanes h, ← maskedLane_mod]
  simp [h, mbit]

/-- A lane of a register after one lane was replaced. -/
theorem lane_ofLanes_set (v : VReg) (x : Nat) {j k : Nat} (h : k < 128) :
    lane (ofLanes ((lanes v).set j x)) k = if k = j then x % 2 ^ 32 else lane v k := by
  rw [lane_ofLanes h]
  split
  case isTrue hkj =>
    subst hkj
    simp [lanes, h]
  case isFalse hkj =>
    rw [List.getD_eq_getElem?_getD, List.getElem?_set_ne (Ne.symm hkj), ← List.getD_eq_getElem?_getD, lanes_getD v h,
      Nat.mod_eq_of_lt (lane_lt v k)]

/-- Bit `k` of a mask made from its bits. -/
theorem bitOf_ofBits (bit : Nat → Bool) {k : Nat} (h : k < 128) :
    bitOf (BitVec.ofNat 128 ((List.range 128).foldr (fun j acc => b2n (bit j) + 2 * acc) 0)) k = bit k := by
  have hb : ∀ j, b2n (bit j) % 2 ^ 1 = b2n (bit j) := fun j => by cases bit j <;> rfl
  have hf : (List.range 128).foldr (fun j acc => b2n (bit j) + 2 * acc) 0 =
      ((List.range 128).map (fun j => b2n (bit j))).foldr (fun x acc => x % 2 ^ 1 + acc * 2 ^ 1) 0 := by
    simp only [List.foldr_map, hb]
    simp only [Nat.pow_one, Nat.mul_comm 2]
  have hd := shiftRight_foldr_digits 1 ((List.range 128).map (fun j => b2n (bit j))) k
  rw [← hf, ← toNat_ofNat_shiftRight_mod (n := 128) (by omega), Nat.one_mul, Nat.pow_one] at hd
  rw [bitOf, hd]
  cases hbit : bit k <;> simp [h, hbit, b2n]

/-! ### The completion of a vector instruction -/

section
variable {s : State} {r : TRef} {f : VForm} {regs : List Reg} {n : Nat} {g : Thread → Thread}

/-- Beats that serve no cue and are not counted leave the device as it is. -/
theorem vecBeats_plain (hp : plainVector s r = true) : vecBeats r n s = s := by
  simp only [plainVector, Bool.and_eq_true, Bool.not_eq_true', Option.isNone_iff_eq_none] at hp
  obtain ⟨hcnt, hcue⟩ := hp
  simp [vecBeats, cntFix, State.counting, hcnt, serveCue, hcue]

/-- A vector instruction that raises no flag and keeps the program counter changes its thread, which goes on. -/
theorem vecDone_noFlag (hp : plainVector s r = true) (hpc : (g (s.thread r)).pc = (s.thread r).pc) :
    vecDone r f n (fun t => (g t, 0)) s = s.modThread r (fun t => (g t).completed 0 (lenOf f.x) ((s.thread r).after f.x)) := by
  simp [vecDone, vecBeats_plain hp, finishWith_eq, Thread.after, hpc]

/-- Such an instruction of a ready thread issues, and nothing but the thread changes. -/
theorem tOnly_vecDone {xOk : Bool} (i : Instr) (hx : xOk = true) (hp : plainVector s r = true) (hr : ready s r regs = true)
    (hpc : (g (s.thread r)).pc = (s.thread r).pc) :
    ∃ t, tOnly (.t r) i f.x xOk regs (fun r => vecDone r f n (fun t => (g t, 0))) s = .next t ∧
      onlyThread r ((g (s.thread r)).completed 0 (lenOf f.x) ((s.thread r).after f.x)) s t :=
  tOnly_only r i f.x xOk regs _ (fun t => (g t).completed 0 (lenOf f.x) ((s.thread r).after f.x)) s hx hr
    (vecDone_noFlag hp hpc) rfl

/-- An instruction that takes no immediate does its work when I = 0 (R174). -/
theorem vecPlain_eq (i : Instr) (w : Who) (k : TRef → State → State) (hi : f.i = false) :
    vecPlain i w f regs k s = tOnly w i f.x f.x.isNone regs k s := by
  simp [vecPlain, hi]

/-- An instruction of one word that takes no immediate and raises no flag changes its ready thread alone. -/
theorem runs_vecPlain {i : Instr} (hx : f.x = none) (hi : f.i = false) (hp : plainVector s r = true) (hr : ready s r regs = true)
    (hexec : exec i s = vecPlain i (.t r) f regs (fun r => vecDone r f n (fun t => (g t, 0))) s)
    (hpc : (g (s.thread r)).pc = (s.thread r).pc) :
    runs i s (onlyThread r ((g (s.thread r)).completed 0 1 ((s.thread r).pc + 8)) s) := by
  have h := tOnly_vecDone (f := f) (n := n) i (xOk := f.x.isNone) (by simp only [hx, Option.isNone_none]) hp hr hpc
  rw [← vecPlain_eq i _ _ hi, ← hexec, hx] at h
  exact h

/-- An instruction of one word that refuses its fields completes with FORM_MISMATCH, and no register changes. -/
theorem runs_vecPlain_formMismatch {i : Instr} (hx : f.x = none) (hi : f.i = false)
    (hr : ready s r regs = true) (hh : (s.thread r).haltsOn stFormMismatch = false)
    (hexec : exec i s = vecPlain i (.t r) f regs (fun r => finish r f.x stFormMismatch) s) :
    runs i s (onlyThread r ((s.thread r).completed stFormMismatch 1 ((s.thread r).pc + 8)) s) := by
  have h := tOnly_only r i f.x f.x.isNone regs (fun r => finish r f.x stFormMismatch) _ s (by simp only [hx, Option.isNone_none]) hr
    (finish_goesOn r f.x stFormMismatch s hh) rfl
  rw [← vecPlain_eq i _ _ hi, ← hexec, hx] at h
  exact h

/-- A thread whose VD took new lanes under the mask holds an element-wise result that raises no flag. -/
theorem vectorResult_of_maskLanes {t : State} (hx : f.x = none) {new : List Nat} {val : Nat → Nat}
    (hval : ∀ e, e < 128 → new.getD e 0 = val e)
    (h : onlyThread r (((s.thread r).setV f.vd.toNat
      (maskLanes f.z ((s.thread r).mreg f.mm.toNat) ((s.thread r).vreg f.vd.toNat) new)).completed 0 1 ((s.thread r).pc + 8)) s t) :
    vectorResult r f 32 (fun e => (val e, 0)) s t := by
  refine ⟨maskLanes f.z ((s.thread r).mreg f.mm.toNat) ((s.thread r).vreg f.vd.toNat) new, 0, ?thread, fun e he => ?lanes,
    fun k hk => ?flags⟩
  case thread =>
    rw [hx, show ∀ b : BitVec 4, b ||| 0 = b from fun _ => BitVec.or_zero]
    exact h
  case lanes =>
    simp only [Nat.mul_div_cancel e (by decide : 0 < 32), ← hval e he]
    exact lane_maskLanes _ _ _ _ he
  case flags => simp

end

/-! ### VSHF -/

/-- The lane that VSHF moves, by its pattern (Table 4.4). -/
theorem shufLane_eq (pat par : Nat) (v : VReg) (i : Nat) :
    shufLane pat par v i = if pat = 0 then lane v (Nat.xor i par) else if pat = 1 then lane v ((i + par) % 128) else if pat = 2 then lane v par
      else lane v i / 2 ^ 16 + (lane v i % 2 ^ 16) * 2 ^ 16 := by
  match pat with
  | 0 | 1 | 2 | _ + 3 => rfl

/-- VSHF completes with FORM_MISMATCH for an XOR with what is no power of two, and otherwise moves lanes (R113). -/
theorem exec_vshf (r : TRef) (f : VForm) (s : State) {pat par : Nat} (hpat : f.imm.toNat % 4 = pat) (hpar : f.imm.toNat / 4 % 128 = par) :
    exec (.vshf (.t r) f) s = vecPlain (.vshf (.t r) f) (.t r) f (vRegs f [f.va.toNat]) (fun r s =>
      if pat = 0 ∧ par ∉ ([1, 2, 4, 8, 16, 32, 64] : List Nat) then finish r f.x stFormMismatch s
      else vecDone r f 1 (fun t => (t.setV f.vd.toNat (maskLanes f.z (t.mreg f.mm.toNat) (t.vreg f.vd.toNat)
        ((List.range 128).map (shufLane pat par (t.vreg f.va.toNat)))), 0)) s) s := by
  have hbits : natBits f.imm.toNat 8 2 = par :=
    (congrArg (· % 128) (Nat.shiftRight_eq_div_pow f.imm.toNat 2)).trans hpar
  have hform : ((pat == 0 && !([1, 2, 4, 8, 16, 32, 64].contains par)) = true) = (pat = 0 ∧ par ∉ ([1, 2, 4, 8, 16, 32, 64] : List Nat)) := by
    simp
  show execVshf (.t r) f s = _
  simp only [execVshf, hbits, hpat, hform]

/-! ### VCMP -/

/-- A format of an EF code: what it names, and that 32-bit elements are those of code 0 (Table 6.2). -/
theorem efFmt_of_code {q : Nat × FFmt} (h : q ∈ ([(0, fF32), (1, fF16), (2, fBF16)] : List (Nat × FFmt))) :
    efFmt q.1 = some q.2 ∧ (q.2.w == 32) = (q.1 == 0) := by
  simp only [List.mem_cons, List.not_mem_nil, or_false] at h
  obtain rfl | rfl | rfl := h <;> exact ⟨rfl, rfl⟩

/-- A comparison in a floating-point format writes its mask and no flag (R119). -/
theorem vecCmp_maskResult {s : State} {r : TRef} {f : VForm} {ef : Nat} {g : FFmt} (hx : (f.x.isNone || f.i) = true)
    (hp : plainVector s r = true) (hr : ready s r ([.m (f.vd.toNat % 8), .m f.mm.toNat] ++ (srcsAB f).map .v) = true)
    (hg : efFmt f.ef.toNat = some g) (hw : (g.w == 32) = (ef == 0)) (i : Instr) (p : Num → Num → Bool) :
    ∃ t, vecCmp i (.t r) f p s = .next t ∧ maskResult r f (fun k =>
      let e := if ef = 0 then k else 2 * k + (if f.h then 1 else 0)
      if bitOf ((s.thread r).mreg f.mm.toNat) k then
        p (g.decode (elem g.w ((s.thread r).vreg f.va.toNat) e)) (g.decode (lastSrc f ((s.thread r).vreg f.vb.toNat) e))
      else !f.z && bitOf ((s.thread r).mreg (f.vd.toNat % 8)) k) s t := by
  unfold vecCmp
  simp only [hg, hw, beq_iff_eq]
  exact (tOnly_vecDone i hx hp hr (Thread.setM_pc ..)).imp fun t ⟨hnext, honly⟩ =>
    ⟨hnext, _, honly, fun k hk => bitOf_ofBits _ hk⟩

end Sys2Proof.Machine

open Sys2Proof Sys2Proof.Machine

/-- Settles O6: the four cases of a register written and a register read. -/
theorem hardWiredRegisters : Obligations.HardWiredRegisters := by
  refine ⟨fun t v => ⟨rfl, rfl⟩, fun t v => ⟨rfl, rfl⟩, fun t n k v hn => ⟨?_, fun hk => ?_⟩, fun t n k v hn => ⟨?_, fun hk => ?_⟩⟩
  · rw [Thread.sreg_setS, if_neg hn, if_pos rfl]
  · rw [Thread.sreg_setS, if_neg hk]
    split
    case isTrue h0 => rw [h0]; rfl
    case isFalse => rfl
  · rw [Thread.mreg_setM, if_neg hn, if_pos rfl]
  · rw [Thread.mreg_setM, if_neg hk]
    split
    case isTrue h0 => rw [h0]; rfl
    case isFalse => rfl

/-- Settles O29: the seven comparisons are one operation with seven predicates, in each format. -/
theorem vectorCompares : Obligations.VectorCompares := by
  intro r f s hx hp th ab p hmem hr q hq hef
  have hexec : exec (p.1 (.t r) f) s = vecCmp (p.1 (.t r) f) (.t r) f p.2 s := by
    simp only [List.mem_cons, List.not_mem_nil, or_false] at hmem
    obtain rfl | rfl | rfl | rfl | rfl | rfl | rfl := hmem <;> rfl
  obtain ⟨hg, hw⟩ := efFmt_of_code hq
  rw [runs, hexec]
  exact vecCmp_maskResult hx hp hr (hef ▸ hg) hw _ _

/-- Settles O31: each move changes its destination register alone; lane by lane, what it writes there. -/
theorem vectorLaneMoves : Obligations.VectorLaneMoves := by
  intro r f s hx hi hp th j on pat p
  have hexec := exec_vshf r f s (pat := pat) (par := p) rfl rfl
  refine ⟨fun hr => ?vins, fun hr => ?vext, fun hr => ?vidx, fun hr => ⟨fun hform => ?vshf, fun hpat hpar hh => ?refused⟩⟩
  case vins =>
    obtain ⟨t, hnext, honly⟩ := runs_vecPlain hx hi hp hr (i := .vins (.t r) f) rfl (Thread.setV_pc ..)
    refine ⟨t, hnext, _, honly, fun k hk => ?_⟩
    rw [lane_ofLanes_set _ _ hk]
    split
    case isTrue => exact (maskedLane_mod (on j) _ _ _ _).trans (by rw [Nat.mod_mod])
    case isFalse => rfl
  case vext =>
    refine runs_vecPlain hx hi hp hr (i := .vext (.t r) f) rfl ?_
    simp only [apply_ite Thread.pc, Thread.setS_pc, ite_self]
  case vidx =>
    obtain ⟨t, hnext, honly⟩ := runs_vecPlain hx hi hp hr (i := .vidx (.t r) f) rfl (Thread.setV_pc ..)
    exact ⟨t, hnext, vectorResult_of_maskLanes hx (fun e he => by simp [he]) honly⟩
  case vshf =>
    have hmoves : ¬ (pat = 0 ∧ p ∉ ([1, 2, 4, 8, 16, 32, 64] : List Nat)) := fun ⟨hpat, hpar⟩ => hform.elim (· hpat) hpar
    simp only [if_neg hmoves] at hexec
    obtain ⟨t, hnext, honly⟩ := runs_vecPlain hx hi hp hr hexec (Thread.setV_pc ..)
    exact ⟨t, hnext, vectorResult_of_maskLanes hx (fun e he => by simp [th, he, shufLane_eq]) honly⟩
  case refused =>
    simp only [if_pos (And.intro hpat hpar)] at hexec
    exact runs_vecPlain_formMismatch hx hi hr hh hexec

end
